-- ==== Sys2Proof/Word.lean ====
section
/-!
DEFINITION. Word.lean: the operand widths of the Super386 DX and its plainest arithmetic.
-/
namespace Sys2Proof

/-- A byte, the smallest addressable quantity (20_memory.md R103). -/
abbrev Byte := BitVec 8

/-- A doubleword: the width of a general register, of an address and of EIP (R103, R31). -/
abbrev Dword := BitVec 32

/-- The three operand widths of the integer instructions: byte, word, doubleword (R103, R262). -/
inductive Width where
  | b | w | d
deriving DecidableEq, Repr

/-- Bits of an operand of this width. -/
def Width.bits : Width → Nat
  | .b => 8
  | .w => 16
  | .d => 32

/-- Bytes of an operand of this width. -/
def Width.bytes : Width → Nat
  | .b => 1
  | .w => 2
  | .d => 4

/-- A value of an operand of the given width. -/
abbrev Val (k : Width) := BitVec k.bits

/-- The two non-byte widths, chosen by a size attribute: false is 16 bits, true is 32 (R262, R263). -/
def Width.ofSize : Bool → Width
  | false => .w
  | true => .d

/-- The default sizes an instruction is decoded under: operand size and address size, true = 32 bits
(R262, R263). -/
structure Sizes where
  os32 : Bool
  as32 : Bool
deriving DecidableEq, Repr

end Sys2Proof
end

