-- ==== Sys2Proof/Syntax.lean ====
section
/-!
DEFINITION. Syntax.lean: the instructions of the Super386 DX as data, one constructor for each mnemonic of
opcode_table.json (a mnemonic whose rows act on different kinds of state has one constructor for each kind), with the
operand forms of its rows as arguments.
-/
namespace Sys2Proof

/-- The eight general registers in the order of their numbers (10_state.md R32). In a byte form the number names
AL, CL, DL, BL, AH, CH, DH, BH. -/
inductive Reg where
  | eax | ecx | edx | ebx | esp | ebp | esi | edi
deriving DecidableEq, Repr

/-- The six segment registers in the order of their numbers (R45). -/
inductive Sreg where
  | es | cs | ss | ds | fs | gs
deriving DecidableEq, Repr

/-- What the REG field of opcodes 8C and 8E can hold: a segment register, or one of the two reserved numbers, which
raise #UD (R45, R596). -/
inductive SregField where
  | reg (s : Sreg) | reserved6 | reserved7
deriving DecidableEq, Repr

/-- The eight base and index choices of 16-bit addressing, in the order of r/m (30_encoding.md R271). -/
inductive Base16 where
  | bxsi | bxdi | bpsi | bpdi | si | di | bp | bx
deriving DecidableEq, Repr

/-- The displacement of a 16-bit address: none, one byte, two bytes (R271, R274). -/
inductive Disp16 where
  | none | d8 (v : BitVec 8) | d16 (v : BitVec 16)
deriving DecidableEq, Repr

/-- The displacement of a 32-bit address: none, one byte, four bytes (R272, R274). -/
inductive Disp32 where
  | none | d8 (v : BitVec 8) | d32 (v : BitVec 32)
deriving DecidableEq, Repr

/-- A memory operand as ModR/M, SIB and displacement give it (R271 to R273). -/
inductive MemOp where
  /-- AS = 16, displacement only (MOD 00, r/m 110). -/
  | abs16 (d : BitVec 16)
  /-- AS = 16 with registers. -/
  | base16 (b : Base16) (d : Disp16)
  /-- AS = 32, displacement only (MOD 00, r/m 101). -/
  | abs32 (d : BitVec 32)
  /-- AS = 32, one register, no SIB byte. -/
  | base32 (b : Reg) (d : Disp32)
  /-- SIB byte with a base register; an index of esp means no index (R273). -/
  | sib (scale : BitVec 2) (index base : Reg) (d : Disp32)
  /-- SIB byte with base 101 and MOD 00: a four-byte displacement and no base register. -/
  | sibAbs (scale : BitVec 2) (index : Reg) (d : BitVec 32)
deriving DecidableEq, Repr

/-- The E operand of a ModR/M byte: a register (MOD 11) or memory (R268). -/
inductive RM where
  | reg (r : Reg) | mem (m : MemOp)
deriving DecidableEq, Repr

/-- An immediate, displacement or offset whose size an attribute selects: two or four bytes (R276, R279, R280). -/
inductive Imm where
  | w (v : BitVec 16) | d (v : BitVec 32)
deriving DecidableEq, Repr

/-- Operand forms of the eight two-operand arithmetic and logical instructions (R285, GRP1). The second operand of
`wide` forms is OS bits. -/
inductive AluForm where
  /-- opcode base + 0 or + 1: r/m is the destination. -/
  | rmReg (wide : Bool) (rm : RM) (r : Reg)
  /-- opcode base + 2 or + 3: the register is the destination. -/
  | regRm (wide : Bool) (r : Reg) (rm : RM)
  /-- opcode base + 4. -/
  | alImm (i : BitVec 8)
  /-- opcode base + 5. -/
  | axImm (i : Imm)
  /-- opcode 80. -/
  | rmImm8 (rm : RM) (i : BitVec 8)
  /-- opcode 82, an alias of 80. -/
  | rmImm8Alias (rm : RM) (i : BitVec 8)
  /-- opcode 81. -/
  | rmImm (rm : RM) (i : Imm)
  /-- opcode 83, a sign-extended byte. -/
  | rmSext (rm : RM) (i : BitVec 8)
deriving DecidableEq, Repr

/-- Operand forms of TEST: 84, 85, A8, A9, F6 and F7 with REG 000 or its alias 001 (R287). -/
inductive TestForm where
  | rmReg (wide : Bool) (rm : RM) (r : Reg)
  | alImm (i : BitVec 8)
  | axImm (i : Imm)
  | rmImm8 (isAlias : Bool) (rm : RM) (i : BitVec 8)
  | rmImm (isAlias : Bool) (rm : RM) (i : Imm)
deriving DecidableEq, Repr

/-- Operand forms of the general MOV: 88 to 8B, A0 to A3, B0 to BF, C6 and C7. -/
inductive MovForm where
  | rmReg (wide : Bool) (rm : RM) (r : Reg)
  | regRm (wide : Bool) (r : Reg) (rm : RM)
  | accMoff (wide : Bool) (off : Imm)
  | moffAcc (wide : Bool) (off : Imm)
  | regImm8 (r : Reg) (i : BitVec 8)
  | regImm (r : Reg) (i : Imm)
  | rmImm8 (rm : RM) (i : BitVec 8)
  | rmImm (rm : RM) (i : Imm)
deriving DecidableEq, Repr

/-- Operand forms of PUSH: 50 to 57, 68, 6A, FF /6. -/
inductive PushForm where
  | reg (r : Reg) | imm (i : Imm) | imm8 (i : BitVec 8) | rmOp (rm : RM)
deriving DecidableEq, Repr

/-- Operand forms of POP: 58 to 5F, 8F /0. -/
inductive PopForm where
  | reg (r : Reg) | rmOp (rm : RM)
deriving DecidableEq, Repr

/-- Operand forms of XCHG: 86, 87, 91 to 97. -/
inductive XchgForm where
  | rmReg (wide : Bool) (rm : RM) (r : Reg) | acc (r : Reg)
deriving DecidableEq, Repr

/-- The count of a shift or rotate: an immediate (C0, C1), one (D0, D1), CL (D2, D3). -/
inductive ShiftCount where
  | imm (i : BitVec 8) | one | cl
deriving DecidableEq, Repr

/-- The count of SHLD and SHRD. -/
inductive DoubleCount where
  | imm (i : BitVec 8) | cl
deriving DecidableEq, Repr

/-- Operand forms of the bit tests: a register or an immediate bit offset. -/
inductive BitForm where
  | rmReg (rm : RM) (r : Reg) | rmImm (rm : RM) (i : BitVec 8)
deriving DecidableEq, Repr

/-- Operand forms of IMUL: F6 /5 and F7 /5, 0F AF, 69, 6B. -/
inductive ImulForm where
  | one (wide : Bool) (rm : RM)
  | two (r : Reg) (rm : RM)
  | three (r : Reg) (rm : RM) (i : Imm)
  | threeSext (r : Reg) (rm : RM) (i : BitVec 8)
deriving DecidableEq, Repr

/-- Operand forms of INC and DEC: 40 to 4F, FE and FF. -/
inductive IncForm where
  | reg (r : Reg) | rmOp (wide : Bool) (rm : RM)
deriving DecidableEq, Repr

/-- Operand forms of IN and OUT: an immediate port or DX. -/
inductive PortForm where
  | imm (wide : Bool) (port : BitVec 8) | dx (wide : Bool)
deriving DecidableEq, Repr

/-- Operand forms of the conditional jumps: 7x and 0F 8x. -/
inductive JccForm where
  | short (rel : BitVec 8) | near (rel : Imm)
deriving DecidableEq, Repr

/-- Operand forms of the near JMP: EB, E9, FF /4. -/
inductive JmpForm where
  | short (rel : BitVec 8) | near (rel : Imm) | rmOp (rm : RM)
deriving DecidableEq, Repr

/-- Operand forms of the near CALL: E8, FF /2. -/
inductive CallForm where
  | rel (rel : Imm) | rmOp (rm : RM)
deriving DecidableEq, Repr

/-- Operand forms of the far JMP and CALL: a direct pointer (EA, 9A) or memory (FF /5, FF /3). -/
inductive FarForm where
  | ptr (off : Imm) (sel : BitVec 16) | rmOp (rm : RM)
deriving DecidableEq, Repr

/-- A byte pattern that is not an instruction (R300, R301): the bytes the decoder looked at to know. -/
inductive Undef where
  /-- One-byte opcodes D6 and F1. -/
  | op (b : Byte)
  /-- Two-byte opcodes 0F b. -/
  | op0F (b : Byte)
  /-- A blank group slot of FE, FF, 8F, C6, C7: the opcode and ModR/M. -/
  | grp (b m : Byte)
  /-- A blank group slot of 0F 00, 0F 01, 0F BA. -/
  | grp0F (b m : Byte)
deriving DecidableEq, Repr

/-- The instructions and prefixes of opcode_table.json. -/
inductive Instr where
  | segEs | segCs | segSs | segDs | segFs | segGs
  | opsize | adrsize | lock | repne | rep
  | add (f : AluForm) | or_ (f : AluForm) | adc (f : AluForm) | sbb (f : AluForm)
  | and_ (f : AluForm) | sub (f : AluForm) | xor_ (f : AluForm) | cmp (f : AluForm)
  | test (f : TestForm)
  | mov (f : MovForm)
  | movFromSreg (rm : RM) (k : SregField) | movToSreg (k : SregField) (rm : RM)
  | movFromCr (mod : BitVec 2) (n : BitVec 3) (r : Reg) | movToCr (mod : BitVec 2) (n : BitVec 3) (r : Reg)
  | movFromDr (mod : BitVec 2) (n : BitVec 3) (r : Reg) | movToDr (mod : BitVec 2) (n : BitVec 3) (r : Reg)
  | movFromTr (mod : BitVec 2) (n : BitVec 3) (r : Reg) | movToTr (mod : BitVec 2) (n : BitVec 3) (r : Reg)
  | push (f : PushForm) | pushSreg (k : Sreg)
  | pop (f : PopForm) | popSreg (k : Sreg)
  | xchg (f : XchgForm) | nop
  | movzx (wide : Bool) (r : Reg) (rm : RM) | movsx (wide : Bool) (r : Reg) (rm : RM)
  | cbw | cwde | cwd | cdq
  | pusha | popa
  | lea (r : Reg) (rm : RM)
  | les (r : Reg) (rm : RM) | lds (r : Reg) (rm : RM) | lss (r : Reg) (rm : RM)
  | lfs (r : Reg) (rm : RM) | lgs (r : Reg) (rm : RM)
  | rol (wide : Bool) (rm : RM) (c : ShiftCount) | ror (wide : Bool) (rm : RM) (c : ShiftCount)
  | rcl (wide : Bool) (rm : RM) (c : ShiftCount) | rcr (wide : Bool) (rm : RM) (c : ShiftCount)
  | shl (isAlias : Bool) (wide : Bool) (rm : RM) (c : ShiftCount)
  | shr (wide : Bool) (rm : RM) (c : ShiftCount) | sar (wide : Bool) (rm : RM) (c : ShiftCount)
  | shld (rm : RM) (r : Reg) (c : DoubleCount) | shrd (rm : RM) (r : Reg) (c : DoubleCount)
  | bt (f : BitForm) | bts (f : BitForm) | btr (f : BitForm) | btc (f : BitForm)
  | bsf (r : Reg) (rm : RM) | bsr (r : Reg) (rm : RM)
  | imul (f : ImulForm)
  | mul (wide : Bool) (rm : RM) | div (wide : Bool) (rm : RM) | idiv (wide : Bool) (rm : RM)
  | not_ (wide : Bool) (rm : RM) | neg (wide : Bool) (rm : RM)
  | inc (f : IncForm) | dec (f : IncForm)
  | daa | das | aaa | aas | aam (i : BitVec 8) | aad (i : BitVec 8)
  | in_ (f : PortForm) | out (f : PortForm)
  | insb | insv | outsb | outsv
  | movsb | movsv | cmpsb | cmpsv | stosb | stosv | lodsb | lodsv | scasb | scasv
  | jo (f : JccForm) | jno (f : JccForm) | jb (f : JccForm) | jnb (f : JccForm)
  | jz (f : JccForm) | jnz (f : JccForm) | jbe (f : JccForm) | jnbe (f : JccForm)
  | js (f : JccForm) | jns (f : JccForm) | jp (f : JccForm) | jnp (f : JccForm)
  | jl (f : JccForm) | jnl (f : JccForm) | jle (f : JccForm) | jnle (f : JccForm)
  | seto (rm : RM) | setno (rm : RM) | setb (rm : RM) | setnb (rm : RM)
  | setz (rm : RM) | setnz (rm : RM) | setbe (rm : RM) | setnbe (rm : RM)
  | sets (rm : RM) | setns (rm : RM) | setp (rm : RM) | setnp (rm : RM)
  | setl (rm : RM) | setnl (rm : RM) | setle (rm : RM) | setnle (rm : RM)
  | jmpNear (f : JmpForm) | jmpFar (f : FarForm)
  | callNear (f : CallForm) | callFar (f : FarForm)
  | retNear (n : Option (BitVec 16)) | retFar (n : Option (BitVec 16))
  | int3 | int (n : BitVec 8) | into | iret
  | loopne (rel : BitVec 8) | loope (rel : BitVec 8) | loop (rel : BitVec 8) | jcxz (rel : BitVec 8)
  | enter (size : BitVec 16) (level : BitVec 8) | leave
  | bound (r : Reg) (rm : RM) | arpl (rm : RM) (r : Reg)
  | wait | pushf | popf | sahf | lahf | xlatb
  | esc (op : BitVec 3) (ext : BitVec 3) (rm : RM)
  | hlt | cmc | clc | stc | cli | sti | cld | std
  | sldt (rm : RM) | str (rm : RM) | lldt (rm : RM) | ltr (rm : RM) | verr (rm : RM) | verw (rm : RM)
  | sgdt (rm : RM) | sidt (rm : RM) | lgdt (rm : RM) | lidt (rm : RM) | smsw (rm : RM) | lmsw (rm : RM)
  | lar (r : Reg) (rm : RM) | lsl (r : Reg) (rm : RM)
  | clts | scall (r : Reg) (rm : RM)
  | ssvLow (n : BitVec 3) | ssvHigh (n : BitVec 4)
  | undefined (u : Undef)
deriving DecidableEq, Repr

/-- The prefixes are decoded as items of their own; the step collects them before the instruction (R252). -/
def Instr.isPrefix : Instr → Bool
  | .segEs => true | .segCs => true | .segSs => true | .segDs => true | .segFs => true | .segGs => true
  | .opsize => true | .adrsize => true | .lock => true | .repne => true | .rep => true
  | _ => false

end Sys2Proof
end

