-- ==== Sys2Proof/WellFormed.lean ====
section
/-!
DEFINITION. WellFormed.lean: which instruction terms are the reading of some byte sequence under given default sizes.
-/
namespace Sys2Proof

/-- The address size of a memory operand is the address-size attribute, and the shape is one its ModR/M and SIB bytes
can give: 16-bit BP and 32-bit EBP bases need a displacement, ESP is no base without a SIB byte (R271 to R273). -/
def MemOp.wf (as32 : Bool) : MemOp → Bool
  | .abs16 _ => !as32
  | .base16 b d => !as32 && !(b == .bp && d == .none)
  | .abs32 _ => as32
  | .base32 b d => as32 && b != .esp && !(b == .ebp && d == .none)
  | .sib _ _ b d => as32 && !(b == .ebp && d == .none)
  | .sibAbs _ _ _ => as32

/-- A register operand is well formed under any address size. -/
def RM.wf (as32 : Bool) : RM → Bool
  | .reg _ => true
  | .mem m => m.wf as32

/-- The immediate has the size the attribute selects (R280). -/
def Imm.wf (is32 : Bool) : Imm → Bool
  | .w _ => !is32
  | .d _ => is32

def AluForm.wf (z : Sizes) : AluForm → Bool
  | .rmReg _ rm _ => rm.wf z.as32
  | .regRm _ _ rm => rm.wf z.as32
  | .alImm _ => true
  | .axImm i => i.wf z.os32
  | .rmImm8 rm _ => rm.wf z.as32
  | .rmImm8Alias rm _ => rm.wf z.as32
  | .rmImm rm i => rm.wf z.as32 && i.wf z.os32
  | .rmSext rm _ => rm.wf z.as32

def TestForm.wf (z : Sizes) : TestForm → Bool
  | .rmReg _ rm _ => rm.wf z.as32
  | .alImm _ => true
  | .axImm i => i.wf z.os32
  | .rmImm8 _ rm _ => rm.wf z.as32
  | .rmImm _ rm i => rm.wf z.as32 && i.wf z.os32

def MovForm.wf (z : Sizes) : MovForm → Bool
  | .rmReg _ rm _ => rm.wf z.as32
  | .regRm _ _ rm => rm.wf z.as32
  | .accMoff _ o => o.wf z.as32
  | .moffAcc _ o => o.wf z.as32
  | .regImm8 _ _ => true
  | .regImm _ i => i.wf z.os32
  | .rmImm8 rm _ => rm.wf z.as32
  | .rmImm rm i => rm.wf z.as32 && i.wf z.os32

def PushForm.wf (z : Sizes) : PushForm → Bool
  | .reg _ => true
  | .imm i => i.wf z.os32
  | .imm8 _ => true
  | .rmOp rm => rm.wf z.as32

def PopForm.wf (z : Sizes) : PopForm → Bool
  | .reg _ => true
  | .rmOp rm => rm.wf z.as32

/-- The one-byte exchange with the accumulator itself is NOP, a constructor of its own (40_data_movement.md). -/
def XchgForm.wf (z : Sizes) : XchgForm → Bool
  | .rmReg _ rm _ => rm.wf z.as32
  | .acc r => r != .eax

def BitForm.wf (z : Sizes) : BitForm → Bool
  | .rmReg rm _ => rm.wf z.as32
  | .rmImm rm _ => rm.wf z.as32

def ImulForm.wf (z : Sizes) : ImulForm → Bool
  | .one _ rm => rm.wf z.as32
  | .two _ rm => rm.wf z.as32
  | .three _ rm i => rm.wf z.as32 && i.wf z.os32
  | .threeSext _ rm _ => rm.wf z.as32

def IncForm.wf (z : Sizes) : IncForm → Bool
  | .reg _ => true
  | .rmOp _ rm => rm.wf z.as32

def JccForm.wf (z : Sizes) : JccForm → Bool
  | .short _ => true
  | .near i => i.wf z.os32

def JmpForm.wf (z : Sizes) : JmpForm → Bool
  | .short _ => true
  | .near i => i.wf z.os32
  | .rmOp rm => rm.wf z.as32

def CallForm.wf (z : Sizes) : CallForm → Bool
  | .rel i => i.wf z.os32
  | .rmOp rm => rm.wf z.as32

def FarForm.wf (z : Sizes) : FarForm → Bool
  | .ptr o _ => o.wf z.os32
  | .rmOp rm => rm.wf z.as32

/-- The second bytes of two-byte opcodes that are blank in the map (R300). -/
def undef0F (b : Byte) : Bool :=
  let n := b.toNat
  n == 4 || n == 5 || (7 ≤ n && n ≤ 0x0F) || (0x19 ≤ n && n ≤ 0x1F) || n == 0x25 || (0x27 ≤ n && n ≤ 0x7F)
    || n == 0xA2 || n == 0xA6 || n == 0xA7 || n == 0xAA || n == 0xAE || n == 0xB0 || n == 0xB1
    || n == 0xB8 || n == 0xB9 || (0xC0 ≤ n && n ≤ 0xEF)

/-- The blank slots of the one-byte groups, and REG ≠ 000 of 8F, C6 and C7 (R300, R301, D32). -/
def undefGrp (b : Byte) (reg : BitVec 3) : Bool :=
  (b == 0xFE#8 && 2 ≤ reg.toNat) || (b == 0xFF#8 && reg == 7#3)
    || ((b == 0x8F#8 || b == 0xC6#8 || b == 0xC7#8) && reg != 0#3)

/-- The blank slots of 0F 00, 0F 01 and 0F BA (R287, R300). -/
def undefGrp0F (b : Byte) (reg : BitVec 3) : Bool :=
  (b == 0x00#8 && 6 ≤ reg.toNat) || (b == 0x01#8 && (reg == 5#3 || reg == 7#3))
    || (b == 0xBA#8 && reg.toNat < 4)

/-- A byte pattern of R300 or R301. -/
def Undef.wf : Undef → Bool
  | .op b => b == 0xD6#8 || b == 0xF1#8
  | .op0F b => undef0F b
  | .grp b m => undefGrp b (m.extractLsb' 3 3)
  | .grp0F b m => undefGrp0F b (m.extractLsb' 3 3)

/-- The instruction is the reading of some bytes when the operand and address sizes are z (R250 to R288). -/
def Instr.wf (z : Sizes) : Instr → Bool
  | .segEs => true | .segCs => true | .segSs => true | .segDs => true | .segFs => true | .segGs => true
  | .opsize => true | .adrsize => true | .lock => true | .repne => true | .rep => true
  | .add f => f.wf z | .or_ f => f.wf z | .adc f => f.wf z | .sbb f => f.wf z
  | .and_ f => f.wf z | .sub f => f.wf z | .xor_ f => f.wf z | .cmp f => f.wf z
  | .test f => f.wf z
  | .mov f => f.wf z
  | .movFromSreg rm _ => rm.wf z.as32 | .movToSreg _ rm => rm.wf z.as32
  | .movFromCr _ _ _ => true | .movToCr _ _ _ => true | .movFromDr _ _ _ => true | .movToDr _ _ _ => true
  | .movFromTr _ _ _ => true | .movToTr _ _ _ => true
  | .push f => f.wf z | .pushSreg _ => true
  | .pop f => f.wf z | .popSreg s => s != .cs
  | .xchg f => f.wf z | .nop => true
  | .movzx _ _ rm => rm.wf z.as32 | .movsx _ _ rm => rm.wf z.as32
  | .cbw => !z.os32 | .cwde => z.os32 | .cwd => !z.os32 | .cdq => z.os32
  | .pusha => true | .popa => true
  | .lea _ rm => rm.wf z.as32
  | .les _ rm => rm.wf z.as32 | .lds _ rm => rm.wf z.as32 | .lss _ rm => rm.wf z.as32
  | .lfs _ rm => rm.wf z.as32 | .lgs _ rm => rm.wf z.as32
  | .rol _ rm _ => rm.wf z.as32 | .ror _ rm _ => rm.wf z.as32 | .rcl _ rm _ => rm.wf z.as32
  | .rcr _ rm _ => rm.wf z.as32 | .shl _ _ rm _ => rm.wf z.as32 | .shr _ rm _ => rm.wf z.as32
  | .sar _ rm _ => rm.wf z.as32
  | .shld rm _ _ => rm.wf z.as32 | .shrd rm _ _ => rm.wf z.as32
  | .bt f => f.wf z | .bts f => f.wf z | .btr f => f.wf z | .btc f => f.wf z
  | .bsf _ rm => rm.wf z.as32 | .bsr _ rm => rm.wf z.as32
  | .imul f => f.wf z
  | .mul _ rm => rm.wf z.as32 | .div _ rm => rm.wf z.as32 | .idiv _ rm => rm.wf z.as32
  | .not_ _ rm => rm.wf z.as32 | .neg _ rm => rm.wf z.as32
  | .inc f => f.wf z | .dec f => f.wf z
  | .daa => true | .das => true | .aaa => true | .aas => true | .aam _ => true | .aad _ => true
  | .in_ _ => true | .out _ => true
  | .insb => true | .insv => true | .outsb => true | .outsv => true
  | .movsb => true | .movsv => true | .cmpsb => true | .cmpsv => true | .stosb => true | .stosv => true
  | .lodsb => true | .lodsv => true | .scasb => true | .scasv => true
  | .jo f => f.wf z | .jno f => f.wf z | .jb f => f.wf z | .jnb f => f.wf z
  | .jz f => f.wf z | .jnz f => f.wf z | .jbe f => f.wf z | .jnbe f => f.wf z
  | .js f => f.wf z | .jns f => f.wf z | .jp f => f.wf z | .jnp f => f.wf z
  | .jl f => f.wf z | .jnl f => f.wf z | .jle f => f.wf z | .jnle f => f.wf z
  | .seto rm => rm.wf z.as32 | .setno rm => rm.wf z.as32 | .setb rm => rm.wf z.as32 | .setnb rm => rm.wf z.as32
  | .setz rm => rm.wf z.as32 | .setnz rm => rm.wf z.as32 | .setbe rm => rm.wf z.as32
  | .setnbe rm => rm.wf z.as32 | .sets rm => rm.wf z.as32 | .setns rm => rm.wf z.as32
  | .setp rm => rm.wf z.as32 | .setnp rm => rm.wf z.as32 | .setl rm => rm.wf z.as32
  | .setnl rm => rm.wf z.as32 | .setle rm => rm.wf z.as32 | .setnle rm => rm.wf z.as32
  | .jmpNear f => f.wf z | .jmpFar f => f.wf z
  | .callNear f => f.wf z | .callFar f => f.wf z
  | .retNear _ => true | .retFar _ => true
  | .int3 => true | .int _ => true | .into => true | .iret => true
  | .loopne _ => true | .loope _ => true | .loop _ => true | .jcxz _ => true
  | .enter _ _ => true | .leave => true
  | .bound _ rm => rm.wf z.as32 | .arpl rm _ => rm.wf z.as32
  | .wait => true | .pushf => true | .popf => true | .sahf => true | .lahf => true | .xlatb => true
  | .esc _ _ rm => rm.wf z.as32
  | .hlt => true | .cmc => true | .clc => true | .stc => true | .cli => true | .sti => true | .cld => true
  | .std => true
  | .sldt rm => rm.wf z.as32 | .str rm => rm.wf z.as32 | .lldt rm => rm.wf z.as32 | .ltr rm => rm.wf z.as32
  | .verr rm => rm.wf z.as32 | .verw rm => rm.wf z.as32
  | .sgdt rm => rm.wf z.as32 | .sidt rm => rm.wf z.as32 | .lgdt rm => rm.wf z.as32 | .lidt rm => rm.wf z.as32
  | .smsw rm => rm.wf z.as32 | .lmsw rm => rm.wf z.as32
  | .lar _ rm => rm.wf z.as32 | .lsl _ rm => rm.wf z.as32
  | .clts => true | .scall _ rm => rm.wf z.as32
  | .ssvLow _ => true | .ssvHigh _ => true
  | .undefined u => u.wf

end Sys2Proof
end

