-- ==== Sys2Proof/Decode.lean ====
section
/-!
DEFINITION. Decode.lean: from bytes to one item (a prefix or an instruction), total, and back (30_encoding.md R250 to
R303). A byte pattern that is no instruction decodes to Instr.undefined with its bytes, whose meaning raises #UD.
-/
namespace Sys2Proof

/-! ## Numbers of registers and fields -/

/-- Register numbers (10_state.md R32). -/
def Reg.num : Reg → BitVec 3
  | .eax => 0 | .ecx => 1 | .edx => 2 | .ebx => 3 | .esp => 4 | .ebp => 5 | .esi => 6 | .edi => 7

/-- The register of a number (R32). -/
def Reg.ofNum (n : BitVec 3) : Reg :=
  match n.toNat with
  | 0 => .eax | 1 => .ecx | 2 => .edx | 3 => .ebx | 4 => .esp | 5 => .ebp | 6 => .esi | _ => .edi

/-- Segment register numbers (R45). -/
def Sreg.num : Sreg → BitVec 3
  | .es => 0 | .cs => 1 | .ss => 2 | .ds => 3 | .fs => 4 | .gs => 5

/-- The number in the REG field of 8C and 8E (R45, R596). -/
def SregField.num : SregField → BitVec 3
  | .reg s => s.num | .reserved6 => 6 | .reserved7 => 7

/-- The reading of the REG field of 8C and 8E (R45, R596). -/
def SregField.ofNum (n : BitVec 3) : SregField :=
  match n.toNat with
  | 0 => .reg .es | 1 => .reg .cs | 2 => .reg .ss | 3 => .reg .ds | 4 => .reg .fs | 5 => .reg .gs
  | 6 => .reserved6 | _ => .reserved7

/-- r/m numbers of 16-bit addressing (R271). -/
def Base16.num : Base16 → BitVec 3
  | .bxsi => 0 | .bxdi => 1 | .bpsi => 2 | .bpdi => 3 | .si => 4 | .di => 5 | .bp => 6 | .bx => 7

/-- The 16-bit base and index of an r/m number (R271). -/
def Base16.ofNum (n : BitVec 3) : Base16 :=
  match n.toNat with
  | 0 => .bxsi | 1 => .bxdi | 2 => .bpsi | 3 => .bpdi | 4 => .si | 5 => .di | 6 => .bp | _ => .bx

/-! ## Reading bytes -/

/-- A reader of instruction bytes: none when the bytes given do not suffice. -/
abbrev Parse := StateT (List Byte) Option

/-- The next byte. -/
def Parse.byte : Parse Byte := fun l =>
  match l with
  | [] => none
  | b :: t => some (b, t)

/-- Two bytes, the less significant first (20_memory.md R102, R250). -/
def Parse.word : Parse (BitVec 16) := do
  let b0 ← Parse.byte
  let b1 ← Parse.byte
  return b1 ++ b0

/-- Four bytes, the least significant first (R102, R250). -/
def Parse.dword : Parse (BitVec 32) := do
  let w0 ← Parse.word
  let w1 ← Parse.word
  return w1 ++ w0

/-- An immediate, displacement or offset of the size an attribute selects (R276, R279, R280). -/
def Parse.imm (is32 : Bool) : Parse Imm :=
  if is32 then do let v ← Parse.dword; return .d v
  else do let v ← Parse.word; return .w v

/-- The fields MOD, REG and r/m of a ModR/M byte (R268). -/
structure ModRM where
  mod : BitVec 2
  reg : BitVec 3
  rm : BitVec 3
deriving DecidableEq, Repr

/-- The three fields of a ModR/M or SIB byte (R268). -/
def ModRM.ofByte (b : Byte) : ModRM := ⟨b.extractLsb' 6 2, b.extractLsb' 3 3, b.extractLsb' 0 3⟩

/-- The byte of three fields (R268). -/
def ModRM.byte (mod : BitVec 2) (reg rm : BitVec 3) : Byte := mod ++ reg ++ rm

/-- The displacement a MOD of 00, 01 or 10 asks for with AS = 16 (R271). -/
def Parse.disp16 (mod : BitVec 2) : Parse Disp16 :=
  match mod.toNat with
  | 0 => return .none
  | 1 => do let v ← Parse.byte; return .d8 v
  | _ => do let v ← Parse.word; return .d16 v

/-- The displacement a MOD of 00, 01 or 10 asks for with AS = 32 (R272). -/
def Parse.disp32 (mod : BitVec 2) : Parse Disp32 :=
  match mod.toNat with
  | 0 => return .none
  | 1 => do let v ← Parse.byte; return .d8 v
  | _ => do let v ← Parse.dword; return .d32 v

/-- The SIB byte and its displacement (R273). -/
def Parse.sib (mod : BitVec 2) : Parse MemOp := do
  let s := ModRM.ofByte (← Parse.byte)
  if s.rm = 5 ∧ mod = 0 then do
    let v ← Parse.dword
    return .sibAbs s.mod (Reg.ofNum s.reg) v
  else do
    let d ← Parse.disp32 mod
    return .sib s.mod (Reg.ofNum s.reg) (Reg.ofNum s.rm) d

/-- The E operand of a ModR/M byte already read (R268, R271 to R274). -/
def Parse.rm (as32 : Bool) (m : ModRM) : Parse RM :=
  if m.mod = 3 then return .reg (Reg.ofNum m.rm)
  else if as32 then
    if m.rm = 4 then do let a ← Parse.sib m.mod; return .mem a
    else if m.rm = 5 ∧ m.mod = 0 then do let v ← Parse.dword; return .mem (.abs32 v)
    else do let d ← Parse.disp32 m.mod; return .mem (.base32 (Reg.ofNum m.rm) d)
  else
    if m.rm = 6 ∧ m.mod = 0 then do let v ← Parse.word; return .mem (.abs16 v)
    else do let d ← Parse.disp16 m.mod; return .mem (.base16 (Base16.ofNum m.rm) d)

/-- A ModR/M byte. -/
def Parse.modrm : Parse ModRM := do return ModRM.ofByte (← Parse.byte)

/-- A ModR/M byte and its E operand: the REG field as a general register and the operand. -/
def Parse.regRm (z : Sizes) : Parse (Reg × RM) := do
  let m ← Parse.modrm
  let rm ← Parse.rm z.as32 m
  return (Reg.ofNum m.reg, rm)

/-! ## Operand forms -/

/-- The six forms at the low end of each arithmetic row (R285). -/
def Parse.aluForm (z : Sizes) (lo : Nat) : Parse AluForm :=
  match lo with
  | 0 => do let (r, rm) ← Parse.regRm z; return .rmReg false rm r
  | 1 => do let (r, rm) ← Parse.regRm z; return .rmReg true rm r
  | 2 => do let (r, rm) ← Parse.regRm z; return .regRm false r rm
  | 3 => do let (r, rm) ← Parse.regRm z; return .regRm true r rm
  | 4 => do let i ← Parse.byte; return .alImm i
  | _ => do let i ← Parse.imm z.os32; return .axImm i

/-- The arithmetic instruction of opcode bits 5:3, and of GRP1's REG (R285, R287). -/
def aluInstr (k : Nat) (f : AluForm) : Instr :=
  match k with
  | 0 => .add f | 1 => .or_ f | 2 => .adc f | 3 => .sbb f | 4 => .and_ f | 5 => .sub f | 6 => .xor_ f | _ => .cmp f

/-- GRP1, opcodes 80 to 83 (R287). -/
def Parse.grp1 (z : Sizes) (lo : Nat) : Parse Instr := do
  let m ← Parse.modrm
  let rm ← Parse.rm z.as32 m
  match lo with
  | 0 => do let i ← Parse.byte; return aluInstr m.reg.toNat (.rmImm8 rm i)
  | 1 => do let i ← Parse.imm z.os32; return aluInstr m.reg.toNat (.rmImm rm i)
  | 2 => do let i ← Parse.byte; return aluInstr m.reg.toNat (.rmImm8Alias rm i)
  | _ => do let i ← Parse.byte; return aluInstr m.reg.toNat (.rmSext rm i)

/-- The shift or rotate of GRP2's REG; 110 is an alias of SHL (R287). -/
def shiftInstr (k : Nat) (wide : Bool) (rm : RM) (c : ShiftCount) : Instr :=
  match k with
  | 0 => .rol wide rm c | 1 => .ror wide rm c | 2 => .rcl wide rm c | 3 => .rcr wide rm c
  | 4 => .shl false wide rm c | 5 => .shr wide rm c | 6 => .shl true wide rm c | _ => .sar wide rm c

/-- GRP2 with an immediate count: C0, C1 (R287). -/
def Parse.grp2Imm (z : Sizes) (wide : Bool) : Parse Instr := do
  let m ← Parse.modrm
  let rm ← Parse.rm z.as32 m
  let i ← Parse.byte
  return shiftInstr m.reg.toNat wide rm (.imm i)

/-- GRP2 with a count of one or CL: D0 to D3 (R287). -/
def Parse.grp2 (z : Sizes) (wide : Bool) (c : ShiftCount) : Parse Instr := do
  let m ← Parse.modrm
  let rm ← Parse.rm z.as32 m
  return shiftInstr m.reg.toNat wide rm c

/-- GRP3, F6 and F7; 001 is an alias of TEST (R287). -/
def Parse.grp3 (z : Sizes) (wide : Bool) : Parse Instr := do
  let m ← Parse.modrm
  let rm ← Parse.rm z.as32 m
  match m.reg.toNat with
  | 2 => return .not_ wide rm
  | 3 => return .neg wide rm
  | 4 => return .mul wide rm
  | 5 => return .imul (.one wide rm)
  | 6 => return .div wide rm
  | 7 => return .idiv wide rm
  | n =>
    if wide then do let i ← Parse.imm z.os32; return .test (.rmImm (n == 1) rm i)
    else do let i ← Parse.byte; return .test (.rmImm8 (n == 1) rm i)

/-- GRP4, FE (R287). -/
def Parse.grp4 (z : Sizes) : Parse Instr := do
  let b ← Parse.byte
  let m := ModRM.ofByte b
  match m.reg.toNat with
  | 0 => do let rm ← Parse.rm z.as32 m; return .inc (.rmOp false rm)
  | 1 => do let rm ← Parse.rm z.as32 m; return .dec (.rmOp false rm)
  | _ => return .undefined (.grp 0xFE#8 b)

/-- GRP5, FF; the near and far forms stand as Appendix A has them (R287, conflict C26). -/
def Parse.grp5 (z : Sizes) : Parse Instr := do
  let b ← Parse.byte
  let m := ModRM.ofByte b
  if m.reg = 7 then return .undefined (.grp 0xFF#8 b)
  else do
    let rm ← Parse.rm z.as32 m
    match m.reg.toNat with
    | 0 => return .inc (.rmOp true rm)
    | 1 => return .dec (.rmOp true rm)
    | 2 => return .callNear (.rmOp rm)
    | 3 => return .callFar (.rmOp rm)
    | 4 => return .jmpNear (.rmOp rm)
    | 5 => return .jmpFar (.rmOp rm)
    | _ => return .push (.rmOp rm)

/-- 8F, C6 and C7 with REG ≠ 000 are no instructions (R301). R290 gives this #UD no place among the fetches: nothing
behind the ModR/M byte is fetched. DESIGN CHOICE, unsafe (assumption log 55). -/
def Parse.slot0 (z : Sizes) (op : Byte) (k : RM → Parse Instr) : Parse Instr := do
  let b ← Parse.byte
  let m := ModRM.ofByte b
  if m.reg = 0 then do let rm ← Parse.rm z.as32 m; k rm
  else return .undefined (.grp op b)

/-- GRP6, 0F 00 (R287). -/
def Parse.grp6 (z : Sizes) : Parse Instr := do
  let b ← Parse.byte
  let m := ModRM.ofByte b
  match m.reg.toNat with
  | 0 => do let rm ← Parse.rm z.as32 m; return .sldt rm
  | 1 => do let rm ← Parse.rm z.as32 m; return .str rm
  | 2 => do let rm ← Parse.rm z.as32 m; return .lldt rm
  | 3 => do let rm ← Parse.rm z.as32 m; return .ltr rm
  | 4 => do let rm ← Parse.rm z.as32 m; return .verr rm
  | 5 => do let rm ← Parse.rm z.as32 m; return .verw rm
  | _ => return .undefined (.grp0F 0x00#8 b)

/-- GRP7, 0F 01 (R287). -/
def Parse.grp7 (z : Sizes) : Parse Instr := do
  let b ← Parse.byte
  let m := ModRM.ofByte b
  match m.reg.toNat with
  | 0 => do let rm ← Parse.rm z.as32 m; return .sgdt rm
  | 1 => do let rm ← Parse.rm z.as32 m; return .sidt rm
  | 2 => do let rm ← Parse.rm z.as32 m; return .lgdt rm
  | 3 => do let rm ← Parse.rm z.as32 m; return .lidt rm
  | 4 => do let rm ← Parse.rm z.as32 m; return .smsw rm
  | 6 => do let rm ← Parse.rm z.as32 m; return .lmsw rm
  | _ => return .undefined (.grp0F 0x01#8 b)

/-- GRP8, 0F BA (R287). -/
def Parse.grp8 (z : Sizes) : Parse Instr := do
  let b ← Parse.byte
  let m := ModRM.ofByte b
  if m.reg.toNat < 4 then return .undefined (.grp0F 0xBA#8 b)
  else do
    let rm ← Parse.rm z.as32 m
    let i ← Parse.byte
    match m.reg.toNat with
    | 4 => return .bt (.rmImm rm i)
    | 5 => return .bts (.rmImm rm i)
    | 6 => return .btr (.rmImm rm i)
    | _ => return .btc (.rmImm rm i)

/-- MOV to or from a control, debug or test register: the ModR/M byte is read whole and no SIB or displacement
follows (R275). -/
def Parse.special (k : BitVec 2 → BitVec 3 → Reg → Instr) : Parse Instr := do
  let m ← Parse.modrm
  return k m.mod m.reg (Reg.ofNum m.rm)


/-- The conditional jump of a condition number (R285, R286). -/
def jccInstr (k : Nat) (f : JccForm) : Instr :=
  match k with
  | 0 => .jo f
  | 1 => .jno f
  | 2 => .jb f
  | 3 => .jnb f
  | 4 => .jz f
  | 5 => .jnz f
  | 6 => .jbe f
  | 7 => .jnbe f
  | 8 => .js f
  | 9 => .jns f
  | 10 => .jp f
  | 11 => .jnp f
  | 12 => .jl f
  | 13 => .jnl f
  | 14 => .jle f
  | _ => .jnle f

/-- SETcc of a condition number (R286). -/
def setccInstr (k : Nat) (rm : RM) : Instr :=
  match k with
  | 0 => .seto rm
  | 1 => .setno rm
  | 2 => .setb rm
  | 3 => .setnb rm
  | 4 => .setz rm
  | 5 => .setnz rm
  | 6 => .setbe rm
  | 7 => .setnbe rm
  | 8 => .sets rm
  | 9 => .setns rm
  | 10 => .setp rm
  | 11 => .setnp rm
  | 12 => .setl rm
  | 13 => .setnl rm
  | 14 => .setle rm
  | _ => .setnle rm

/-! ## The opcode maps -/

/-- Opcodes 00 to 3F (R285). -/
def Parse.rowsAlu (z : Sizes) (hi lo : Nat) : Parse Instr :=
  if lo < 6 then do let f ← Parse.aluForm z lo; return aluInstr (2 * hi) f
  else if 8 ≤ lo ∧ lo < 14 then do let f ← Parse.aluForm z (lo - 8); return aluInstr (2 * hi + 1) f
  else match hi, lo with
    | 0, 6 => return .pushSreg .es
    | 0, 7 => return .popSreg .es
    | 0, _ => return .pushSreg .cs
    | 1, 6 => return .pushSreg .ss
    | 1, 7 => return .popSreg .ss
    | 1, 14 => return .pushSreg .ds
    | 1, _ => return .popSreg .ds
    | 2, 6 => return .segEs
    | 2, 7 => return .daa
    | 2, 14 => return .segCs
    | 2, _ => return .das
    | _, 6 => return .segSs
    | _, 7 => return .aaa
    | _, 14 => return .segDs
    | _, _ => return .aas

/-- Opcodes 60 to 6F (R285). -/
def Parse.row6 (z : Sizes) (lo : Nat) : Parse Instr :=
  match lo with
  | 0 => return .pusha
  | 1 => return .popa
  | 2 => do let (r, rm) ← Parse.regRm z; return .bound r rm
  | 3 => do let (r, rm) ← Parse.regRm z; return .arpl rm r
  | 4 => return .segFs
  | 5 => return .segGs
  | 6 => return .opsize
  | 7 => return .adrsize
  | 8 => do let i ← Parse.imm z.os32; return .push (.imm i)
  | 9 => do let (r, rm) ← Parse.regRm z; let i ← Parse.imm z.os32; return .imul (.three r rm i)
  | 10 => do let i ← Parse.byte; return .push (.imm8 i)
  | 11 => do let (r, rm) ← Parse.regRm z; let i ← Parse.byte; return .imul (.threeSext r rm i)
  | 12 => return .insb
  | 13 => return .insv
  | 14 => return .outsb
  | _ => return .outsv

/-- Opcodes 80 to 8F (R285). For 8C and 8E the SIB byte and the displacement are fetched also where the segment
number makes the instruction #UD: DESIGN CHOICE, unsafe (assumption log 55). -/
def Parse.row8 (z : Sizes) (lo : Nat) : Parse Instr :=
  match lo with
  | 4 => do let (r, rm) ← Parse.regRm z; return .test (.rmReg false rm r)
  | 5 => do let (r, rm) ← Parse.regRm z; return .test (.rmReg true rm r)
  | 6 => do let (r, rm) ← Parse.regRm z; return .xchg (.rmReg false rm r)
  | 7 => do let (r, rm) ← Parse.regRm z; return .xchg (.rmReg true rm r)
  | 8 => do let (r, rm) ← Parse.regRm z; return .mov (.rmReg false rm r)
  | 9 => do let (r, rm) ← Parse.regRm z; return .mov (.rmReg true rm r)
  | 10 => do let (r, rm) ← Parse.regRm z; return .mov (.regRm false r rm)
  | 11 => do let (r, rm) ← Parse.regRm z; return .mov (.regRm true r rm)
  | 12 => do let m ← Parse.modrm; let rm ← Parse.rm z.as32 m; return .movFromSreg rm (SregField.ofNum m.reg)
  | 13 => do let (r, rm) ← Parse.regRm z; return .lea r rm
  | 14 => do let m ← Parse.modrm; let rm ← Parse.rm z.as32 m; return .movToSreg (SregField.ofNum m.reg) rm
  | 15 => Parse.slot0 z 0x8F#8 fun rm => return .pop (.rmOp rm)
  | _ => Parse.grp1 z lo

/-- Opcodes 90 to 9F (R285). -/
def Parse.row9 (z : Sizes) (lo : Nat) : Parse Instr :=
  match lo with
  | 0 => return .nop
  | 8 => return if z.os32 then .cwde else .cbw
  | 9 => return if z.os32 then .cdq else .cwd
  | 10 => do let o ← Parse.imm z.os32; let s ← Parse.word; return .callFar (.ptr o s)
  | 11 => return .wait
  | 12 => return .pushf
  | 13 => return .popf
  | 14 => return .sahf
  | 15 => return .lahf
  | _ => return .xchg (.acc (Reg.ofNum (BitVec.ofNat 3 lo)))

/-- Opcodes A0 to AF (R285). -/
def Parse.rowA (z : Sizes) (lo : Nat) : Parse Instr :=
  match lo with
  | 0 => do let o ← Parse.imm z.as32; return .mov (.accMoff false o)
  | 1 => do let o ← Parse.imm z.as32; return .mov (.accMoff true o)
  | 2 => do let o ← Parse.imm z.as32; return .mov (.moffAcc false o)
  | 3 => do let o ← Parse.imm z.as32; return .mov (.moffAcc true o)
  | 4 => return .movsb
  | 5 => return .movsv
  | 6 => return .cmpsb
  | 7 => return .cmpsv
  | 8 => do let i ← Parse.byte; return .test (.alImm i)
  | 9 => do let i ← Parse.imm z.os32; return .test (.axImm i)
  | 10 => return .stosb
  | 11 => return .stosv
  | 12 => return .lodsb
  | 13 => return .lodsv
  | 14 => return .scasb
  | _ => return .scasv

/-- Opcodes C0 to CF (R285). -/
def Parse.rowC (z : Sizes) (lo : Nat) : Parse Instr :=
  match lo with
  | 0 => Parse.grp2Imm z false
  | 1 => Parse.grp2Imm z true
  | 2 => do let n ← Parse.word; return .retNear (some n)
  | 3 => return .retNear none
  | 4 => do let (r, rm) ← Parse.regRm z; return .les r rm
  | 5 => do let (r, rm) ← Parse.regRm z; return .lds r rm
  | 6 => Parse.slot0 z 0xC6#8 fun rm => do let i ← Parse.byte; return .mov (.rmImm8 rm i)
  | 7 => Parse.slot0 z 0xC7#8 fun rm => do let i ← Parse.imm z.os32; return .mov (.rmImm rm i)
  | 8 => do let n ← Parse.word; let l ← Parse.byte; return .enter n l
  | 9 => return .leave
  | 10 => do let n ← Parse.word; return .retFar (some n)
  | 11 => return .retFar none
  | 12 => return .int3
  | 13 => do let n ← Parse.byte; return .int n
  | 14 => return .into
  | _ => return .iret

/-- Opcodes D0 to DF (R285, R288). -/
def Parse.rowD (z : Sizes) (lo : Nat) : Parse Instr :=
  match lo with
  | 0 => Parse.grp2 z false .one
  | 1 => Parse.grp2 z true .one
  | 2 => Parse.grp2 z false .cl
  | 3 => Parse.grp2 z true .cl
  | 4 => do let i ← Parse.byte; return .aam i
  | 5 => do let i ← Parse.byte; return .aad i
  | 6 => return .undefined (.op 0xD6#8)
  | 7 => return .xlatb
  | n => do
    let m ← Parse.modrm
    let rm ← Parse.rm z.as32 m
    return .esc (BitVec.ofNat 3 n) m.reg rm

/-- Opcodes E0 to EF (R285). -/
def Parse.rowE (z : Sizes) (lo : Nat) : Parse Instr :=
  match lo with
  | 0 => do let r ← Parse.byte; return .loopne r
  | 1 => do let r ← Parse.byte; return .loope r
  | 2 => do let r ← Parse.byte; return .loop r
  | 3 => do let r ← Parse.byte; return .jcxz r
  | 4 => do let p ← Parse.byte; return .in_ (.imm false p)
  | 5 => do let p ← Parse.byte; return .in_ (.imm true p)
  | 6 => do let p ← Parse.byte; return .out (.imm false p)
  | 7 => do let p ← Parse.byte; return .out (.imm true p)
  | 8 => do let r ← Parse.imm z.os32; return .callNear (.rel r)
  | 9 => do let r ← Parse.imm z.os32; return .jmpNear (.near r)
  | 10 => do let o ← Parse.imm z.os32; let s ← Parse.word; return .jmpFar (.ptr o s)
  | 11 => do let r ← Parse.byte; return .jmpNear (.short r)
  | 12 => return .in_ (.dx false)
  | 13 => return .in_ (.dx true)
  | 14 => return .out (.dx false)
  | _ => return .out (.dx true)

/-- Opcodes F0 to FF (R285). -/
def Parse.rowF (z : Sizes) (lo : Nat) : Parse Instr :=
  match lo with
  | 0 => return .lock
  | 1 => return .undefined (.op 0xF1#8)
  | 2 => return .repne
  | 3 => return .rep
  | 4 => return .hlt
  | 5 => return .cmc
  | 6 => Parse.grp3 z false
  | 7 => Parse.grp3 z true
  | 8 => return .clc
  | 9 => return .stc
  | 10 => return .cli
  | 11 => return .sti
  | 12 => return .cld
  | 13 => return .std
  | 14 => Parse.grp4 z
  | _ => Parse.grp5 z

/-- Two-byte opcodes 0F 00 to 0F 2F (R286). SCALL is fetched whole, its ModR/M, SIB and displacement bytes too, also on
a part on which it is #UD (R303): DESIGN CHOICE, unsafe (assumption log 55). -/
def Parse.low0F (z : Sizes) (n : Nat) (b : Byte) : Parse Instr :=
  match n with
  | 0x00 => Parse.grp6 z
  | 0x01 => Parse.grp7 z
  | 0x02 => do let (r, rm) ← Parse.regRm z; return .lar r rm
  | 0x03 => do let (r, rm) ← Parse.regRm z; return .lsl r rm
  | 0x06 => return .clts
  | 0x18 => do let (r, rm) ← Parse.regRm z; return .scall r rm
  | 0x20 => Parse.special .movFromCr
  | 0x21 => Parse.special .movFromDr
  | 0x22 => Parse.special .movToCr
  | 0x23 => Parse.special .movToDr
  | 0x24 => Parse.special .movFromTr
  | 0x26 => Parse.special .movToTr
  | _ =>
    if 0x10 ≤ n ∧ n ≤ 0x17 then return .ssvLow (b.extractLsb' 0 3)
    else return .undefined (.op0F b)

/-- Two-byte opcodes 0F A0 to 0F AF (R286). -/
def Parse.rowA0F (z : Sizes) (lo : Nat) (b : Byte) : Parse Instr :=
  match lo with
  | 0 => return .pushSreg .fs
  | 1 => return .popSreg .fs
  | 3 => do let (r, rm) ← Parse.regRm z; return .bt (.rmReg rm r)
  | 4 => do let (r, rm) ← Parse.regRm z; let i ← Parse.byte; return .shld rm r (.imm i)
  | 5 => do let (r, rm) ← Parse.regRm z; return .shld rm r .cl
  | 8 => return .pushSreg .gs
  | 9 => return .popSreg .gs
  | 11 => do let (r, rm) ← Parse.regRm z; return .bts (.rmReg rm r)
  | 12 => do let (r, rm) ← Parse.regRm z; let i ← Parse.byte; return .shrd rm r (.imm i)
  | 13 => do let (r, rm) ← Parse.regRm z; return .shrd rm r .cl
  | 15 => do let (r, rm) ← Parse.regRm z; return .imul (.two r rm)
  | _ => return .undefined (.op0F b)

/-- Two-byte opcodes 0F B0 to 0F BF (R286). -/
def Parse.rowB0F (z : Sizes) (lo : Nat) (b : Byte) : Parse Instr :=
  match lo with
  | 2 => do let (r, rm) ← Parse.regRm z; return .lss r rm
  | 3 => do let (r, rm) ← Parse.regRm z; return .btr (.rmReg rm r)
  | 4 => do let (r, rm) ← Parse.regRm z; return .lfs r rm
  | 5 => do let (r, rm) ← Parse.regRm z; return .lgs r rm
  | 6 => do let (r, rm) ← Parse.regRm z; return .movzx false r rm
  | 7 => do let (r, rm) ← Parse.regRm z; return .movzx true r rm
  | 10 => Parse.grp8 z
  | 11 => do let (r, rm) ← Parse.regRm z; return .btc (.rmReg rm r)
  | 12 => do let (r, rm) ← Parse.regRm z; return .bsf r rm
  | 13 => do let (r, rm) ← Parse.regRm z; return .bsr r rm
  | 14 => do let (r, rm) ← Parse.regRm z; return .movsx false r rm
  | 15 => do let (r, rm) ← Parse.regRm z; return .movsx true r rm
  | _ => return .undefined (.op0F b)

/-- The two-byte map (R286). -/
def Parse.twoByte (z : Sizes) : Parse Instr := do
  let b ← Parse.byte
  let hi := b.toNat / 16
  let lo := b.toNat % 16
  match hi with
  | 0x0 => Parse.low0F z b.toNat b
  | 0x1 => Parse.low0F z b.toNat b
  | 0x2 => Parse.low0F z b.toNat b
  | 0x8 => do let i ← Parse.imm z.os32; return jccInstr lo (.near i)
  | 0x9 => do let (_, rm) ← Parse.regRm z; return setccInstr lo rm
  | 0xA => Parse.rowA0F z lo b
  | 0xB => Parse.rowB0F z lo b
  | 0xF => return .ssvHigh (b.extractLsb' 0 4)
  | _ => return .undefined (.op0F b)

/-- One item, a prefix or an instruction, under the sizes the prefixes before it give (R285, R290). -/
def Parse.item (z : Sizes) : Parse Instr := do
  let b ← Parse.byte
  let hi := b.toNat / 16
  let lo := b.toNat % 16
  match hi with
  | 0x0 => if lo = 15 then Parse.twoByte z else Parse.rowsAlu z 0 lo
  | 0x1 => Parse.rowsAlu z 1 lo
  | 0x2 => Parse.rowsAlu z 2 lo
  | 0x3 => Parse.rowsAlu z 3 lo
  | 0x4 => if lo < 8 then return .inc (.reg (Reg.ofNum (b.extractLsb' 0 3)))
           else return .dec (.reg (Reg.ofNum (b.extractLsb' 0 3)))
  | 0x5 => if lo < 8 then return .push (.reg (Reg.ofNum (b.extractLsb' 0 3)))
           else return .pop (.reg (Reg.ofNum (b.extractLsb' 0 3)))
  | 0x6 => Parse.row6 z lo
  | 0x7 => do let r ← Parse.byte; return jccInstr lo (.short r)
  | 0x8 => Parse.row8 z lo
  | 0x9 => Parse.row9 z lo
  | 0xA => Parse.rowA z lo
  | 0xB => if lo < 8 then do let i ← Parse.byte; return .mov (.regImm8 (Reg.ofNum (b.extractLsb' 0 3)) i)
           else do let i ← Parse.imm z.os32; return .mov (.regImm (Reg.ofNum (b.extractLsb' 0 3)) i)
  | 0xC => Parse.rowC z lo
  | 0xD => Parse.rowD z lo
  | 0xE => Parse.rowE z lo
  | _ => Parse.rowF z lo

/-- The first item in the bytes and the bytes after it; none when the bytes end inside the item. -/
def decode (z : Sizes) (bytes : List Byte) : Option (Instr × List Byte) := (Parse.item z).run bytes

/-- A register operand. -/
def RM.isReg : RM → Bool
  | .reg _ => true
  | .mem _ => false

/-- Control registers that exist: CR0, CR2, CR3 (R54, D5). -/
def crExists (n : BitVec 3) : Bool := n == 0#3 || n == 2#3 || n == 3#3

/-- Debug registers that exist: DR0 to DR3, DR6, DR7 (R61, D5). -/
def drExists (n : BitVec 3) : Bool := n != 4#3 && n != 5#3

/-- Test registers that exist: TR6 and TR7 (R67, D5). -/
def trExists (n : BitVec 3) : Bool := n == 6#3 || n == 7#3

/-- The patterns the decoder itself refuses with #UD: blank opcodes and slots, a register where memory is required or
memory where a register is required, register numbers that do not exist, MOV to CS, the SuperState V opcodes, and
SCALL on a part without it (R275, R300, R301, R303). -/
def Instr.undecodable (hasSsv : Bool) : Instr → Bool
  | .undefined _ => true
  | .ssvLow _ => true
  | .ssvHigh _ => true
  | .scall _ _ => !hasSsv
  | .bound _ rm => rm.isReg
  | .lea _ rm => rm.isReg
  | .les _ rm => rm.isReg
  | .lds _ rm => rm.isReg
  | .lss _ rm => rm.isReg
  | .lfs _ rm => rm.isReg
  | .lgs _ rm => rm.isReg
  | .sgdt rm => rm.isReg
  | .sidt rm => rm.isReg
  | .lgdt rm => rm.isReg
  | .lidt rm => rm.isReg
  | .jmpFar (.rmOp rm) => rm.isReg
  | .callFar (.rmOp rm) => rm.isReg
  | .movFromCr md n _ => md != 3#2 || !crExists n
  | .movToCr md n _ => md != 3#2 || !crExists n
  | .movFromDr md n _ => md != 3#2 || !drExists n
  | .movToDr md n _ => md != 3#2 || !drExists n
  | .movFromTr md n _ => md != 3#2 || !trExists n
  | .movToTr md n _ => md != 3#2 || !trExists n
  | .movFromSreg _ .reserved6 => true
  | .movFromSreg _ .reserved7 => true
  | .movToSreg .reserved6 _ => true
  | .movToSreg .reserved7 _ => true
  | .movToSreg (.reg .cs) _ => true
  | _ => false

/-! ## The encoder -/

/-- Little-endian bytes of a word (R102). -/
def le16 (v : BitVec 16) : List Byte := [v.extractLsb' 0 8, v.extractLsb' 8 8]

/-- Little-endian bytes of a doubleword (R102). -/
def le32 (v : BitVec 32) : List Byte :=
  [v.extractLsb' 0 8, v.extractLsb' 8 8, v.extractLsb' 16 8, v.extractLsb' 24 8]

def Imm.enc : Imm → List Byte
  | .w v => le16 v
  | .d v => le32 v

def Disp16.enc : Disp16 → List Byte
  | .none => []
  | .d8 v => [v]
  | .d16 v => le16 v

def Disp16.mod : Disp16 → BitVec 2
  | .none => 0
  | .d8 _ => 1
  | .d16 _ => 2

def Disp32.enc : Disp32 → List Byte
  | .none => []
  | .d8 v => [v]
  | .d32 v => le32 v

def Disp32.mod : Disp32 → BitVec 2
  | .none => 0
  | .d8 _ => 1
  | .d32 _ => 2

/-- ModR/M, SIB and displacement of a memory operand beside a REG field (R268, R271 to R273). -/
def MemOp.enc (reg : BitVec 3) : MemOp → List Byte
  | .abs16 d => ModRM.byte 0 reg 6 :: le16 d
  | .base16 b d => ModRM.byte d.mod reg b.num :: d.enc
  | .abs32 d => ModRM.byte 0 reg 5 :: le32 d
  | .base32 b d => ModRM.byte d.mod reg b.num :: d.enc
  | .sib s i b d => ModRM.byte d.mod reg 4 :: ModRM.byte s i.num b.num :: d.enc
  | .sibAbs s i d => ModRM.byte 0 reg 4 :: ModRM.byte s i.num 5 :: le32 d

/-- ModR/M and what follows it, of an E operand beside a REG field (R268). -/
def RM.enc (reg : BitVec 3) : RM → List Byte
  | .reg r => [ModRM.byte 3 reg r.num]
  | .mem m => m.enc reg

/-- The `{16, 32}` opcode is the `{8}` opcode plus one (R262). -/
def opw (base : Byte) (wide : Bool) : Byte := if wide then base + 1 else base

/-- The forms of one arithmetic instruction whose number is k (R285, R287). -/
def AluForm.enc (k : BitVec 3) : AluForm → List Byte
  | .rmReg wide rm r => opw (0#2 ++ k ++ 0#3) wide :: rm.enc r.num
  | .regRm wide r rm => opw (0#2 ++ k ++ 2#3) wide :: rm.enc r.num
  | .alImm i => [(0#2 ++ k ++ 4#3 : Byte), i]
  | .axImm i => (0#2 ++ k ++ 5#3 : Byte) :: i.enc
  | .rmImm8 rm i => 0x80#8 :: (rm.enc k ++ [i])
  | .rmImm8Alias rm i => 0x82#8 :: (rm.enc k ++ [i])
  | .rmImm rm i => 0x81#8 :: (rm.enc k ++ i.enc)
  | .rmSext rm i => 0x83#8 :: (rm.enc k ++ [i])

def TestForm.enc : TestForm → List Byte
  | .rmReg wide rm r => opw 0x84#8 wide :: rm.enc r.num
  | .alImm i => [0xA8#8, i]
  | .axImm i => 0xA9#8 :: i.enc
  | .rmImm8 al rm i => 0xF6#8 :: (rm.enc (if al then 1 else 0) ++ [i])
  | .rmImm al rm i => 0xF7#8 :: (rm.enc (if al then 1 else 0) ++ i.enc)

def MovForm.enc : MovForm → List Byte
  | .rmReg wide rm r => opw 0x88#8 wide :: rm.enc r.num
  | .regRm wide r rm => opw 0x8A#8 wide :: rm.enc r.num
  | .accMoff wide o => opw 0xA0#8 wide :: o.enc
  | .moffAcc wide o => opw 0xA2#8 wide :: o.enc
  | .regImm8 r i => [(0x16#5 ++ r.num : Byte), i]
  | .regImm r i => (0x17#5 ++ r.num : Byte) :: i.enc
  | .rmImm8 rm i => 0xC6#8 :: (rm.enc 0 ++ [i])
  | .rmImm rm i => 0xC7#8 :: (rm.enc 0 ++ i.enc)

/-- The forms of one shift or rotate whose GRP2 number is k (R287). -/
def encShift (k : BitVec 3) (wide : Bool) (rm : RM) : ShiftCount → List Byte
  | .imm i => opw 0xC0#8 wide :: (rm.enc k ++ [i])
  | .one => opw 0xD0#8 wide :: rm.enc k
  | .cl => opw 0xD2#8 wide :: rm.enc k

/-- SHLD (op A4) or SHRD (op AC): the immediate form and, one above it, the CL form (R286). -/
def encDouble (op : Byte) (rm : RM) (r : Reg) : DoubleCount → List Byte
  | .imm i => 0x0F#8 :: op :: (rm.enc r.num ++ [i])
  | .cl => 0x0F#8 :: (op + 1) :: rm.enc r.num

/-- A bit test: its register opcode and its GRP8 number (R286, R287). -/
def BitForm.enc (op : Byte) (k : BitVec 3) : BitForm → List Byte
  | .rmReg rm r => 0x0F#8 :: op :: rm.enc r.num
  | .rmImm rm i => 0x0F#8 :: 0xBA#8 :: (rm.enc k ++ [i])

def ImulForm.enc : ImulForm → List Byte
  | .one wide rm => opw 0xF6#8 wide :: rm.enc 5
  | .two r rm => 0x0F#8 :: 0xAF#8 :: rm.enc r.num
  | .three r rm i => 0x69#8 :: (rm.enc r.num ++ i.enc)
  | .threeSext r rm i => 0x6B#8 :: (rm.enc r.num ++ [i])

/-- INC (k = 0) and DEC (k = 1). -/
def IncForm.enc (k : BitVec 1) : IncForm → List Byte
  | .reg r => [(4#4 ++ k ++ r.num : Byte)]
  | .rmOp wide rm => opw 0xFE#8 wide :: rm.enc (0#2 ++ k)

/-- IN (E4, EC) and OUT (E6, EE). -/
def PortForm.enc (op : Byte) : PortForm → List Byte
  | .imm wide p => [opw op wide, p]
  | .dx wide => [opw (op + 8) wide]

/-- The jump on condition k. -/
def JccForm.enc (k : BitVec 4) : JccForm → List Byte
  | .short r => [(7#4 ++ k : Byte), r]
  | .near r => 0x0F#8 :: (8#4 ++ k : Byte) :: r.enc

def PushForm.enc : PushForm → List Byte
  | .reg r => [(0x0A#5 ++ r.num : Byte)]
  | .imm i => 0x68#8 :: i.enc
  | .imm8 i => [0x6A#8, i]
  | .rmOp rm => 0xFF#8 :: rm.enc 6

def PopForm.enc : PopForm → List Byte
  | .reg r => [(0x0B#5 ++ r.num : Byte)]
  | .rmOp rm => 0x8F#8 :: rm.enc 0

def XchgForm.enc : XchgForm → List Byte
  | .rmReg wide rm r => opw 0x86#8 wide :: rm.enc r.num
  | .acc r => [(0x12#5 ++ r.num : Byte)]

def JmpForm.enc : JmpForm → List Byte
  | .short r => [0xEB#8, r]
  | .near r => 0xE9#8 :: r.enc
  | .rmOp rm => 0xFF#8 :: rm.enc 4

def CallForm.enc : CallForm → List Byte
  | .rel r => 0xE8#8 :: r.enc
  | .rmOp rm => 0xFF#8 :: rm.enc 2

/-- A far transfer: its direct opcode and its GRP5 number. -/
def FarForm.enc (op : Byte) (k : BitVec 3) : FarForm → List Byte
  | .ptr o s => op :: (o.enc ++ le16 s)
  | .rmOp rm => 0xFF#8 :: rm.enc k

/-- PUSH of a segment register (R285, R286). -/
def encPushSreg : Sreg → List Byte
  | .es => [0x06#8] | .cs => [0x0E#8] | .ss => [0x16#8] | .ds => [0x1E#8]
  | .fs => [0x0F#8, 0xA0#8] | .gs => [0x0F#8, 0xA8#8]

/-- POP of a segment register; there is no POP CS, and no well-formed instruction asks for it. -/
def encPopSreg : Sreg → List Byte
  | .es => [0x07#8] | .cs => [] | .ss => [0x17#8] | .ds => [0x1F#8]
  | .fs => [0x0F#8, 0xA1#8] | .gs => [0x0F#8, 0xA9#8]

def Undef.enc : Undef → List Byte
  | .op b => [b]
  | .op0F b => [0x0F#8, b]
  | .grp b m => [b, m]
  | .grp0F b m => [0x0F#8, b, m]

/-- The bytes of an instruction or prefix (R285 to R288). The REG field of SETcc, which the decoder ignores (D47), is
written 000. -/
def encode : Instr → List Byte
  | .segEs => [0x26#8] | .segCs => [0x2E#8] | .segSs => [0x36#8] | .segDs => [0x3E#8] | .segFs => [0x64#8]
  | .segGs => [0x65#8] | .opsize => [0x66#8] | .adrsize => [0x67#8] | .lock => [0xF0#8] | .repne => [0xF2#8]
  | .rep => [0xF3#8]
  | .add f => f.enc 0 | .or_ f => f.enc 1 | .adc f => f.enc 2 | .sbb f => f.enc 3
  | .and_ f => f.enc 4 | .sub f => f.enc 5 | .xor_ f => f.enc 6 | .cmp f => f.enc 7
  | .test f => f.enc
  | .mov f => f.enc
  | .movFromSreg rm s => 0x8C#8 :: rm.enc s.num
  | .movToSreg s rm => 0x8E#8 :: rm.enc s.num
  | .movFromCr md n r => [0x0F#8, 0x20#8, ModRM.byte md n r.num]
  | .movToCr md n r => [0x0F#8, 0x22#8, ModRM.byte md n r.num]
  | .movFromDr md n r => [0x0F#8, 0x21#8, ModRM.byte md n r.num]
  | .movToDr md n r => [0x0F#8, 0x23#8, ModRM.byte md n r.num]
  | .movFromTr md n r => [0x0F#8, 0x24#8, ModRM.byte md n r.num]
  | .movToTr md n r => [0x0F#8, 0x26#8, ModRM.byte md n r.num]
  | .push f => f.enc
  | .pushSreg s => encPushSreg s
  | .pop f => f.enc
  | .popSreg s => encPopSreg s
  | .xchg f => f.enc
  | .nop => [0x90#8]
  | .movzx wide r rm => 0x0F#8 :: opw 0xB6#8 wide :: rm.enc r.num
  | .movsx wide r rm => 0x0F#8 :: opw 0xBE#8 wide :: rm.enc r.num
  | .cbw => [0x98#8] | .cwde => [0x98#8] | .cwd => [0x99#8] | .cdq => [0x99#8]
  | .pusha => [0x60#8] | .popa => [0x61#8]
  | .lea r rm => 0x8D#8 :: rm.enc r.num
  | .les r rm => 0xC4#8 :: rm.enc r.num
  | .lds r rm => 0xC5#8 :: rm.enc r.num
  | .lss r rm => 0x0F#8 :: 0xB2#8 :: rm.enc r.num
  | .lfs r rm => 0x0F#8 :: 0xB4#8 :: rm.enc r.num
  | .lgs r rm => 0x0F#8 :: 0xB5#8 :: rm.enc r.num
  | .rol wide rm c => encShift 0 wide rm c
  | .ror wide rm c => encShift 1 wide rm c
  | .rcl wide rm c => encShift 2 wide rm c
  | .rcr wide rm c => encShift 3 wide rm c
  | .shl al wide rm c => encShift (if al then 6 else 4) wide rm c
  | .shr wide rm c => encShift 5 wide rm c
  | .sar wide rm c => encShift 7 wide rm c
  | .shld rm r c => encDouble 0xA4#8 rm r c
  | .shrd rm r c => encDouble 0xAC#8 rm r c
  | .bt f => f.enc 0xA3#8 4 | .bts f => f.enc 0xAB#8 5 | .btr f => f.enc 0xB3#8 6 | .btc f => f.enc 0xBB#8 7
  | .bsf r rm => 0x0F#8 :: 0xBC#8 :: rm.enc r.num
  | .bsr r rm => 0x0F#8 :: 0xBD#8 :: rm.enc r.num
  | .imul f => f.enc
  | .mul wide rm => opw 0xF6#8 wide :: rm.enc 4
  | .div wide rm => opw 0xF6#8 wide :: rm.enc 6
  | .idiv wide rm => opw 0xF6#8 wide :: rm.enc 7
  | .not_ wide rm => opw 0xF6#8 wide :: rm.enc 2
  | .neg wide rm => opw 0xF6#8 wide :: rm.enc 3
  | .inc f => f.enc 0 | .dec f => f.enc 1
  | .daa => [0x27#8] | .das => [0x2F#8] | .aaa => [0x37#8] | .aas => [0x3F#8]
  | .aam i => [0xD4#8, i] | .aad i => [0xD5#8, i]
  | .in_ f => f.enc 0xE4#8 | .out f => f.enc 0xE6#8
  | .insb => [0x6C#8] | .insv => [0x6D#8] | .outsb => [0x6E#8] | .outsv => [0x6F#8]
  | .movsb => [0xA4#8] | .movsv => [0xA5#8] | .cmpsb => [0xA6#8] | .cmpsv => [0xA7#8]
  | .stosb => [0xAA#8] | .stosv => [0xAB#8] | .lodsb => [0xAC#8] | .lodsv => [0xAD#8]
  | .scasb => [0xAE#8] | .scasv => [0xAF#8]
  | .jo f => f.enc 0 | .jno f => f.enc 1 | .jb f => f.enc 2 | .jnb f => f.enc 3
  | .jz f => f.enc 4 | .jnz f => f.enc 5 | .jbe f => f.enc 6 | .jnbe f => f.enc 7
  | .js f => f.enc 8 | .jns f => f.enc 9 | .jp f => f.enc 10 | .jnp f => f.enc 11
  | .jl f => f.enc 12 | .jnl f => f.enc 13 | .jle f => f.enc 14 | .jnle f => f.enc 15
  | .seto rm => 0x0F#8 :: 0x90#8 :: rm.enc 0
  | .setno rm => 0x0F#8 :: 0x91#8 :: rm.enc 0
  | .setb rm => 0x0F#8 :: 0x92#8 :: rm.enc 0
  | .setnb rm => 0x0F#8 :: 0x93#8 :: rm.enc 0
  | .setz rm => 0x0F#8 :: 0x94#8 :: rm.enc 0
  | .setnz rm => 0x0F#8 :: 0x95#8 :: rm.enc 0
  | .setbe rm => 0x0F#8 :: 0x96#8 :: rm.enc 0
  | .setnbe rm => 0x0F#8 :: 0x97#8 :: rm.enc 0
  | .sets rm => 0x0F#8 :: 0x98#8 :: rm.enc 0
  | .setns rm => 0x0F#8 :: 0x99#8 :: rm.enc 0
  | .setp rm => 0x0F#8 :: 0x9A#8 :: rm.enc 0
  | .setnp rm => 0x0F#8 :: 0x9B#8 :: rm.enc 0
  | .setl rm => 0x0F#8 :: 0x9C#8 :: rm.enc 0
  | .setnl rm => 0x0F#8 :: 0x9D#8 :: rm.enc 0
  | .setle rm => 0x0F#8 :: 0x9E#8 :: rm.enc 0
  | .setnle rm => 0x0F#8 :: 0x9F#8 :: rm.enc 0
  | .jmpNear f => f.enc
  | .jmpFar f => f.enc 0xEA#8 5
  | .callNear f => f.enc
  | .callFar f => f.enc 0x9A#8 3
  | .retNear (some n) => 0xC2#8 :: le16 n
  | .retNear none => [0xC3#8]
  | .retFar (some n) => 0xCA#8 :: le16 n
  | .retFar none => [0xCB#8]
  | .int3 => [0xCC#8] | .int n => [0xCD#8, n] | .into => [0xCE#8] | .iret => [0xCF#8]
  | .loopne r => [0xE0#8, r] | .loope r => [0xE1#8, r] | .loop r => [0xE2#8, r] | .jcxz r => [0xE3#8, r]
  | .enter n l => 0xC8#8 :: (le16 n ++ [l])
  | .leave => [0xC9#8]
  | .bound r rm => 0x62#8 :: rm.enc r.num
  | .arpl rm r => 0x63#8 :: rm.enc r.num
  | .wait => [0x9B#8] | .pushf => [0x9C#8] | .popf => [0x9D#8] | .sahf => [0x9E#8] | .lahf => [0x9F#8]
  | .xlatb => [0xD7#8]
  | .esc op ext rm => (0x1B#5 ++ op : Byte) :: rm.enc ext
  | .hlt => [0xF4#8] | .cmc => [0xF5#8] | .clc => [0xF8#8] | .stc => [0xF9#8] | .cli => [0xFA#8]
  | .sti => [0xFB#8] | .cld => [0xFC#8] | .std => [0xFD#8]
  | .sldt rm => 0x0F#8 :: 0x00#8 :: rm.enc 0
  | .str rm => 0x0F#8 :: 0x00#8 :: rm.enc 1
  | .lldt rm => 0x0F#8 :: 0x00#8 :: rm.enc 2
  | .ltr rm => 0x0F#8 :: 0x00#8 :: rm.enc 3
  | .verr rm => 0x0F#8 :: 0x00#8 :: rm.enc 4
  | .verw rm => 0x0F#8 :: 0x00#8 :: rm.enc 5
  | .sgdt rm => 0x0F#8 :: 0x01#8 :: rm.enc 0
  | .sidt rm => 0x0F#8 :: 0x01#8 :: rm.enc 1
  | .lgdt rm => 0x0F#8 :: 0x01#8 :: rm.enc 2
  | .lidt rm => 0x0F#8 :: 0x01#8 :: rm.enc 3
  | .smsw rm => 0x0F#8 :: 0x01#8 :: rm.enc 4
  | .lmsw rm => 0x0F#8 :: 0x01#8 :: rm.enc 6
  | .lar r rm => 0x0F#8 :: 0x02#8 :: rm.enc r.num
  | .lsl r rm => 0x0F#8 :: 0x03#8 :: rm.enc r.num
  | .clts => [0x0F#8, 0x06#8]
  | .scall r rm => 0x0F#8 :: 0x18#8 :: rm.enc r.num
  | .ssvLow n => [0x0F#8, (2#5 ++ n : Byte)]
  | .ssvHigh n => [0x0F#8, (15#4 ++ n : Byte)]
  | .undefined u => u.enc

/-! ## The table's words -/

/-- The n bytes of a number, the least significant first. -/
def bytesOfNat : Nat → Nat → List Byte
  | 0, _ => []
  | n + 1, w => BitVec.ofNat 8 w :: bytesOfNat n (w / 256)

/-- The longest instruction, in bytes (R251). -/
def maxLength : Nat := 15

/-- The bytes of an opcode-table word of nbits bits, with zeros up to the longest instruction. -/
def tableBytes (nbits w : Nat) : List Byte :=
  bytesOfNat (nbits / 8) w ++ List.replicate (maxLength - nbits / 8) 0

/-- The item the decoder reads from an opcode-table word, under the 16-bit sizes of the state after reset. -/
def decodeTableWord (nbits w : Nat) : Option Instr :=
  (decode ⟨false, false⟩ (tableBytes nbits w)).map Prod.fst

end Sys2Proof
end

