-- ==== Sys2Proof/Config.lean ====
section
/-!
DEFINITION. Config.lean: what one implementation fixes (the open parameters of 92_eei_decisions.md part 2) and the
free values, which the manual leaves open and which no Lean proof can evaluate.
-/
namespace Sys2Proof.Config

/-- The four processors of the family (00_scope.md R2, R11; parameter PART). -/
inductive Part where
  | p38600DX | p38605DX | p38600DXE | p38605DXE
deriving DecidableEq, Repr

/-- 38605 parts have the instruction cache (R11, R70). -/
def Part.hasIcache : Part → Bool
  | .p38605DX => true
  | .p38605DXE => true
  | .p38600DX => false
  | .p38600DXE => false

/-- E parts have SuperState V and SCALL (R11, D33). -/
def Part.hasSsv : Part → Bool
  | .p38600DXE => true
  | .p38605DXE => true
  | .p38600DX => false
  | .p38605DX => false

/-- Only the 38605DXE has the ANMI* pin (R74, R858). -/
def Part.hasAnmi : Part → Bool
  | .p38605DXE => true
  | .p38600DX => false
  | .p38605DX => false
  | .p38600DXE => false

/-- The type code SCALL vector 0 returns (R664): 38600DXE is 0, 38605DXE is 2; no code is ever returned on the
parts without SCALL (D21). -/
def Part.typeCode : Part → Byte
  | .p38605DXE => 2
  | .p38600DXE => 0
  | .p38600DX => 0
  | .p38605DX => 0

/-- What answers at an address of physical memory (20_memory.md R101, D13). -/
inductive MemKind where
  | ram | rom | device (number : Nat) | none
deriving DecidableEq, Repr

/-- The addresses from first to last are of one kind. -/
structure Region where
  first : Dword
  last : Dword
  kind : MemKind
deriving DecidableEq, Repr

/-- The parameters of one machine. They stand in State as the field cfg, which no step changes, so that a statement
about every state is a statement about every part. -/
structure Params where
  /-- Which processor (R2). -/
  part : Part
  /-- SCALL vector 0, bits 15:8 (R664). -/
  stepping : Byte
  /-- EDX bits 7:0 after reset (R881). -/
  resetRevision : Byte
  /-- EAX after reset (R881). -/
  selfTestResult : Dword
  /-- CR0 at reset (R59) and what ESC does (R655). -/
  coprocessorPresent : Bool
  /-- The instruction cache's enable bit at reset (R70, D11). -/
  icacheResetEnabled : Bool
  /-- PHYS_MAP: which physical addresses are RAM, ROM, devices, or nothing (R101, D13). -/
  physMap : List Region
  /-- AAS that adjusts nothing keeps AL, as R399 says in so many words and V-AAS fixes, or clears its upper half, as the
  row of D37 says (assumption log 53). -/
  aasKeepsAl : Bool
  /-- CR0.EM = 1 keeps WAIT from raising #MF, as R693 and R728 say, or does not affect WAIT, as R656, R684 and D61 say:
  the spec says both (assumption log 53). -/
  emMasksWait : Bool
  /-- LMSW that sets PE leaves CPL 0, as R626 and R890 say, or at bits 1:0 of CS's selector, as R48 and R814 derive: the
  spec says both (assumption log 53). -/
  lmswKeepsCpl : Bool
  /-- A divide error leaves the status flags as they were before the instruction, as R731 says, or at any value, as
  R672 and R394 allow (assumption log 53). -/
  divideErrorKeepsFlags : Bool
deriving DecidableEq, Repr

/-- The parameters State.reset is built with. DESIGN CHOICE: the manual gives no default for any of them
(assumption logs 1 and 53). unsafe only for a statement about State.reset alone. -/
def default : Params :=
  { part := .p38605DXE, stepping := 0, resetRevision := 0, selfTestResult := 0,
    coprocessorPresent := false, icacheResetEnabled := false, physMap := [],
    aasKeepsAl := true, emMasksWait := false, lmswKeepsCpl := true, divideErrorKeepsFlags := true }

/-! Free values. Each is an opaque function of the counter State.free, which a use advances: nothing can be proved
of the value, so a statement that holds holds for every value. -/

/-- Undefined status flags, a fresh bit per flag per execution: bits 0 to 5 are CF, PF, AF, ZF, SF, OF (U1). -/
opaque undefFlags : Nat → BitVec 6

/-- An undefined result or field of up to 32 bits (U4, U5, U6, U7, and the upper bits LAR leaves open). -/
opaque undefDword : Nat → Dword

/-- The value an I/O port returns: the device map is outside the manual (R365, D13). The arguments are the counter,
the port and the number of bytes. -/
opaque ioRead : Nat → BitVec 16 → Nat → Dword

/-- The byte a device returns, or the bus where nothing responds: the device map is outside the manual (R101, D13). The
arguments are the counter and the physical address. -/
opaque busByte : Nat → Dword → Byte

/-- The pages whose translations the processor predicts it will need and creates before an instruction (R228,
R232(f)). -/
opaque predictedPages : Nat → List (BitVec 20)

/-- How many bytes ahead of the instruction pointer, of at most 16, have been fetched (R140). -/
opaque prefetchDepth : Nat → Nat

/-- Which entries of the TLB keep their valid bit when paging is turned off: bit i is entry i's (R234). -/
opaque tlbRetained : Nat → BitVec 32

/-- Which doublewords of a line of the instruction cache are still there when the cache is enabled again (R138). The
arguments are the counter and the line. -/
opaque icacheKept : Nat → Nat → BitVec 4

/-- Whether a TLB hit is used or the entry is dropped and the tables are walked again (R232, D26). -/
opaque tlbKeep : Nat → Bool

/-- What the uncounted references add to the TLB replacement counter before a victim is chosen (R231). -/
opaque tlbVictim : Nat → BitVec 2

/-- Whether a write sets bit 6 of the page-directory entry (R228: undefined in a directory entry). -/
opaque pdeDirty : Nat → Bool

/-- Which of two faulting pages is reported first: true is the upper page (R226, D25). -/
opaque upperPageFirst : Nat → Bool

/-- Whether the instruction right after a store into its own bytes runs from the old bytes (R137, U3). -/
opaque staleFetch : Nat → Bool

/-- Whether entering 32-bit code, a loaded far pointer or another reader finds the fetch unit's private translation
used for a fetch (R231, R233). -/
opaque fetchUsesPrivate : Nat → Bool

end Sys2Proof.Config
end

