-- ==== Sys2Proof/Machine/State.lean ====
section
/-!
DEFINITION. Machine/State.lean: every piece of state the spec gives the machine (10_state.md R30), as plain data; the
reasons a step can stop; the state after reset.
-/
namespace Sys2Proof.Machine

/-- The eight general registers (R31). -/
structure Regs where
  eax : Dword
  ecx : Dword
  edx : Dword
  ebx : Dword
  esp : Dword
  ebp : Dword
  esi : Dword
  edi : Dword
deriving DecidableEq, Repr

/-- The attributes of a shadow register: descriptor bits G, D/B, AVL, P, DPL, S, E, C/ED, R/W, A
(21_segmentation.md R160). In LDTR and TR the bits S, E, C/ED, R/W, A are the five type bits hi[12:8] (R163). -/
structure Attr where
  g : Bool
  db : Bool
  avl : Bool
  p : Bool
  dpl : BitVec 2
  s : Bool
  e : Bool
  c : Bool
  rw : Bool
  a : Bool
deriving DecidableEq, Repr

/-- A segment register with its shadow (R45, R46, R52, R53). The flag null says that the register holds a null
selector and its shadow is unusable (R155, R171). -/
structure SegReg where
  sel : BitVec 16
  base : Dword
  limit : Dword
  attr : Attr
  null : Bool
deriving DecidableEq, Repr

/-- The six segment registers (R45). -/
structure Segs where
  es : SegReg
  cs : SegReg
  ss : SegReg
  ds : SegReg
  fs : SegReg
  gs : SegReg
deriving DecidableEq, Repr

/-- GDTR and IDTR: 32-bit base and 16-bit limit (R50, R51). -/
structure TableReg where
  base : Dword
  limit : BitVec 16
deriving DecidableEq, Repr

/-- The debug registers (R60 to R63). -/
structure DebugRegs where
  dr0 : Dword
  dr1 : Dword
  dr2 : Dword
  dr3 : Dword
  dr6 : Dword
  dr7 : Dword
deriving DecidableEq, Repr

/-- One translation: the linear page, the physical page and the combined attributes (R68, 22_paging.md R230). -/
structure TlbEntry where
  v : Bool
  tag : BitVec 20
  pa : BitVec 20
  d : Bool
  u : Bool
  w : Bool
deriving DecidableEq, Repr

/-- The TLB: 8 sets of 4 ways, entry number 4·set + way; the replacement counter; the fetch unit's private
translation (R68, R231). -/
structure Tlb where
  entries : Vector TlbEntry 32
  counter : BitVec 2
  fetch : Option TlbEntry
deriving DecidableEq, Repr

/-- One line of the instruction cache: the tag, physical address bits 31:9, a valid bit for each of its four
doublewords, and the doublewords (R70, 20_memory.md R135). -/
structure ICacheLine where
  tag : BitVec 23
  valid : BitVec 4
  words : Vector Dword 4
deriving DecidableEq, Repr

/-- The instruction cache of the 38605 parts (R70). -/
structure ICache where
  enabled : Bool
  lines : Vector ICacheLine 32
deriving DecidableEq, Repr

/-- The one-instruction interrupt shadow (R71). -/
inductive Inhibit where
  | none | sti | ss
deriving DecidableEq, Repr

/-- The run state (R73). -/
inductive RunState where
  | running | halted | shutdown | superstate
deriving DecidableEq, Repr

/-- The event lines, inputs of the machine sampled at instruction boundaries (R74, 60_exceptions.md R720 to R725). -/
structure Lines where
  reset : Bool
  intr : Bool
  intrVector : Byte
  nmiPending : Bool
  anmiPending : Bool
  error : Bool
  busy : Bool
  flush : Bool
  ken : Bool
  /-- What other bus masters store before the next boundary, oldest first: physical address and byte (20_memory.md R136,
  R137). -/
  stores : List (Dword × Byte)
deriving DecidableEq, Repr

/-- The debug traps the last instruction met: breakpoint matches, single step, task-switch trap (R75). Bit i of hits
is a match of breakpoint i, enabled or not (R62, R835, R837). -/
structure PendingDebug where
  hits : BitVec 4
  bs : Bool
  bt : Bool
deriving DecidableEq, Repr

/-- What entering SuperState V saved (62_debug_superstate.md R854). -/
structure SsvSave where
  eip : Dword
  eflags : Dword
  edx : Dword
  ebx : Dword
  cs : SegReg
deriving DecidableEq, Repr

/-- SuperState V state (R76, R852 to R859): the enable bit, which descriptor address is chosen, the descriptor read on
entry, the save area's items, the seven EPIC registers. That each EPIC register has 32 bits is a DESIGN CHOICE, unsafe
(assumption log 43): the spec gives no layout. -/
structure Ssv where
  enabled : Bool
  secondary : Bool
  desc : BitVec 64
  save : SsvSave
  epic : Vector Dword 7
deriving DecidableEq, Repr

/-- The prefixes collected for the instruction being run (30_encoding.md R252, R253). -/
structure Prefixes where
  seg : Option Sreg
  opsize : Bool
  adrsize : Bool
  lock : Bool
  /-- some true is F3 (REP, REPE), some false is F2 (REPNE). -/
  rep : Option Bool
deriving DecidableEq, Repr

/-- A repeated string instruction in progress: the instruction, its prefixes, its length with them (46_string.md R510).
-/
structure Repeat where
  instr : Instr
  pfx : Prefixes
  len : Nat
deriving DecidableEq, Repr

/-- No prefix. -/
def Prefixes.none : Prefixes := { seg := .none, opsize := false, adrsize := false, lock := false, rep := .none }

/-- What the processor tells the outside (92_eei_decisions.md part 2, host outputs). -/
inductive HostEvent where
  /-- A port was read: port, bytes, the value returned (20_memory.md R107). -/
  | ioRead (port : BitVec 16) (n : Nat) (v : Dword)
  /-- A port was written: port, bytes, value. -/
  | ioWrite (port : BitVec 16) (n : Nat) (v : Dword)
  /-- An interrupt was acknowledged and this vector accepted (60_exceptions.md R721). -/
  | intAck (vector : Byte)
  /-- The special bus cycle of HLT (address 0) or shutdown (address 2) (62_debug_superstate.md R871). -/
  | haltCycle (address : Dword)
  /-- A device of the memory map was read: device, physical address, the byte returned (20_memory.md R101, R110). One
  event for each byte: DESIGN CHOICE, unsafe (assumption log 20). -/
  | deviceRead (device : Nat) (pa : Dword) (v : Byte)
  /-- A device of the memory map was written: device, physical address, byte (R101, R110). -/
  | deviceWrite (device : Nat) (pa : Dword) (v : Byte)
deriving DecidableEq, Repr

/-- The machine. -/
structure State where
  regs : Regs
  eip : Dword
  /-- The model's own: where the next instruction starts. The step sets it behind the instruction before it runs the
  instruction; a control transfer overwrites it; completing copies it into eip (10_state.md R35, 00_scope.md R20). -/
  nextEip : Dword
  eflags : Dword
  cpl : BitVec 2
  segs : Segs
  ldtr : SegReg
  tr : SegReg
  gdtr : TableReg
  idtr : TableReg
  cr0 : Dword
  cr2 : Dword
  cr3 : Dword
  dregs : DebugRegs
  tr6 : Dword
  tr7 : Dword
  tlb : Tlb
  icache : ICache
  inhibit : Inhibit
  /-- The model's own: the shadow the instruction being run began in; none between steps. A repeated string instruction
  or a WAIT that goes on keeps it for its next step (R71: until the instruction completes or faults). -/
  held : Inhibit
  nmiMasked : Bool
  run : RunState
  lines : Lines
  pend : PendingDebug
  ssv : Ssv
  /-- The prefetch queue as programs can see it: the old bytes, by physical address, that the last instruction's stores
  replaced (20_memory.md R137). -/
  stale : List Host.Cell
  /-- The prefetch queue as far as a MOV to CR3 leaves it behind: the linear addresses of the bytes fetched ahead under
  the old mapping, each with its physical address; a jump empties it, and a store to one of its bytes (R69, 20_memory.md
  R136, R139). -/
  queue : List (Dword × Dword)
  /-- The model's own: the queue that a store of the last instruction emptied; the one instruction behind it may still
  run from there (R137). -/
  flushed : List (Dword × Dword)
  /-- The model's own: the instruction in progress. Between steps it is none, but for a repeated string instruction that
  goes on: that one is the next step without another fetch, so that its elements' stores are those of one instruction
  (R137, 46_string.md R510). -/
  again : Option Repeat
  /-- The prefixes of the instruction being run; none between steps. -/
  pfx : Prefixes
  /-- Physical memory: bytes by address, strictly rising, no zero byte listed. -/
  mem : List Host.Cell
  /-- The model's own: how many free values have been used. -/
  free : Nat
  /-- The model's own: what the processor told the outside, the latest first. -/
  out : List HostEvent
  /-- The parameters of this machine; no step changes them. -/
  cfg : Config.Params
deriving DecidableEq, Repr

/-- A machine that stops with a fault. The spec has no such stop on this hardware but one. -/
inductive Fault where
  /-- Raised by a TLB lookup that finds two valid entries for one page, which only test commands can write
  (22_paging.md R242: not a legal state). safe: the hardware goes on with an undefined result. -/
  | tlbTwoMatches
deriving DecidableEq, Repr

/-- Why a step has no meaning. -/
inductive Refusal where
  /-- An arm of exec without a meaning. safe. -/
  | notModelled (mnemonic : String)
  /-- Raised by a step in SuperState V mode, whose instructions and exit only another manual defines
  (62_debug_superstate.md R866). safe. -/
  | insideSuperState
  /-- Raised by ESC when a coprocessor is present and enabled: its instructions are in another manual
  (49_system_misc.md R655). safe. -/
  | coprocessor
  /-- Raised by a write of TR6 while paging is on (22_paging.md R240: refuse). safe. -/
  | tlbTestWithPaging
deriving DecidableEq, Repr

/-! ## Reset -/

/-- Segment attributes after reset: present, DPL 0, readable and writable, expand-up, byte granular, 16-bit
(10_state.md R49). The bits A = 1 and AVL = 0 are a DESIGN CHOICE, unsafe (assumption log 42): R49 does not give
them. -/
def Attr.atReset : Attr :=
  { g := false, db := false, avl := false, p := true, dpl := 0, s := true, e := false, c := false, rw := true,
    a := true }

/-- Attributes with every bit 0: the type is none that any rule accepts (R163, R884). -/
def Attr.zero : Attr :=
  { g := false, db := false, avl := false, p := false, dpl := 0, s := false, e := false, c := false, rw := false,
    a := false }

/-- A data segment register after reset (R49). -/
def SegReg.dataAtReset : SegReg :=
  { sel := 0, base := 0, limit := 0xFFFF, attr := Attr.atReset, null := false }

/-- CS after reset: the top 64kB of memory (R49). -/
def SegReg.codeAtReset : SegReg :=
  { sel := 0xF000, base := 0xFFFF0000, limit := 0xFFFF, attr := Attr.atReset, null := false }

/-- LDTR and TR after reset: the null selector, limit 0, no TSS type (R884, D84). -/
def SegReg.systemAtReset : SegReg :=
  { sel := 0, base := 0, limit := 0, attr := Attr.zero, null := true }

/-- An invalid TLB entry (R68, D10). That its tag, page number and attributes are 0, which a search by TR6 can see, is a
DESIGN CHOICE, unsafe (assumption log 2): the spec leaves the contents undefined (U2). -/
def TlbEntry.invalid : TlbEntry := { v := false, tag := 0, pa := 0, d := false, u := false, w := false }

/-- The TLB after reset: every entry invalid, the counter 0 (R231, D10). -/
def Tlb.atReset : Tlb := { entries := Vector.replicate 32 TlbEntry.invalid, counter := 0, fetch := none }

/-- No debug trap pending (R75). -/
def PendingDebug.none : PendingDebug := { hits := 0, bs := false, bt := false }

/-- No event line active, no store by another bus master; KEN allows cache fills. -/
def Lines.quiet : Lines :=
  { reset := false, intr := false, intrVector := 0, nmiPending := false, anmiPending := false, error := false,
    busy := false, flush := false, ken := true, stores := [] }

/-- CR0 after reset (R59, D8). -/
def cr0AtReset (coprocessor : Bool) : Dword := if coprocessor then 0x7FFFFFF2 else 0x7FFFFFE0

/-- The machine right after RESET (R92, 70_reset_and_hazards.md R880, R884), given what reset does not touch: the
parameters, memory, the event lines, the counter of free values and the output. Registers the manual leaves undefined
hold 0. DESIGN CHOICE, unsafe (assumption log 2). -/
def State.atReset (cfg : Config.Params) (mem : List Host.Cell) (lines : Lines) (free : Nat)
    (out : List HostEvent) : State :=
  { regs := { eax := cfg.selfTestResult, ecx := 0, edx := 0x00000300 ||| cfg.resetRevision.setWidth 32, ebx := 0,
              esp := 0, ebp := 0, esi := 0, edi := 0 }
    eip := 0x0000FFF0
    nextEip := 0x0000FFF0
    eflags := 0x00000002
    cpl := 0
    segs := { es := .dataAtReset, cs := .codeAtReset, ss := .dataAtReset, ds := .dataAtReset, fs := .dataAtReset,
              gs := .dataAtReset }
    ldtr := .systemAtReset
    tr := .systemAtReset
    gdtr := { base := 0, limit := 0 }
    idtr := { base := 0, limit := 0x03FF }
    cr0 := cr0AtReset cfg.coprocessorPresent
    cr2 := 0
    cr3 := 0
    dregs := { dr0 := 0, dr1 := 0, dr2 := 0, dr3 := 0, dr6 := 0, dr7 := 0 }
    tr6 := 0
    tr7 := 0
    tlb := .atReset
    icache := { enabled := cfg.icacheResetEnabled && cfg.part.hasIcache,
                lines := Vector.replicate 32 { tag := 0, valid := 0, words := Vector.replicate 4 0 } }
    inhibit := .none
    held := .none
    nmiMasked := false
    run := .running
    lines := lines
    pend := .none
    ssv := { enabled := false, secondary := false, desc := 0,
             save := { eip := 0, eflags := 0, edx := 0, ebx := 0, cs := .systemAtReset },
             epic := Vector.replicate 7 0 }
    stale := []
    queue := []
    flushed := []
    again := none
    pfx := .none
    mem := mem
    free := free
    out := out
    cfg := cfg }

/-- The machine right after reset, with the default parameters and memory that lists nothing. -/
def State.reset : State := State.atReset Config.default [] .quiet 0 []

end Sys2Proof.Machine
end

