-- ==== Sys2Proof/Machine/Memory.lean ====
section
/-!
DEFINITION. Machine/Memory.lean: bytes of physical memory, page translation with the TLB, debug matches, and the two
halves of every access: preparing it, which makes every check and changes nothing an access changes, and making it
(20_memory.md, 22_paging.md).
-/
namespace Sys2Proof.Machine

/-! ## Operations of an instruction -/

/-- An exception as the instruction or the processor raises it: vector and, for the vectors that have one, error code
(60_exceptions.md R674, R695). -/
structure Exn where
  vector : Byte
  code : Option (BitVec 16)
deriving DecidableEq, Repr

/-- Why an operation does not go on. -/
inductive Stop where
  /-- An exception: the instruction is undone and the exception delivered (60_exceptions.md R672). -/
  | exc (e : Exn)
  /-- An exception behind the commit of a task switch: delivered from the state it left (R672(c)). -/
  | late (e : Exn)
  | fault (f : Fault)
  | refuse (r : Refusal)
deriving DecidableEq, Repr

/-- An operation: it reads and changes the state and may stop. A stop carries the state it stopped in. -/
abbrev Op := EStateM Stop State

/-- Raise an exception. -/
def raise {α : Type} (vector : Byte) (code : Option (BitVec 16)) : Op α := throw (.exc ⟨vector, code⟩)

/-- #DE (R675). -/
def raiseDE {α : Type} : Op α := raise 0 none
/-- #UD (R681). -/
def raiseUD {α : Type} : Op α := raise 6 none
/-- #NM (R684). -/
def raiseNM {α : Type} : Op α := raise 7 none
/-- #GP with an error code (R691). -/
def raiseGP {α : Type} (code : BitVec 16) : Op α := raise 13 (some code)
/-- #SS with an error code (R690). -/
def raiseSS {α : Type} (code : BitVec 16) : Op α := raise 12 (some code)
/-- #NP with an error code (R689). -/
def raiseNP {α : Type} (code : BitVec 16) : Op α := raise 11 (some code)
/-- #TS with an error code (R688). -/
def raiseTS {α : Type} (code : BitVec 16) : Op α := raise 10 (some code)
/-- #MF (R693). -/
def raiseMF {α : Type} : Op α := raise 16 none

/-- The error code that names a selector: its RPL bits are 0 (R695). -/
def selCode (sel : BitVec 16) : BitVec 16 := sel &&& 0xFFFC

/-- A free value used. -/
def State.drew (s : State) : State := { s with free := s.free + 1 }

/-- The number of a free value, used once. -/
def fresh : Op Nat := fun s => .ok s.free s.drew

/-- The state an operation ends in, whether it completes or stops. -/
def endState {α : Type} : EStateM.Result Stop State α → State
  | .ok _ t => t
  | .error _ t => t

/-! ## Bytes -/

/-- The byte at an address. An unlisted address reads as 0. DESIGN CHOICE, unsafe (assumption log 3): the manual says
nothing of memory after power-on. -/
def Mem.read : List Host.Cell → Nat → Byte
  | [], _ => 0
  | (k, v) :: t, a => if k = a then v else Mem.read t a

/-- Put a byte at an address, keeping the addresses rising and listing no zero byte. -/
def Mem.write : List Host.Cell → Nat → Byte → List Host.Cell
  | [], a, v => if v = 0 then [] else [(a, v)]
  | (k, x) :: t, a, v =>
    if a < k then (if v = 0 then (k, x) :: t else (a, v) :: (k, x) :: t)
    else if a = k then (if v = 0 then t else (a, v) :: t)
    else (k, x) :: Mem.write t a v

/-- The addresses of a list are above a bound, rise strictly and lie in the 32-bit space, and no byte is zero. -/
def Mem.wfFrom (low : Nat) : List Host.Cell → Bool
  | [] => true
  | (k, v) :: t => decide (low ≤ k) && decide (k < 2 ^ 32) && decide (v ≠ 0) && Mem.wfFrom (k + 1) t

/-- The canonical form of memory. -/
def Mem.wf (m : List Host.Cell) : Bool := Mem.wfFrom 0 m

/-- What answers at an address: the kind of the first region of the map that holds it. DESIGN CHOICE, unsafe (assumption
log 20): an address no region holds is RAM. -/
def kindAt : List Config.Region → Dword → Config.MemKind
  | [], _ => .ram
  | r :: rest, pa => if r.first.toNat ≤ pa.toNat ∧ pa.toNat ≤ r.last.toNat then r.kind else kindAt rest pa

/-- What answers at an address of this machine (20_memory.md R101, D13). -/
def State.kindAt (s : State) (pa : Dword) : Config.MemKind := Machine.kindAt s.cfg.physMap pa

/-- RAM and ROM hold bytes; a device or an empty place does not. -/
def State.holds (s : State) (pa : Dword) : Bool := s.kindAt pa == .ram || s.kindAt pa == .rom

/-- The byte memory holds at an address. -/
def State.cell (s : State) (pa : Dword) : Byte := Mem.read s.mem pa.toNat

/-- The byte a read of a physical address gives: what memory holds, or a free value from a device or where nothing
responds (R101, R102, R110, D13). -/
def State.phys (s : State) (pa : Dword) : Byte := if s.holds pa then s.cell pa else Config.busByte s.free pa

/-- What a device is told of a read of a physical address. -/
def State.readEvent (s : State) (pa : Dword) : Option HostEvent :=
  match s.kindAt pa with
  | .device d => some (.deviceRead d pa (s.phys pa))
  | .ram => none
  | .rom => none
  | .none => none

/-- Physical addresses have been read: nothing in memory; elsewhere the devices are told, in the order of the list, and
the free value is used (R101, R110). That the bytes of one access come lowest address first, where R104 fixes no order:
DESIGN CHOICE, unsafe (assumption log 56). -/
def State.noteReads (s : State) (l : List Dword) : State :=
  { s with
    free := if l.all s.holds then s.free else s.free + 1
    out := if l.all s.holds then s.out else (l.filterMap s.readEvent).reverse ++ s.out }

/-- The n addresses from an address on. -/
def bytesFrom (pa : Dword) (n : Nat) : List Dword := (List.range n).map fun i => pa + BitVec.ofNat 32 i

/-- The state after n bytes are read from a physical address on. -/
def State.bus (s : State) (pa : Dword) (n : Nat) : State := s.noteReads (bytesFrom pa n)

/-- The line of the instruction cache an address maps to (R135). -/
def icIndex (pa : Dword) : Fin 32 := (pa.extractLsb' 4 5).toFin

/-- The valid bit of an address within its line (R135). -/
def icBit (pa : Dword) : BitVec 4 := 1#4 <<< (pa.extractLsb' 2 2).toNat

/-- The doubleword of an address within its line (R135). -/
def icWord (pa : Dword) : Fin 4 := (pa.extractLsb' 2 2).toFin

/-- A store invalidates the doubleword of the instruction cache it hits (R136). -/
def ICache.onStore (c : ICache) (pa : Dword) : ICache :=
  let l := c.lines[icIndex pa]
  if l.tag = pa.extractLsb' 9 23 then
    { c with lines := c.lines.set (icIndex pa) { l with valid := l.valid &&& ~~~ icBit pa } }
  else c

/-- A code fetch puts its doubleword into the instruction cache and makes it valid; a line of another address is
replaced (R135). -/
def ICache.onFetch (c : ICache) (pa w : Dword) : ICache :=
  let l := c.lines[icIndex pa]
  let kept := if l.tag = pa.extractLsb' 9 23 then l.valid else 0
  let l := { tag := pa.extractLsb' 9 23, valid := kept ||| icBit pa, words := l.words.set (icWord pa) w }
  { c with lines := c.lines.set (icIndex pa) l }

/-- The instruction cache holds the doubleword of an address (R135). -/
def ICache.hit (c : ICache) (pa : Dword) : Bool :=
  let l := c.lines[icIndex pa]
  l.tag == pa.extractLsb' 9 23 && l.valid &&& icBit pa != 0#4

/-- The byte of an address in its line of the instruction cache (R135). -/
def ICache.byte (c : ICache) (pa : Dword) : Byte :=
  (c.lines[icIndex pa].words[icWord pa] >>> (8 * (pa.extractLsb' 0 2).toNat)).extractLsb' 0 8

/-- The cache enabled. While it was disabled any of its doublewords may have been displaced (R138): free values. -/
def ICache.enable (c : ICache) (k : Nat) : ICache :=
  if c.enabled then c
  else
    { enabled := true,
      lines := Vector.ofFn fun i => { c.lines[i] with valid := c.lines[i].valid &&& Config.icacheKept k i.val } }

/-- Every valid bit cleared (R138). -/
def ICache.flush (c : ICache) : ICache := { c with lines := c.lines.map fun l => { l with valid := 0 } }

/-- Remember the byte a store replaces, unless the instruction has replaced it before or nothing changes (R137). -/
def noteStale (stale : List Host.Cell) (a : Nat) (old new : Byte) : List Host.Cell :=
  if old = new ∨ stale.any (fun c => c.1 == a) then stale else (a, old) :: stale

/-- What a device is told of a write. -/
def writeEvent (pa : Dword) (v : Byte) : Config.MemKind → List HostEvent
  | .device d => [.deviceWrite d pa v]
  | .ram => []
  | .rom => []
  | .none => []

/-- The prefetch queue holds the byte of a physical address (R136). -/
def State.queued (s : State) (pa : Dword) : Bool := s.queue.any fun c => c.2 == pa

/-- The byte of a physical address stands in the prefetch queue or in the instruction cache: the record that stores are
compared with (R136, 10_state.md R69). -/
def State.recorded (s : State) (pa : Dword) : Bool := s.queued pa || s.icache.hit pa

/-- Write one byte at a physical address: RAM stores it, a device is told, ROM and empty places drop it; where the byte
is on record as an instruction's, the prefetch queue is emptied (R101, R136, R137, D13; 10_state.md R69). -/
def State.putByte (s : State) (pa : Dword) (v : Byte) : State :=
  { s with
    mem := if s.kindAt pa = .ram then Mem.write s.mem pa.toNat v else s.mem
    stale := if s.kindAt pa = .ram then noteStale s.stale pa.toNat (s.cell pa) v else s.stale
    queue := if s.recorded pa then [] else s.queue
    flushed := if s.recorded pa && !s.queue.isEmpty then s.queue else s.flushed
    icache := s.icache.onStore pa
    out := writeEvent pa v (s.kindAt pa) ++ s.out }

/-- Four bytes of physical memory, the least significant first (R102). -/
def State.phys32 (s : State) (pa : Dword) : Dword :=
  s.phys (pa + 3) ++ s.phys (pa + 2) ++ s.phys (pa + 1) ++ s.phys pa

/-- Store four bytes of physical memory (R102). -/
def State.putPhys32 (s : State) (pa : Dword) (v : Dword) : State :=
  (((s.putByte pa (v.extractLsb' 0 8)).putByte (pa + 1) (v.extractLsb' 8 8)).putByte (pa + 2)
    (v.extractLsb' 16 8)).putByte (pa + 3) (v.extractLsb' 24 8)

/-! ## Modes -/

/-- Bit n of a doubleword. -/
def bit (v : Dword) (n : Nat) : Bool := v.getLsbD n

/-- CR0.PE (10_state.md R55). -/
def State.pe (s : State) : Bool := bit s.cr0 0
/-- CR0.PG (R55). -/
def State.pg (s : State) : Bool := bit s.cr0 31
/-- EFLAGS.VM (R44). -/
def State.vm (s : State) : Bool := bit s.eflags 17
/-- Virtual-8086 mode (21_segmentation.md R151). -/
def State.v86 (s : State) : Bool := s.pe && s.vm
/-- Protected mode proper: PE = 1 and VM = 0 (R151). -/
def State.prot (s : State) : Bool := s.pe && !s.vm
/-- EFLAGS.IOPL (10_state.md R43). -/
def State.iopl (s : State) : BitVec 2 := s.eflags.extractLsb' 12 2
/-- The executing instruction's own accesses are made at user level exactly at CPL 3 (22_paging.md R210). -/
def State.user (s : State) : Bool := s.cpl == 3#2

/-! ## Page translation -/

/-- What the two tables say of a linear address (22_paging.md R210). -/
inductive Walk where
  | notPresent
  | protection
  | ok (pdeAddr pteAddr : Dword) (pa : BitVec 20) (u w : Bool)
deriving DecidableEq, Repr

/-- Whether the combined attributes let an access through (R211). -/
def pageAllows (u w write user : Bool) : Bool := !user || (u && (!write || w))

/-- The walk of the two tables, changing nothing (R202, R210). -/
def State.walk (s : State) (la : Dword) (write user : Bool) : Walk :=
  let pdeAddr : Dword := s.cr3.extractLsb' 12 20 ++ la.extractLsb' 22 10 ++ 0#2
  let pde := s.phys32 pdeAddr
  if !bit pde 0 then .notPresent
  else
    let pteAddr : Dword := pde.extractLsb' 12 20 ++ la.extractLsb' 12 10 ++ 0#2
    let pte := s.phys32 pteAddr
    if !bit pte 0 then .notPresent
    else
      let u := bit pde 2 && bit pte 2
      let w := bit pde 1 && bit pte 1
      if pageAllows u w write user then .ok pdeAddr pteAddr (pte.extractLsb' 12 20) u w
      else .protection

/-- The addresses a walk reads (R202). -/
def State.walkReads (s : State) (la : Dword) : List Dword :=
  let pdeAddr : Dword := s.cr3.extractLsb' 12 20 ++ la.extractLsb' 22 10 ++ 0#2
  let pde := s.phys32 pdeAddr
  bytesFrom pdeAddr 4 ++
    (if bit pde 0 then bytesFrom (pde.extractLsb' 12 20 ++ la.extractLsb' 12 10 ++ 0#2) 4 else [])

/-- The number of an entry: set from linear bits 14:12, way (R230). -/
def tlbIndex (page : BitVec 20) (way : BitVec 2) : Fin 32 := (page.extractLsb' 0 3 ++ way : BitVec 5).toFin

/-- The ways of a page's set that hold a valid entry for it (R230). -/
def Tlb.ways (t : Tlb) (page : BitVec 20) : List (BitVec 2) :=
  [0#2, 1#2, 2#2, 3#2].filter fun k => t.entries[tlbIndex page k].v && t.entries[tlbIndex page k].tag == page

/-- Put an entry into a way of its set. -/
def Tlb.put (t : Tlb) (page : BitVec 20) (way : BitVec 2) (e : TlbEntry) : Tlb :=
  { t with entries := t.entries.set (tlbIndex page way) e }

/-- One page of a prepared access: the linear and physical page, and, when the tables were walked, what remains to be
done to them and to the TLB when the access is made. -/
structure Piece where
  la : BitVec 20
  pa : BitVec 20
  fill : Option (Dword × Dword × Bool × Bool)
deriving DecidableEq, Repr

/-- The error code of a page fault: U reports the CPL whoever made the access (R220). -/
def pfCode (s : State) (write present : Bool) : BitVec 16 :=
  0#13 ++ BitVec.ofBool s.user ++ BitVec.ofBool write ++ BitVec.ofBool present

/-- Raise #PF with the faulting linear address in CR2 (R220, R226). -/
def raisePF {α : Type} (fa : Dword) (write present : Bool) : Op α := fun s =>
  .error (.exc ⟨14, some (pfCode s write present)⟩) { s with cr2 := fa }

/-- Walk the tables for a page of an access, fa being the address a fault reports. -/
def probeWalk (la fa : Dword) (write user : Bool) : Op Piece := fun s =>
  let t := s.noteReads (s.walkReads la)
  match s.walk la write user with
  | .notPresent => raisePF fa write false t
  | .protection => raisePF fa write true t
  | .ok pdeAddr pteAddr pa u w => .ok ⟨la.extractLsb' 12 20, pa, some (pdeAddr, pteAddr, u, w)⟩ t

/-- Translate one page of an access and make its page check, changing no table (R210, R230). A TLB entry may be used
or dropped, by a free value (R232); an entry that would fault, or a write to a clean entry, walks the tables (R228(b),
R232(d)). -/
def probePage (la fa : Dword) (write user : Bool) : Op Piece := do
  let s ← get
  if !s.pg then return ⟨la.extractLsb' 12 20, la.extractLsb' 12 20, none⟩
  let page := la.extractLsb' 12 20
  match s.tlb.ways page with
  | [] => probeWalk la fa write user
  | [k] =>
    let e := s.tlb.entries[tlbIndex page k]
    let n ← fresh
    if Config.tlbKeep n then
      if pageAllows e.u e.w write user && (!write || e.d) then return ⟨page, e.pa, none⟩
      else probeWalk la fa write user
    else
      modify fun s => { s with tlb := s.tlb.put page k { e with v := false } }
      probeWalk la fa write user
  | _ => throw (.fault .tlbTwoMatches)

/-- Set bits of a table entry in memory, the other bits as they are (R228). -/
def State.orPhys32 (s : State) (pa : Dword) (bits : Dword) : State :=
  let t := s.bus pa 4
  if s.phys32 pa &&& bits = bits then t else t.putPhys32 pa (s.phys32 pa ||| bits)

/-- Make a prepared page's translation happen: accessed and dirty bits, the TLB entry, the replacement counter (R228,
R230, R231). Bit 6 of the directory entry on a write is a free value. -/
def touch (p : Piece) (write : Bool) : Op Unit := do
  let s ← get
  if s.pg then
    match p.fill with
    | none => pure ()
    | some (pdeAddr, pteAddr, u, w) =>
      let n ← fresh
      let pdeBits : Dword := if write && Config.pdeDirty n then 0x60 else 0x20
      modify fun s => (s.orPhys32 pdeAddr pdeBits).orPhys32 pteAddr (if write then 0x60 else 0x20)
      let s ← get
      let d := write || bit (s.phys32 pteAddr) 6
      let way := match s.tlb.ways p.la with
        | k :: _ => k
        | [] => s.tlb.counter + Config.tlbVictim n
      modify fun s => { s with tlb := s.tlb.put p.la way { v := true, tag := p.la, pa := p.pa, d := d, u := u, w := w } }
    modify fun s => { s with tlb := { s.tlb with counter := s.tlb.counter + 1 } }

/-- A prepared access of n bytes: the linear address of the first, its page and, when it crosses into one, the next
page (R224). -/
structure Ref where
  lin : Dword
  n : Nat
  lo : Piece
  hi : Option Piece
deriving DecidableEq, Repr

/-- The physical address of byte i of a prepared access. -/
def Ref.pa (r : Ref) (i : Nat) : Dword :=
  let la := r.lin + BitVec.ofNat 32 i
  let page := if la.extractLsb' 12 20 = r.lo.la then r.lo.pa else (r.hi.map Piece.pa).getD r.lo.pa
  page ++ la.extractLsb' 0 12

/-- The physical addresses of a prepared access. -/
def Ref.addresses (r : Ref) : List Dword := (List.range r.n).map r.pa

/-- Prepare an access of n bytes at a linear address: translate and check every page it touches, in either order when
there are two (R114, R224, R226, D25). -/
def probe (lin : Dword) (n : Nat) (write user : Bool) : Op Ref := do
  let last := lin + BitVec.ofNat 32 (n - 1)
  if last.extractLsb' 12 20 = lin.extractLsb' 12 20 then
    let lo ← probePage lin lin write user
    return ⟨lin, n, lo, none⟩
  else
    let upper : Dword := last.extractLsb' 12 20 ++ 0#12
    let s ← get
    if !s.pg then
      let lo ← probePage lin lin write user
      let hi ← probePage last upper write user
      return ⟨lin, n, lo, some hi⟩
    else
      let k ← fresh
      if Config.upperPageFirst k then
        let hi ← probePage last upper write user
        let lo ← probePage lin lin write user
        return ⟨lin, n, lo, some hi⟩
      else
        let lo ← probePage lin lin write user
        let hi ← probePage last upper write user
        return ⟨lin, n, lo, some hi⟩

/-- The translations of a prepared access happen. -/
def touchRef (r : Ref) (write : Bool) : Op Unit := do
  touch r.lo write
  match r.hi with
  | none => pure ()
  | some p => touch p write

/-- The value of n bytes of a prepared access, the byte at offset i first, the least significant first (R102). -/
def Ref.load (r : Ref) (s : State) : Nat → Nat → Nat
  | 0, _ => 0
  | n + 1, i => (s.phys (r.pa i)).toNat + 256 * Ref.load r s n (i + 1)

/-- Store the low n bytes of a value from offset i of a prepared access (R102). A device hears of them lowest address
first, where R104 fixes no order of the pieces: DESIGN CHOICE, unsafe (assumption log 56). -/
def Ref.store (r : Ref) (v : Nat) : Nat → Nat → State → State
  | 0, _, s => s
  | n + 1, i, s => Ref.store r v n (i + 1) (s.putByte (r.pa i) (BitVec.ofNat 8 (v / 256 ^ i)))

/-- A translation the processor creates or renews because it predicts it will be needed: only from entries that are both
present, and never with a fault (R228, R232(f)). -/
def State.predict (s : State) (page : BitVec 20) : State :=
  let t := s.noteReads (s.walkReads (page ++ 0#12))
  match s.walk (page ++ 0#12) false false with
  | .ok pdeAddr pteAddr pa u w => endState (touch ⟨page, pa, some (pdeAddr, pteAddr, u, w)⟩ false t)
  | .notPresent => t
  | .protection => t

/-! ## Data breakpoints -/

/-- The bytes a data breakpoint watches: 1, 2 or 4 by LEN, the address aligned down to them; LEN 10 is reserved and
matches nothing (62_debug_superstate.md R833, D80). -/
def bpLength (len : BitVec 2) : Option Nat :=
  if len = 0 then some 1 else if len = 1 then some 2 else if len = 3 then some 4 else none

/-- Whether breakpoint i (address a, DR7 value c) matches an access of n bytes at a linear address: RW 01 watches
writes, 11 reads and writes (R833, R835). The comparison is made without a wrap, so that the bytes of an access that
passes FFFFFFFFh match no breakpoint at address 0: DESIGN CHOICE, unsafe (assumption log 50). -/
def dataMatch (a c : Dword) (i : Nat) (lin : Dword) (n : Nat) (write : Bool) : Bool :=
  let rw := c.extractLsb' (16 + 4 * i) 2
  let kind := (rw == 1#2 && write) || rw == 3#2
  match bpLength (c.extractLsb' (18 + 4 * i) 2) with
  | none => false
  | some len =>
    let start := a.toNat / len * len
    kind && decide (start < lin.toNat + n) && decide (lin.toNat < start + len)

/-- The address of breakpoint i (R60). -/
def DebugRegs.addr (d : DebugRegs) (i : Nat) : Dword :=
  match i with
  | 0 => d.dr0
  | 1 => d.dr1
  | 2 => d.dr2
  | _ => d.dr3

/-- Breakpoint i is enabled: L or G (R63, R832). -/
def DebugRegs.enabled (d : DebugRegs) (i : Nat) : Bool := bit d.dr7 (2 * i) || bit d.dr7 (2 * i + 1)

/-- A bit for each breakpoint for which a condition holds. -/
def maskOf (f : Nat → Bool) : BitVec 4 :=
  BitVec.ofBool (f 3) ++ BitVec.ofBool (f 2) ++ BitVec.ofBool (f 1) ++ BitVec.ofBool (f 0)

/-- Record the data breakpoints an operand access matches, enabled or not (R835). -/
def State.watch (s : State) (lin : Dword) (n : Nat) (write : Bool) : State :=
  let seen := maskOf fun i => dataMatch (s.dregs.addr i) s.dregs.dr7 i lin n write
  { s with pend := { s.pend with hits := s.pend.hits ||| seen } }

/-! ## Accesses -/

/-- The bytes of a prepared access, its translations done, come in over the bus (R100, R110). -/
def loadRef (r : Ref) : Op Nat := fun s => .ok (r.load s r.n 0) (s.noteReads r.addresses)

/-- Make a prepared read (R100). -/
def readRef (r : Ref) : Op Nat := do
  touchRef r false
  modify fun s => s.watch r.lin r.n false
  loadRef r

/-- Make a prepared write (R100). -/
def writeRef (r : Ref) (v : Nat) : Op Unit := do
  touchRef r true
  modify fun s => (r.store v r.n 0 s).watch r.lin r.n true

/-- Read n bytes at a linear address for the processor itself: supervisor level, no breakpoints (22_paging.md R210,
D22, D81). -/
def linRead (lin : Dword) (n : Nat) : Op Nat := do
  let r ← probe lin n false false
  touchRef r false
  loadRef r

/-- Make a write for the processor itself that has been prepared. -/
def sysWrite (r : Ref) (v : Nat) : Op Unit := do
  touchRef r true
  modify fun s => r.store v r.n 0 s

/-- Write n bytes at a linear address for the processor itself. -/
def linWrite (lin : Dword) (n : Nat) (v : Nat) : Op Unit := do
  let r ← probe lin n true false
  sysWrite r v

end Sys2Proof.Machine
end

