-- ==== Sys2Proof/Machine/Flags.lean ====
section
/-!
DEFINITION. Machine/Flags.lean: EFLAGS and every flag computation (10_state.md R36 to R44; 42_arithmetic.md R380;
43_logical.md; 44_shift_rotate.md).
-/
namespace Sys2Proof.Machine

/-- The six status flags (R36). -/
structure Status where
  cf : Bool
  pf : Bool
  af : Bool
  zf : Bool
  sf : Bool
  of : Bool
deriving DecidableEq, Repr

/-- The status flags in an EFLAGS value: bits 0, 2, 4, 6, 7, 11 (R36). -/
def statusOf (e : Dword) : Status :=
  { cf := bit e 0, pf := bit e 2, af := bit e 4, zf := bit e 6, sf := bit e 7, of := bit e 11 }

/-- A flag's doubleword: 1 at a bit. -/
def flagBit (n : Nat) (b : Bool) : Dword := (BitVec.ofBool b).setWidth 32 <<< n

/-- The status flags at their places. -/
def Status.bits (f : Status) : Dword :=
  flagBit 0 f.cf ||| flagBit 2 f.pf ||| flagBit 4 f.af ||| flagBit 6 f.zf ||| flagBit 7 f.sf ||| flagBit 11 f.of

/-- EFLAGS with its six status flags replaced; every other bit as it was. -/
def withStatus (e : Dword) (f : Status) : Dword := (e &&& ~~~ 0x8D5) ||| f.bits

/-- EFLAGS with one bit replaced. -/
def withBit (e : Dword) (n : Nat) (b : Bool) : Dword := (e &&& ~~~ flagBit n true) ||| flagBit n b

/-- The machine's status flags. -/
def State.status (s : State) : Status := statusOf s.eflags

/-- The machine with other status flags. -/
def State.setStatus (s : State) (f : Status) : State := { s with eflags := withStatus s.eflags f }

/-- Write the status flags. -/
def setStatus (f : Status) : Op Unit := modify fun s => s.setStatus f

/-- A fresh set of undefined status flags (U1). -/
def undefStatus : Op Status := do
  let k ← fresh
  let v := Config.undefFlags k
  return { cf := v.getLsbD 0, pf := v.getLsbD 1, af := v.getLsbD 2, zf := v.getLsbD 3, sf := v.getLsbD 4,
           of := v.getLsbD 5 }

/-- PF: the low byte has an even number of ones (R38). -/
def parity8 {n : Nat} (v : BitVec n) : Bool :=
  !(v.getLsbD 0 ^^ v.getLsbD 1 ^^ v.getLsbD 2 ^^ v.getLsbD 3 ^^ v.getLsbD 4 ^^ v.getLsbD 5 ^^ v.getLsbD 6
    ^^ v.getLsbD 7)

/-- The exact signed result fits the width (R38, OF). -/
def fitsSigned (n : Nat) (v : Int) : Bool := decide (-(2 ^ (n - 1) : Int) ≤ v) && decide (v < (2 ^ (n - 1) : Int))

/-- A carry as a number. -/
def carryNat (c : Bool) : Nat := if c then 1 else 0

/-- The flags of a + b + c (R380). -/
def addStatus {n : Nat} (a b : BitVec n) (c : Bool) : Status :=
  let r := a + b + BitVec.ofNat n (carryNat c)
  { cf := decide (2 ^ n ≤ a.toNat + b.toNat + carryNat c)
    pf := parity8 r
    af := decide (16 ≤ a.toNat % 16 + b.toNat % 16 + carryNat c)
    zf := decide (r = 0)
    sf := r.msb
    of := !fitsSigned n (a.toInt + b.toInt + carryNat c) }

/-- The flags of a - b - c (R380). -/
def subStatus {n : Nat} (a b : BitVec n) (c : Bool) : Status :=
  let r := a - b - BitVec.ofNat n (carryNat c)
  { cf := decide (a.toNat < b.toNat + carryNat c)
    pf := parity8 r
    af := decide (a.toNat % 16 < b.toNat % 16 + carryNat c)
    zf := decide (r = 0)
    sf := r.msb
    of := !fitsSigned n (a.toInt - b.toInt - carryNat c) }

/-- The flags of a logical result: CF and OF cleared, AF undefined (R420 to R425). -/
def logicStatus {n : Nat} (r : BitVec n) (af : Bool) : Status :=
  { cf := false, pf := parity8 r, af := af, zf := decide (r = 0), sf := r.msb, of := false }

/-- SF, ZF and PF from a result, the other flags as given. -/
def Status.ofResult {n : Nat} (f : Status) (r : BitVec n) : Status :=
  { f with pf := parity8 r, zf := decide (r = 0), sf := r.msb }

end Sys2Proof.Machine
end

