-- ==== Sys2Proof/Machine/Segments.lean ====
section
/-!
DEFINITION. Machine/Segments.lean: the check of every memory reference, descriptors, and the loads of segment and
system segment registers (21_segmentation.md).
-/
namespace Sys2Proof.Machine

/-- The register of a segment register number (R45). -/
def Segs.get (g : Segs) : Sreg → SegReg
  | .es => g.es | .cs => g.cs | .ss => g.ss | .ds => g.ds | .fs => g.fs | .gs => g.gs

/-- Replace one segment register. -/
def Segs.set (g : Segs) (k : Sreg) (r : SegReg) : Segs :=
  match k with
  | .es => { g with es := r } | .cs => { g with cs := r } | .ss => { g with ss := r }
  | .ds => { g with ds := r } | .fs => { g with fs := r } | .gs => { g with gs := r }

/-- Replace one segment register and its shadow. -/
def State.setSeg (s : State) (k : Sreg) (r : SegReg) : State := { s with segs := s.segs.set k r }

/-! ## The check of a memory reference -/

/-- Why a reference through a segment register is not allowed (R180). -/
inductive SegCheck where
  | ok | nullSelector | violation
deriving DecidableEq, Repr

/-- The offsets of n bytes at off lie in the segment: at or below the limit, or above it and at or below the upper
bound when it expands down; sums are not wrapped (R168, R180 step 3). -/
def SegReg.inLimit (r : SegReg) (off n : Nat) : Bool :=
  let last := off + n - 1
  if !r.attr.e && r.attr.c then
    decide (r.limit.toNat < off) && decide (last ≤ (if r.attr.db then 0xFFFFFFFF else 0xFFFF))
  else decide (last ≤ r.limit.toNat)

/-- The kind of segment allows the access: no write to code or to a nonwritable segment, no read of execute-only code
(R180 step 2). -/
def SegReg.allows (r : SegReg) (write : Bool) : Bool :=
  if write then !r.attr.e && r.attr.rw else !r.attr.e || r.attr.rw

/-- The check of a reference to n bytes at an offset (R180). -/
def SegReg.check (r : SegReg) (prot : Bool) (off n : Nat) (write : Bool) : SegCheck :=
  if prot && r.null then .nullSelector
  else if r.allows write && r.inLimit off n then .ok
  else .violation

/-- Check n bytes at an offset through a segment register value (R180). A violation raises #SS(code) for the stack
segment, #GP(0) for another; a null selector #GP(0). The code is 0 but during the delivery of an event, whose EX bit a
null selector's #GP(0) carries too (60_exceptions.md R695). -/
def checkVia (r : SegReg) (isStack : Bool) (code : BitVec 16) (off : Dword) (n : Nat) (write : Bool) : Op Unit := do
  let s ← get
  match r.check s.prot off.toNat n write with
  | .nullSelector => raiseGP (code &&& 1)
  | .violation => if isStack then raiseSS code else raiseGP 0
  | .ok => return ()

/-- Prepare an access through a segment register value: R180, then the pages (20_memory.md R100, R113). -/
def prepareVia (r : SegReg) (isStack : Bool) (code : BitVec 16) (off : Dword) (n : Nat) (write user : Bool) :
    Op Ref := do
  checkVia r isStack code off n write
  probe (r.base + off) n write user

/-- Prepare an access of the executing instruction through a segment register. -/
def prepare (k : Sreg) (off : Dword) (n : Nat) (write : Bool) : Op Ref := do
  let s ← get
  prepareVia (s.segs.get k) (k == .ss) 0 off n write s.user

/-- Check an operand of n bytes as a whole: its offsets do not wrap (R180, 30_encoding.md R270). -/
def checkWhole (k : Sreg) (off : Dword) (n : Nat) (write : Bool) : Op Unit := do
  let s ← get
  checkVia (s.segs.get k) (k == .ss) 0 off n write

/-- Make prepared reads of the instruction, in order. -/
def readRefs : List Ref → Op (List Nat)
  | [] => return []
  | r :: rest => do
    let v ← readRef r
    let l ← readRefs rest
    return v :: l

/-- MemRead (20_memory.md R100). -/
def memRead (k : Sreg) (off : Dword) (n : Nat) : Op Nat := do
  let r ← prepare k off n false
  readRef r

/-- MemWrite (R100). -/
def memWrite (k : Sreg) (off : Dword) (n : Nat) (v : Nat) : Op Unit := do
  let r ← prepare k off n true
  writeRef r v

/-! ## Selectors and descriptors -/

/-- A null selector: index 0 in the GDT (R155). -/
def isNull (sel : BitVec 16) : Bool := sel.extractLsb' 2 14 == 0#14

/-- RPL (R154). -/
def rpl (sel : BitVec 16) : BitVec 2 := sel.extractLsb' 0 2

/-- TI: the selector names the LDT (R154). -/
def selTI (sel : BitVec 16) : Bool := sel.getLsbD 2

/-- The offset of a selector's descriptor in its table (R156). -/
def selOffset (sel : BitVec 16) : Nat := 8 * (sel.extractLsb' 3 13).toNat

/-- The two doublewords of a descriptor and the linear address they stand at (R156). -/
structure Desc where
  lo : Dword
  hi : Dword
  lin : Dword
deriving DecidableEq, Repr

/-- Base (R160). -/
def Desc.base (d : Desc) : Dword := d.hi.extractLsb' 24 8 ++ d.hi.extractLsb' 0 8 ++ d.lo.extractLsb' 16 16

/-- Limit in bytes: the 20-bit limit, or its 4kB multiple when G = 1 (R160). -/
def Desc.limit (d : Desc) : Dword :=
  let l20 : BitVec 20 := d.hi.extractLsb' 16 4 ++ d.lo.extractLsb' 0 16
  if bit d.hi 23 then l20 ++ 0xFFF#12 else l20.setWidth 32

/-- Attributes as they stand (R160). -/
def Desc.attr (d : Desc) : Attr :=
  { g := bit d.hi 23, db := bit d.hi 22, avl := bit d.hi 20, p := bit d.hi 15, dpl := d.hi.extractLsb' 13 2,
    s := bit d.hi 12, e := bit d.hi 11, c := bit d.hi 10, rw := bit d.hi 9, a := bit d.hi 8 }

/-- The five type bits hi[12:8] (R163). -/
def Desc.type (d : Desc) : BitVec 5 := d.hi.extractLsb' 8 5

/-- Present (R160). -/
def Desc.p (d : Desc) : Bool := bit d.hi 15
/-- DPL (R160). -/
def Desc.dpl (d : Desc) : BitVec 2 := d.hi.extractLsb' 13 2
/-- A code or data segment, not a system descriptor (R160). -/
def Desc.isSeg (d : Desc) : Bool := bit d.hi 12
/-- A code segment. -/
def Desc.isCode (d : Desc) : Bool := bit d.hi 12 && bit d.hi 11
/-- A conforming code segment. -/
def Desc.isConforming (d : Desc) : Bool := d.isCode && bit d.hi 10
/-- A data segment or a readable code segment (R170). -/
def Desc.isReadable (d : Desc) : Bool := bit d.hi 12 && (!bit d.hi 11 || bit d.hi 9)
/-- A writable data segment (R172). -/
def Desc.isWritable (d : Desc) : Bool := bit d.hi 12 && !bit d.hi 11 && bit d.hi 9
/-- A TSS, available or busy, of 16 or 32 bits (R163). -/
def Desc.isTss (d : Desc) : Bool := d.type == 1#5 || d.type == 3#5 || d.type == 9#5 || d.type == 11#5
/-- An available TSS (R163). -/
def Desc.isTssAvail (d : Desc) : Bool := d.type == 1#5 || d.type == 9#5
/-- A busy TSS (R163). -/
def Desc.isTssBusy (d : Desc) : Bool := d.type == 3#5 || d.type == 11#5
/-- An LDT (R163). -/
def Desc.isLdt (d : Desc) : Bool := d.type == 2#5

/-- A segment register that holds the decoded descriptor; A is recorded as 1 for a code or data segment (R160, R176). -/
def Desc.toReg (d : Desc) (sel : BitVec 16) : SegReg :=
  { sel := sel, base := d.base, limit := d.limit,
    attr := { d.attr with a := d.attr.a || d.isSeg }, null := false }

/-- The linear address of a selector's descriptor; none when there is no LDT or the selector is beyond its table (R156,
R171). -/
def State.descAddr (s : State) (sel : BitVec 16) : Option Dword :=
  let tbase := if selTI sel then s.ldtr.base else s.gdtr.base
  let tlimit := if selTI sel then s.ldtr.limit.toNat else s.gdtr.limit.toNat
  if (selTI sel && s.ldtr.null) || decide (tlimit < selOffset sel + 7) then none
  else some (tbase + BitVec.ofNat 32 (selOffset sel))

/-- Read the descriptor of a selector, its two doublewords one after the other; none where it has no address (R156). -/
def descFetch (sel : BitVec 16) : Op (Option Desc) := do
  let s ← get
  match s.descAddr sel with
  | none => return none
  | some lin =>
    let lo ← linRead lin 4
    let hi ← linRead (lin + 4) 4
    return some ⟨BitVec.ofNat 32 lo, BitVec.ofNat 32 hi, lin⟩

/-- Read a descriptor or a gate as one access of eight bytes, so that both pages of one that spans two are checked
before any byte is read, and either can be the one reported (49_system_misc.md R612; 60_exceptions.md R700;
22_paging.md R224, R226, D25). -/
def descRead (lin : Dword) : Op Desc := do
  let v ← linRead lin 8
  return ⟨BitVec.ofNat 32 v, BitVec.ofNat 32 (v / 2 ^ 32), lin⟩

/-- The descriptor of a selector, or the stop the using rule gives for one beyond its table. -/
def descOr (sel : BitVec 16) (bad : Op Desc) : Op Desc := do
  match ← descFetch sel with
  | some d => return d
  | none => bad

/-- A locked update of a descriptor's high doubleword: OR with the first mask after AND with the second (R176). That the
write is issued also where it changes no bit is a DESIGN CHOICE, unsafe (assumption log 54): R176 and 20_memory.md R127
leave that open. -/
def descUpdate (d : Desc) (orBits andBits : Dword) : Op Unit := do
  let v ← linRead (d.lin + 4) 4
  linWrite (d.lin + 4) 4 ((BitVec.ofNat 32 v &&& andBits) ||| orBits).toNat

/-- Set the accessed bit (R176). -/
def setAccessed (d : Desc) : Op Unit := descUpdate d 0x100 0xFFFFFFFF

/-- Set the busy bit of a TSS descriptor (R176). -/
def setBusy (d : Desc) : Op Unit := descUpdate d 0x200 0xFFFFFFFF

/-- Clear the busy bit of a TSS descriptor (R176). -/
def clearBusy (d : Desc) : Op Unit := descUpdate d 0 0xFFFFFDFF

/-! ## Loads of segment registers -/

/-- The larger, less privileged, of two levels. -/
def maxLevel (a b : BitVec 2) : BitVec 2 := if a.toNat < b.toNat then b else a

/-- Load in real mode: selector and base change, limit and attributes stay (R152). -/
def SegReg.loadReal (r : SegReg) (sel : BitVec 16) : SegReg :=
  { r with sel := sel, base := sel.setWidth 32 <<< 4, null := false }

/-- The attributes of every segment in virtual-8086 mode (R153, D18). That AVL, which they do not name, is 0 is a DESIGN
CHOICE, unsafe (assumption log 42). -/
def Attr.v86 : Attr :=
  { g := false, db := false, avl := false, p := true, dpl := 3, s := true, e := false, c := false, rw := true,
    a := true }

/-- Load in virtual-8086 mode (R153). -/
def SegReg.ofV86 (sel : BitVec 16) : SegReg :=
  { sel := sel, base := sel.setWidth 32 <<< 4, limit := 0xFFFF, attr := Attr.v86, null := false }

/-- A data segment register that holds a null selector (R155). -/
def SegReg.loadNull (r : SegReg) (sel : BitVec 16) : SegReg :=
  { r with sel := sel, null := true, attr := { r.attr with p := false } }

/-- The checks of a load of DS, ES, FS or GS at a privilege level; the selector is not null (R170). A fault of table,
type or privilege is the given stop. -/
def checkData (level : BitVec 2) (sel : BitVec 16) (bad : Op Desc) : Op Desc := do
  let d ← descOr sel bad
  if !d.isReadable then bad
  else if !d.isConforming && decide (d.dpl.toNat < (maxLevel level (rpl sel)).toNat) then bad
  else if !d.p then raiseNP (selCode sel)
  else return d

/-- The checks of a load of SS at a privilege level; the selector is not null (R172). -/
def checkStack (level : BitVec 2) (sel : BitVec 16) (bad : Op Desc) : Op Desc := do
  let d ← descOr sel bad
  if rpl sel ≠ level then bad
  else if !d.isWritable then bad
  else if d.dpl ≠ level then bad
  else if !d.p then raiseSS (selCode sel)
  else return d

/-- Load DS, ES, FS or GS in protected mode (R170). -/
def loadDataProt (k : Sreg) (sel : BitVec 16) : Op Unit := do
  let s ← get
  if isNull sel then modify fun s => s.setSeg k ((s.segs.get k).loadNull sel)
  else
    let d ← checkData s.cpl sel (raiseGP (selCode sel))
    setAccessed d
    modify fun s => s.setSeg k (d.toReg sel)

/-- Load SS in protected mode (R172). -/
def loadStackProt (sel : BitVec 16) : Op Unit := do
  let s ← get
  if isNull sel then raiseGP 0
  else
    let d ← checkStack s.cpl sel (raiseGP (selCode sel))
    setAccessed d
    modify fun s => s.setSeg .ss (d.toReg sel)

/-- Load a segment register other than CS in the current mode (R151, R169). -/
def loadSeg (k : Sreg) (sel : BitVec 16) : Op Unit := do
  let s ← get
  if !s.pe then modify fun s => s.setSeg k ((s.segs.get k).loadReal sel)
  else if s.vm then modify fun s => s.setSeg k (SegReg.ofV86 sel)
  else if k = .ss then loadStackProt sel
  else loadDataProt k sel

/-! ## LDTR and TR -/

/-- LLDT's load (R174). -/
def loadLdtr (sel : BitVec 16) : Op Unit := do
  if isNull sel then modify fun s => { s with ldtr := s.ldtr.loadNull sel }
  else if selTI sel then raiseGP (selCode sel)
  else
    let d ← descOr sel (raiseGP (selCode sel))
    if !d.isLdt then raiseGP (selCode sel)
    else if !d.p then raiseNP (selCode sel)
    else modify fun s => { s with ldtr := d.toReg sel }

/-- The TR value of a descriptor, with the busy type (R174). -/
def Desc.toBusyReg (d : Desc) (sel : BitVec 16) : SegReg :=
  { d.toReg sel with attr := { d.attr with rw := true } }

/-- LTR's load: no task switch, the TSS becomes busy (R174). -/
def loadTr (sel : BitVec 16) : Op Unit := do
  if isNull sel then raiseGP 0
  else if selTI sel then raiseGP (selCode sel)
  else
    let d ← descOr sel (raiseGP (selCode sel))
    if !d.isTssAvail then raiseGP (selCode sel)
    else if !d.p then raiseNP (selCode sel)
    else
      setBusy d
      modify fun s => { s with tr := d.toBusyReg sel }

end Sys2Proof.Machine
end

