-- ==== Sys2Proof/Machine/Task.lean ====
section
/-!
DEFINITION. Machine/Task.lean: the stack, the load of CS, the inner stacks of the TSS, and the task switch
(40_data_movement.md R332, R336; 61_protection_tasks.md R758, R780 to R797).
-/
namespace Sys2Proof.Machine

/-! ## The stack -/

/-- The stack pointer as an offset: ESP when SS.B = 1, else SP zero-extended (21_segmentation.md R166). -/
def State.sp (s : State) : Dword :=
  if s.segs.ss.attr.db then s.regs.esp else s.regs.esp &&& 0xFFFF

/-- A stack offset moved, modulo the stack-address size (R332, R336). -/
def spAdd (big : Bool) (sp : Dword) (n : Dword) : Dword :=
  if big then sp + n else (sp + n) &&& 0xFFFF

/-- Set ESP, or SP alone when the stack-address size is 16 (R332). -/
def Regs.setSp (r : Regs) (big : Bool) (v : Dword) : Regs :=
  { r with esp := if big then v else (r.esp &&& 0xFFFF0000) ||| (v &&& 0xFFFF) }

/-- Set the stack pointer of the current stack (R332). -/
def State.setSp (s : State) (v : Dword) : State := { s with regs := s.regs.setSp s.segs.ss.attr.db v }

/-- Prepare the pushes of several items, the first at the highest address, below a stack offset through a stack
segment value: every check of every item, no effect (R332 for each, 20_memory.md R114). The new stack offset comes
back with the prepared stores. -/
def preparePushes (ss : SegReg) (code : BitVec 16) (user : Bool) : Dword → List (Nat × Nat) →
    Op (List (Ref × Nat) × Dword)
  | sp, [] => return ([], sp)
  | sp, (n, v) :: rest => do
    let sp' := spAdd ss.attr.db sp (0 - BitVec.ofNat 32 n)
    let r ← prepareVia ss true code sp' n true user
    let (l, spEnd) ← preparePushes ss code user sp' rest
    return ((r, v) :: l, spEnd)

/-- Make prepared stores. -/
def writeAll : List (Ref × Nat) → Op Unit
  | [] => return ()
  | (r, v) :: rest => do
    writeRef r v
    writeAll rest

/-- Push items of given sizes on the current stack, the first at the highest address: all are checked before any is
stored (R332, R114). -/
def pushItems (items : List (Nat × Nat)) : Op Unit := do
  let s ← get
  let (l, sp) ← preparePushes s.segs.ss 0 s.user s.sp items
  writeAll l
  modify fun s => s.setSp sp

/-- Push one item (R332). -/
def push (n : Nat) (v : Nat) : Op Unit := pushItems [(n, v)]

/-- Read one item of n bytes on the stack, k bytes above a stack offset (R336, R772). -/
def stackRead (sp : Dword) (k n : Nat) : Op Nat := do
  let s ← get
  memRead .ss (spAdd s.segs.ss.attr.db sp (BitVec.ofNat 32 k)) n

/-- Prepare the reads of n bytes on the stack at several distances above an offset (R336). -/
def prepareStack (sp : Dword) (n : Nat) : List Nat → Op (List Ref)
  | [] => return []
  | k :: rest => do
    let s ← get
    let r ← prepare .ss (spAdd s.segs.ss.attr.db sp (BitVec.ofNat 32 k)) n false
    let l ← prepareStack sp n rest
    return r :: l

/-- Read n bytes on the stack at several distances above an offset: all are checked before any is read (R336, R772,
22_paging.md R224). -/
def stackReads (sp : Dword) (n : Nat) (ks : List Nat) : Op (List Nat) := do
  let l ← prepareStack sp n ks
  readRefs l

/-- Pop one item (R336). -/
def pop (n : Nat) : Op Nat := do
  let s ← get
  let v ← memRead .ss s.sp n
  modify fun t => t.setSp (spAdd s.segs.ss.attr.db s.sp (BitVec.ofNat 32 n))
  return v

/-- A selector as an item of n bytes: the upper word of a doubleword is undefined (U5). -/
def selItem (n : Nat) (sel : BitVec 16) : Op (Nat × Nat) := do
  if n = 4 then
    let k ← fresh
    return (4, ((Config.undefDword k).extractLsb' 16 16 ++ sel : BitVec 32).toNat)
  else return (n, sel.toNat)

/-- An n-byte item of a doubleword. -/
def item (n : Nat) (v : Dword) : Nat × Nat := (n, v.toNat % 256 ^ n)

/-! ## Transfers -/

/-- The prefetch queue emptied, with everything the instruction behind a store might have run from (10_state.md R69,
20_memory.md R137, R139). -/
def State.emptied (s : State) : State := { s with stale := [], queue := [], flushed := [], again := none }

/-- The next instruction is at an offset of the current code segment; the prefetch queue is emptied (10_state.md R69,
20_memory.md R137, R139). -/
def State.jump (s : State) (off : Dword) : State := { s.emptied with nextEip := off }

/-- CS holds a checked code descriptor at a privilege level, and the next instruction is at an offset of it (R758
CommitCS). -/
def State.enterCS (s : State) (sel : BitVec 16) (d : Desc) (level : BitVec 2) (off : Dword) : State :=
  State.jump { s.setSeg .cs (d.toReg (selCode sel ||| level.setWidth 16)) with cpl := level } off

/-- CommitCS: the accessed bit, whose write may fault, comes first (R758). -/
def commitCS (sel : BitVec 16) (d : Desc) (level : BitVec 2) (off : Dword) : Op Unit := do
  setAccessed d
  modify fun s => s.enterCS sel d level off

/-- Load CS and go to an offset in real and virtual-8086 mode (21_segmentation.md R152, R153; R760). -/
def commitReal (sel : BitVec 16) (off : Dword) : Op Unit := do
  loadSeg .cs sel
  modify fun s => s.jump off

/-- TR names a 32-bit TSS (21_segmentation.md R163). -/
def SegReg.isTss32 (r : SegReg) : Bool := r.attr.e

/-- The inner stack of a level: SS and (E)SP from the current TSS (R781). -/
def innerStack (level : BitVec 2) (ex : BitVec 16) : Op (BitVec 16 × Dword) := do
  let s ← get
  let k := level.toNat
  if s.tr.isTss32 then
    if s.tr.limit.toNat < 8 * k + 9 then raiseTS (selCode s.tr.sel + ex)
    else
      let sp ← linRead (s.tr.base + BitVec.ofNat 32 (4 + 8 * k)) 4
      let ss ← linRead (s.tr.base + BitVec.ofNat 32 (8 + 8 * k)) 2
      return (BitVec.ofNat 16 ss, BitVec.ofNat 32 sp)
  else
    if s.tr.limit.toNat < 4 * k + 5 then raiseTS (selCode s.tr.sel + ex)
    else
      let sp ← linRead (s.tr.base + BitVec.ofNat 32 (2 + 4 * k)) 2
      let ss ← linRead (s.tr.base + BitVec.ofNat 32 (4 + 4 * k)) 2
      return (BitVec.ofNat 16 ss, BitVec.ofNat 32 sp)

/-- The checks of an inner stack selector (R767, 60_exceptions.md R703). -/
def checkInner (level : BitVec 2) (sel : BitVec 16) (ex : BitVec 16) : Op Desc := do
  if isNull sel then raiseTS ex
  else
    let d ← descOr sel (raiseTS (selCode sel + ex))
    if rpl sel ≠ level ∨ d.dpl ≠ level ∨ !d.isWritable then raiseTS (selCode sel + ex)
    else if !d.p then raiseSS (selCode sel + ex)
    else return d

/-! ## The task switch -/

/-- Why a task is switched (R790). -/
inductive TaskReason where
  | jump | call | interrupt | iret
deriving DecidableEq, Repr

/-- A call or an interrupt nests (R790). -/
def TaskReason.nests : TaskReason → Bool
  | .call => true
  | .interrupt => true
  | .jump => false
  | .iret => false

/-- EFLAGS as a load leaves it: the defined bits, bit 1 set, the rest 0 (10_state.md R37, D4). -/
def normFlags (v : Dword) : Dword := (v &&& 0x00037FD5) ||| 2

/-- The TLB invalidated as a whole, with the fetch unit's private translation; the counter keeps its value
(22_paging.md R234). -/
def Tlb.flush (t : Tlb) : Tlb :=
  { t with entries := t.entries.map fun e => { e with v := false }, fetch := none }

/-- What a task switch saves: offset, bytes, value (R780, R782, R794 phase B). -/
def tssSave (s : State) (eip fl : Dword) : List (Nat × Nat × Nat) :=
  let r := s.regs
  let g := s.segs
  if s.tr.isTss32 then
    [(0x20, 4, eip.toNat), (0x24, 4, fl.toNat), (0x28, 4, r.eax.toNat), (0x2C, 4, r.ecx.toNat),
     (0x30, 4, r.edx.toNat), (0x34, 4, r.ebx.toNat), (0x38, 4, r.esp.toNat), (0x3C, 4, r.ebp.toNat),
     (0x40, 4, r.esi.toNat), (0x44, 4, r.edi.toNat), (0x48, 2, g.es.sel.toNat), (0x4C, 2, g.cs.sel.toNat),
     (0x50, 2, g.ss.sel.toNat), (0x54, 2, g.ds.sel.toNat), (0x58, 2, g.fs.sel.toNat), (0x5C, 2, g.gs.sel.toNat)]
  else
    [(0x0E, 2, eip.toNat), (0x10, 2, fl.toNat), (0x12, 2, r.eax.toNat), (0x14, 2, r.ecx.toNat),
     (0x16, 2, r.edx.toNat), (0x18, 2, r.ebx.toNat), (0x1A, 2, r.esp.toNat), (0x1C, 2, r.ebp.toNat),
     (0x1E, 2, r.esi.toNat), (0x20, 2, r.edi.toNat), (0x22, 2, g.es.sel.toNat), (0x24, 2, g.cs.sel.toNat),
     (0x26, 2, g.ss.sel.toNat), (0x28, 2, g.ds.sel.toNat)]

/-- Prepare the processor's own writes at offsets from a base. -/
def prepareSaves (base : Dword) : List (Nat × Nat × Nat) → Op (List (Ref × Nat))
  | [] => return []
  | (off, n, v) :: rest => do
    let r ← probe (base + BitVec.ofNat 32 off) n true false
    let l ← prepareSaves base rest
    return (r, v) :: l

/-- Make the processor's own prepared writes. -/
def sysWriteAll : List (Ref × Nat) → Op Unit
  | [] => return ()
  | (r, v) :: rest => do
    sysWrite r v
    sysWriteAll rest

/-- The fields read from a new TSS: offset and bytes, in the order of TaskImage (R780, R782). -/
def tssFields (is32 : Bool) : List (Nat × Nat) :=
  if is32 then
    [(0x1C, 4), (0x20, 4), (0x24, 4), (0x28, 4), (0x2C, 4), (0x30, 4), (0x34, 4), (0x38, 4), (0x3C, 4), (0x40, 4),
     (0x44, 4), (0x48, 2), (0x4C, 2), (0x50, 2), (0x54, 2), (0x58, 2), (0x5C, 2), (0x60, 2), (0x64, 2)]
  else
    [(0x0E, 2), (0x10, 2), (0x12, 2), (0x14, 2), (0x16, 2), (0x18, 2), (0x1A, 2), (0x1C, 2), (0x1E, 2), (0x20, 2),
     (0x22, 2), (0x24, 2), (0x26, 2), (0x28, 2), (0x2A, 2)]

/-- Prepare the processor's own reads at offsets from a base. -/
def prepareReads (base : Dword) : List (Nat × Nat) → Op (List Ref)
  | [] => return []
  | (off, n) :: rest => do
    let r ← probe (base + BitVec.ofNat 32 off) n false false
    let l ← prepareReads base rest
    return r :: l

/-- Make the processor's own prepared reads. -/
def readAll : List Ref → Op (List Nat)
  | [] => return []
  | r :: rest => do
    touchRef r false
    let v ← loadRef r
    let l ← readAll rest
    return v :: l

/-- The image of a task read from its TSS. -/
structure TaskImage where
  cr3 : Dword
  eip : Dword
  eflags : Dword
  regs : Regs
  es : BitVec 16
  cs : BitVec 16
  ss : BitVec 16
  ds : BitVec 16
  fs : BitVec 16
  gs : BitVec 16
  ldt : BitVec 16
  t : Bool
deriving DecidableEq, Repr

/-- A word register loaded from a 16-bit TSS, the upper half from a free value (U7). -/
def upperUndef (k : Nat) (v : Nat) : Dword := (Config.undefDword k).extractLsb' 16 16 ++ BitVec.ofNat 16 v

/-- The image of the values read: those of a 32-bit TSS, or those of a 16-bit one, whose registers have free upper
halves numbered from k on and whose FS and GS are null (R780, R782). -/
def TaskImage.ofReads (is32 : Bool) (k : Nat) (l : List Nat) : TaskImage :=
  let d := fun i => BitVec.ofNat 32 (l.getD i 0)
  let w := fun i => BitVec.ofNat 16 (l.getD i 0)
  if is32 then
    { cr3 := d 0, eip := d 1, eflags := d 2,
      regs := { eax := d 3, ecx := d 4, edx := d 5, ebx := d 6, esp := d 7, ebp := d 8, esi := d 9, edi := d 10 },
      es := w 11, cs := w 12, ss := w 13, ds := w 14, fs := w 15, gs := w 16, ldt := w 17, t := (d 18).getLsbD 0 }
  else
    let u := fun i => upperUndef (k + i) (l.getD (2 + i) 0)
    { cr3 := 0, eip := d 0, eflags := d 1,
      regs := { eax := u 0, ecx := u 1, edx := u 2, ebx := u 3, esp := u 4, ebp := u 5, esi := u 6, edi := u 7 },
      es := w 10, cs := w 11, ss := w 12, ds := w 13, fs := 0, gs := 0, ldt := w 14, t := false }

/-- Use n free values at once; the first one's number. -/
def freshMany (n : Nat) : Op Nat := fun s => .ok s.free { s with free := s.free + n }

/-- A faulting operation whose exception is delivered from the state it left, not from the instruction's start: the
part of a task switch behind its commit (R794 phase C). -/
def committed {α : Type} (x : Op α) : Op α := fun s =>
  match x s with
  | .error (.exc e) s' => .error (.late e) s'
  | r => r

/-- A prepared locked update of a descriptor's high doubleword. -/
def updateRef (r : Ref) (orBits andBits : Dword) : Op Unit := do
  touchRef r true
  let v ← loadRef r
  modify fun s => r.store ((BitVec.ofNat 32 v &&& andBits) ||| orBits).toNat 4 0 s

/-- Prepare the update of the high doubleword at a linear address, if there is to be one. -/
def prepareUpdate (wanted : Bool) (lin : Dword) : Op (Option Ref) := do
  if wanted then
    let r ← probe lin 4 true false
    return some r
  else return none

/-- Make a prepared update, if there is one. -/
def makeUpdate (orBits andBits : Dword) : Option Ref → Op Unit
  | none => return ()
  | some r => updateRef r orBits andBits

/-- A segment register that holds a selector whose descriptor is not loaded yet. -/
def SegReg.unusable (r : SegReg) (sel : BitVec 16) : SegReg := r.loadNull sel

/-- The registers phase B gives the new task (R794). -/
def State.enterTask (s : State) (tsel : BitVec 16) (d : Desc) (reason : TaskReason) (i : TaskImage) : State :=
  let is32 := bit d.hi 11
  let loadCr3 := is32 && s.pg
  let fl := normFlags i.eflags
  let fl := if reason.nests then fl ||| 0x4000 else if reason = .jump then fl &&& ~~~ 0x4000 else fl
  let vm := bit fl 17
  { s with
    tr := d.toBusyReg tsel
    cr0 := s.cr0 ||| 8
    cr3 := if loadCr3 then i.cr3 &&& 0xFFFFF000 else s.cr3
    tlb := if loadCr3 then s.tlb.flush else s.tlb
    eip := i.eip
    nextEip := i.eip
    eflags := fl
    regs := i.regs
    ldtr := s.ldtr.unusable i.ldt
    segs := { es := s.segs.es.unusable i.es, cs := s.segs.cs.unusable i.cs, ss := s.segs.ss.unusable i.ss,
              ds := s.segs.ds.unusable i.ds, fs := s.segs.fs.unusable i.fs, gs := s.segs.gs.unusable i.gs }
    cpl := if vm then 3 else rpl i.cs
    dregs := { s.dregs with dr7 := s.dregs.dr7 &&& ~~~ 0x155 }
    inhibit := .none
    stale := []
    queue := []
    flushed := []
    again := none }

/-- Phase C's load of LDTR (R794 checks 5 and 6). -/
def taskLoadLdtr (sel : BitVec 16) (ex : BitVec 16) : Op Unit := do
  if isNull sel then return ()
  else if selTI sel then raiseTS (selCode sel + ex)
  else
    let d ← descOr sel (raiseTS (selCode sel + ex))
    if !d.isLdt || !d.p then raiseTS (selCode sel + ex)
    else modify fun s => { s with ldtr := d.toReg sel }

/-- Phase C's load of CS (R794 checks 7 to 9). -/
def taskLoadCs (sel : BitVec 16) (ex : BitVec 16) : Op Unit := do
  if isNull sel then raiseTS (selCode sel + ex)
  else
    let d ← descOr sel (raiseTS (selCode sel + ex))
    if !d.isCode then raiseTS (selCode sel + ex)
    else if !d.isConforming && d.dpl != rpl sel then raiseTS (selCode sel + ex)
    else if d.isConforming && decide ((rpl sel).toNat < d.dpl.toNat) then raiseTS (selCode sel + ex)
    else if !d.p then raiseNP (selCode sel + ex)
    else
      setAccessed d
      modify fun s => s.setSeg .cs (d.toReg sel)

/-- Phase C's load of SS (R794 checks 10 to 13). -/
def taskLoadSs (sel : BitVec 16) (ex : BitVec 16) : Op Unit := do
  let s ← get
  if isNull sel then raiseTS (selCode sel + ex)
  else
    let d ← descOr sel (raiseTS (selCode sel + ex))
    if !d.isWritable then raiseTS (selCode sel + ex)
    else if d.dpl ≠ s.cpl ∨ rpl sel ≠ s.cpl then raiseTS (selCode sel + ex)
    else if !d.p then raiseSS (selCode sel + ex)
    else
      setAccessed d
      modify fun s => s.setSeg .ss (d.toReg sel)

/-- Phase C's load of DS, ES, FS or GS (R794 checks 14 to 17). -/
def taskLoadData (k : Sreg) (sel : BitVec 16) (ex : BitVec 16) : Op Unit := do
  let s ← get
  if isNull sel then return ()
  else
    let d ← descOr sel (raiseTS (selCode sel + ex))
    if !d.isReadable then raiseTS (selCode sel + ex)
    else if !d.isConforming && decide (d.dpl.toNat < (maxLevel s.cpl (rpl sel)).toNat) then
      raiseTS (selCode sel + ex)
    else if !d.p then raiseNP (selCode sel + ex)
    else
      setAccessed d
      modify fun s => s.setSeg k (d.toReg sel)

/-- Every segment register as virtual-8086 mode loads it (R153). -/
def State.loadAllV86 (s : State) (es cs ss ds fs gs : BitVec 16) : State :=
  { s with segs := { es := .ofV86 es, cs := .ofV86 cs, ss := .ofV86 ss, ds := .ofV86 ds, fs := .ofV86 fs,
                     gs := .ofV86 gs } }

/-- Phase C: the tests in the context of the new task, each register loaded behind its tests (R794, R796). -/
def taskPhaseC (tsel : BitVec 16) (i : TaskImage) (ex : BitVec 16) : Op Unit := do
  taskLoadLdtr i.ldt ex
  let s ← get
  if s.vm then modify fun s => s.loadAllV86 i.es i.cs i.ss i.ds i.fs i.gs
  else
    taskLoadCs i.cs ex
    taskLoadSs i.ss ex
    taskLoadData .ds i.ds ex
    taskLoadData .es i.es ex
    taskLoadData .fs i.fs ex
    taskLoadData .gs i.gs ex
  let s ← get
  if s.segs.cs.limit.toNat < s.eip.toNat then raiseTS (selCode tsel + ex)

/-- The smallest limit a TSS may have: 67h, or 2Bh for one of 16 bits (R780, R782). -/
def tssMin (is32 : Bool) : Nat := if is32 then 0x67 else 0x2B

/-- The task switch to the TSS whose descriptor d the selector tsel names; fl is the EFLAGS image to save (R790 to
R797). The outgoing TSS must pass its limit test: before any LTR it does not (70_reset_and_hazards.md R884, D77). DESIGN
CHOICE, unsafe (assumption log 44): that test comes right before the probe of the pages, and the probe goes through the
outgoing TSS, the fields read of the incoming one, its back-link, and the descriptors written, in this order, which R794
leaves open. -/
def taskSwitch (tsel : BitVec 16) (d : Desc) (reason : TaskReason) (savedEip fl : Dword) (ex : BitVec 16) :
    Op Unit := do
  let is32 := bit d.hi 11
  -- Phase A
  if !d.p then raiseNP (selCode tsel + ex)
  if reason ≠ .iret ∧ d.isTssBusy then raiseGP (selCode tsel + ex)
  if reason = .iret ∧ !d.isTssBusy then raiseTS (selCode tsel)
  if d.limit.toNat < tssMin is32 then raiseTS (selCode tsel + ex)
  let s ← get
  if s.tr.limit.toNat < tssMin s.tr.isTss32 then raiseTS (selCode s.tr.sel + ex)
  let fl := if reason = .iret then fl &&& ~~~ 0x4000 else fl
  let saves ← prepareSaves s.tr.base (tssSave s savedEip fl)
  let reads ← prepareReads d.base (tssFields is32)
  let link ← if reason.nests then prepareSaves d.base [(0, 2, s.tr.sel.toNat)] else pure []
  let oldBusy ← prepareUpdate (reason = .jump || reason = .iret)
    (s.gdtr.base + BitVec.ofNat 32 (selOffset s.tr.sel + 4))
  let newBusy ← prepareUpdate (reason != .iret) (d.lin + 4)
  -- Phase B
  makeUpdate 0 0xFFFFFDFF oldBusy
  sysWriteAll saves
  let l ← readAll reads
  let k ← freshMany (if is32 then 0 else 8)
  let i := TaskImage.ofReads is32 k l
  sysWriteAll link
  makeUpdate 0x200 0xFFFFFFFF newBusy
  modify fun s => s.enterTask tsel d reason i
  -- Phases C and D
  committed (taskPhaseC tsel i ex)
  if i.t then modify fun s => { s with pend := { s.pend with bt := true } }

end Sys2Proof.Machine
end

