-- ==== Sys2Proof/Machine/Ops.lean ====
section
/-!
DEFINITION. Machine/Ops.lean: taking an exception or interrupt and returning from one (60_exceptions.md R699 to R707;
61_protection_tasks.md R772 to R777), and running an instruction's meaning to one of the three outcomes.
-/
namespace Sys2Proof.Machine

/-! ## Taking an interrupt or exception -/

/-- The three kinds of delivery (R670). -/
inductive EventKind where
  | external | exception | software
deriving DecidableEq, Repr

/-- An event to deliver: vector, kind, the EIP to save, the error code, and whether the saved EFLAGS image gets RF = 1
(R700, R707). -/
structure Event where
  vector : Byte
  kind : EventKind
  ret : Dword
  code : Option (BitVec 16)
  setRf : Bool
deriving DecidableEq, Repr

/-- The EX bit of error codes raised while this event is delivered (R695, D65). -/
def Event.ex (e : Event) : BitVec 16 := if e.kind = .software then 0 else 1

/-- The EFLAGS image that is saved (R707). -/
def Event.image (e : Event) (s : State) : Dword := if e.setRf then s.eflags ||| 0x10000 else s.eflags

/-- EFLAGS in the handler: TF, RF and VM cleared, IF cleared by an interrupt gate (R707). -/
def handlerFlags (fl : Dword) (clearIf : Bool) : Dword :=
  if clearIf then fl &&& ~~~ 0x30300 else fl &&& ~~~ 0x30100

/-- The error code that names an IDT entry (R695). -/
def idtCode (v : Byte) (ex : BitVec 16) : BitVec 16 := (v.setWidth 16 <<< 3) + 2 + ex

/-- Real-mode delivery through the interrupt vector table (R701). A vector beyond the table raises the double fault
that ends in shutdown. -/
def realDeliver (e : Event) : Op Unit := do
  let s ← get
  let v := e.vector.toNat
  if s.idtr.limit.toNat < 4 * v + 3 then raise 8 (some 0)
  else
    let entry ← linRead (s.idtr.base + BitVec.ofNat 32 (4 * v)) 4
    let entry := BitVec.ofNat 32 entry
    pushItems [(2, s.eflags.toNat % 65536), (2, s.segs.cs.sel.toNat), (2, e.ret.toNat % 65536)]
    modify fun s => { s with eflags := handlerFlags s.eflags true }
    commitReal (entry.extractLsb' 16 16) ((entry.extractLsb' 0 16).setWidth 32)

/-- The items of a handler's frame from the saved flags down (R702). -/
def frameItems (e : Event) (s : State) (n : Nat) : Op (List (Nat × Nat)) := do
  let cs ← selItem n s.segs.cs.sel
  let code := match e.code with
    | some c => [(n, c.toNat)]
    | none => []
  return [item n (e.image s), cs, item n e.ret] ++ code

/-- Delivery to the same level (R702). DESIGN CHOICE, unsafe (assumption log 45): the pages of the frame are tested with
its limits, item by item, before the gate's offset. -/
def sameLevelDeliver (e : Event) (sel : BitVec 16) (d : Desc) (n : Nat) (off : Dword) (clearIf : Bool) :
    Op Unit := do
  let s ← get
  let items ← frameItems e s n
  let (l, sp) ← preparePushes s.segs.ss e.ex s.user s.sp items
  if d.limit.toNat < off.toNat then raiseGP e.ex
  setAccessed d
  writeAll l
  modify fun s => s.setSp sp
  modify fun t => t.enterCS sel d s.cpl off
  modify fun s => { s with eflags := handlerFlags s.eflags clearIf }

/-- The data-segment registers hold null selectors after virtual-8086 mode is left (R704). -/
def State.nullData (s : State) : State :=
  { s with segs := { s.segs with ds := s.segs.ds.loadNull 0, es := s.segs.es.loadNull 0, fs := s.segs.fs.loadNull 0,
                                 gs := s.segs.gs.loadNull 0 } }

/-- Delivery to a more privileged level, on the stack the TSS names; from virtual-8086 mode the frame also holds the
four data-segment selectors (R703, R704). DESIGN CHOICE, unsafe (assumption log 45): the pages of the frame are tested
with its limits, item by item, before the gate's offset, and the code of a page fault there reports the CPL before the
delivery. -/
def innerDeliver (e : Event) (sel : BitVec 16) (d : Desc) (n : Nat) (off : Dword) (clearIf v86 : Bool) :
    Op Unit := do
  let s ← get
  let level := d.dpl
  let (ssel, sp) ← innerStack level e.ex
  let ds ← checkInner level ssel e.ex
  let gs ← selItem n s.segs.gs.sel
  let fs ← selItem n s.segs.fs.sel
  let dss ← selItem n s.segs.ds.sel
  let es ← selItem n s.segs.es.sel
  let ss ← selItem n s.segs.ss.sel
  let rest ← frameItems e s n
  let items := (if v86 then [gs, fs, dss, es] else []) ++ [ss, item n s.regs.esp] ++ rest
  let ssReg := ds.toReg ssel
  let (l, spEnd) ← preparePushes ssReg (selCode ssel + e.ex) false sp items
  if d.limit.toNat < off.toNat then raiseGP e.ex
  setAccessed ds
  setAccessed d
  writeAll l
  modify fun s => { s.setSeg .ss ssReg with regs := { s.regs with esp := sp } }
  modify fun s => s.setSp spEnd
  modify fun s => s.enterCS sel d level off
  modify fun s => { s with eflags := handlerFlags s.eflags clearIf }
  if v86 then modify State.nullData

/-- Delivery through an interrupt or trap gate (R702 to R704). -/
def gateDeliver (e : Event) (g : Desc) : Op Unit := do
  let s ← get
  let n := if bit g.hi 11 then 4 else 2
  let sel := g.lo.extractLsb' 16 16
  let off : Dword := (if bit g.hi 11 then g.hi.extractLsb' 16 16 else 0#16) ++ g.lo.extractLsb' 0 16
  let clearIf := !bit g.hi 8
  if isNull sel then raiseGP e.ex
  else
    let d ← descOr sel (raiseGP (selCode sel + e.ex))
    if !d.isCode then raiseGP (selCode sel + e.ex)
    else if s.cpl.toNat < d.dpl.toNat then raiseGP (selCode sel + e.ex)
    else if !d.p then raiseNP (selCode sel + e.ex)
    else if s.vm then
      if d.dpl ≠ 0 ∨ d.isConforming ∨ n = 2 then raiseGP (selCode sel + e.ex)
      else innerDeliver e sel d n off clearIf true
    else if !d.isConforming && decide (d.dpl.toNat < s.cpl.toNat) then innerDeliver e sel d n off clearIf false
    else sameLevelDeliver e sel d n off clearIf

/-- Delivery through a task gate: the task switch, then the error code on the new task's stack (R705). DESIGN CHOICE,
unsafe (assumption log 47): when that push faults behind a completed switch to a task with its T bit set, the pending
task-switch trap stays on record and is reported at the first boundary of the fault's handler. -/
def taskGateDeliver (e : Event) (g : Desc) : Op Unit := do
  let s ← get
  let tsel := g.lo.extractLsb' 16 16
  if selTI tsel || isNull tsel then raiseGP (selCode tsel + e.ex)
  else
    let d ← descOr tsel (raiseGP (selCode tsel + e.ex))
    if !d.isTss then raiseGP (selCode tsel + e.ex)
    else
      taskSwitch tsel d .interrupt e.ret (e.image s) e.ex
      match e.code with
      | none => pure ()
      | some c => committed do
        let s ← get
        let (l, sp) ← preparePushes s.segs.ss e.ex s.user s.sp [(if bit d.hi 11 then 4 else 2, c.toNat)]
        writeAll l
        modify fun s => s.setSp sp

/-- The single entry to a handler (R700). Answers whether a task was switched. -/
def interrupt (e : Event) : Op Bool := do
  let s ← get
  let v := e.vector.toNat
  if !s.pe then
    realDeliver e
    return false
  else if s.idtr.limit.toNat < 8 * v + 7 then raiseGP (idtCode e.vector e.ex)
  else
    let g ← descRead (s.idtr.base + BitVec.ofNat 32 (8 * v))
    if g.type ≠ 5 ∧ g.type ≠ 6 ∧ g.type ≠ 7 ∧ g.type ≠ 14 ∧ g.type ≠ 15 then raiseGP (idtCode e.vector e.ex)
    else if e.kind = .software ∧ g.dpl.toNat < s.cpl.toNat then raiseGP (idtCode e.vector 0)
    else if !g.p then raiseNP (idtCode e.vector e.ex)
    else if g.type = 5 then
      taskGateDeliver e g
      return true
    else
      gateDeliver e g
      return false

/-! ## Faults of a delivery -/

/-- The state a fault restores: that before the instruction, but for what a fault leaves done: bits set in descriptors
and page tables, the TLB, the caches, CR2, the debug registers, the output (R672, R835). -/
def State.rollback (s s' : State) : State :=
  { s with mem := s'.mem, tlb := s'.tlb, icache := s'.icache, cr2 := s'.cr2, dregs := s'.dregs, free := s'.free,
           out := s'.out }

/-- The contributory exceptions (R699, D63). -/
def contributory (v : Byte) : Bool := v == 10#8 || v == 11#8 || v == 12#8 || v == 13#8

/-- Shutdown: nothing executes, the shutdown cycle is signalled, EIP is the failed event's; no shadow is left that could
hold off the interrupt that ends it (R699, R726, D67). -/
def State.shutDown (s : State) (ret : Dword) : State :=
  { s.emptied with eip := ret, nextEip := ret, run := .shutdown, inhibit := .none, out := .haltCycle 2 :: s.out }

/-- The event that follows when the delivery of a first event raises a second exception; none is shutdown (R699). -/
def deliveryFault (first : Event) (second : Exn) : Option Event :=
  let double := second.vector == 8#8 || (first.kind = .exception &&
    (first.vector == 14#8 || (contributory first.vector && contributory second.vector)))
  if first.kind = .exception ∧ first.vector = 8 then none
  else if double then
    some { vector := 8, kind := .exception, ret := first.ret, code := some 0, setRf := false }
  else some { vector := second.vector, kind := .exception, ret := first.ret, code := second.code, setRf := true }

/-- An event delivered: EIP is the handler's first instruction. -/
def State.entered (s : State) : State := { s with eip := s.nextEip }

/-- A double fault. -/
def Event.isDouble (e : Event) : Bool := e.kind == .exception && e.vector == 8#8

/-- Deliver an event, and what its delivery raises, down to shutdown; a double fault in real mode is shutdown at once
(R699, R700). The number bounds the chain, whose
longest is an interrupt, a contributory fault, a page fault, a double fault, shutdown. What the event's own completed
delivery changes beside (the NMI latch, R722) is the function taken. DESIGN CHOICE, unsafe (assumption log 49): what a
task-gate delivery raises behind its commit saves the new task's EIP (R794), and so does the double fault it leads to,
where D67 says the first exception's. -/
def deliverFrom : Nat → (State → State) → Event → State → Host.Outcome State Fault Refusal
  | 0, _, e, s => .next (s.shutDown e.ret)
  | k + 1, taken, e, s =>
    if e.isDouble && !s.pe then .next (s.shutDown e.ret)
    else match interrupt e s with
    | .ok _ s' => .next (taken s').entered
    | .error (.exc x) s' =>
      match deliveryFault e x with
      | none => .next ((s.rollback s').shutDown e.ret)
      | some e' => deliverFrom k id e' (s.rollback s')
    | .error (.late x) s' =>
      let e := { e with ret := s'.eip }
      match deliveryFault e x with
      | none => .next (s'.shutDown e.ret)
      | some e' => deliverFrom k id e' s'
    | .error (.fault f) _ => .fault f
    | .error (.refuse r) _ => .refused r

/-- TAKING AN EXCEPTION OR INTERRUPT: deliver an event from a state (R700). -/
def deliver (e : Event) (s : State) : Host.Outcome State Fault Refusal := deliverFrom 5 id e s

/-- The event of a fault that an instruction raises: its saved EIP is the instruction's, its image has RF = 1
(R672, R707). -/
def faultEvent (x : Exn) (eip : Dword) : Event :=
  { vector := x.vector, kind := .exception, ret := eip, code := x.code, setRf := true }

/-- How an instruction's operation ends. -/
inductive End where
  /-- The instruction is complete. -/
  | done
  /-- It is complete and has loaded RF: a task switch, a 32-bit IRET. -/
  | loaded
  /-- One element of a repeated string instruction is complete and the instruction goes on (46_string.md R510, R512). -/
  | again
  /-- WAIT still waits (49_system_misc.md R656). -/
  | waits
deriving DecidableEq, Repr

/-- The end of an operation that may have switched tasks. -/
def endOf (switched : Bool) : End := if switched then .loaded else .done

/-- A software interrupt inside an instruction: INT n, INT 3, INTO (R700; 47_control_transfer.md R540 to R542). Its
faults are the instruction's. -/
def softInt (vector : Byte) : Op End := do
  let s ← get
  let switched ← interrupt { vector := vector, kind := .software, ret := s.nextEip, code := none, setRf := false }
  return endOf switched

/-! ## Running a meaning -/

/-- A completed instruction: EIP moves to the next instruction; RF is cleared unless the instruction loaded it; a
single-step trap becomes pending when TF was set at its start and is set at its end (10_state.md R35;
62_debug_superstate.md R840, R843); none is in progress. SCALL that enters SuperState V is completed like any other,
so that its single step is recorded although the run state is SUPERSTATE by then (R846, R853): DESIGN CHOICE, unsafe
(assumption log 57). -/
def State.complete (s : State) (keepRf tfAtStart : Bool) : State :=
  { s with
    eip := s.nextEip
    eflags := if keepRf then s.eflags else s.eflags &&& ~~~ 0x10000
    pend := { s.pend with bs := s.pend.bs || (tfAtStart && bit s.eflags 8) }
    again := none }

/-- What an operation's end makes of the instruction. One that goes on is the next step's instruction again, in the
shadow it began in, and RF stays; a repeated string instruction records a single step behind each element (46_string.md
R512), a WAIT that waits none (R840: at the completion). The points the spec leaves open here: assumption log 40. -/
def State.ended (s : State) (tfAtStart : Bool) : End → State
  | .done => s.complete false tfAtStart
  | .loaded => s.complete true tfAtStart
  | .again => { s.complete true tfAtStart with inhibit := s.held, again := s.again }
  | .waits => { s.complete true false with inhibit := s.held }

/-- The LOCK prefix is legal only on forms that write memory; else #UD (30_encoding.md R258). -/
def checkLock (lockable : Bool) : Op Unit := do
  let s ← get
  if s.pfx.lock && !lockable then raiseUD

/-- The state from which an instruction's fault is delivered: everything restored (60_exceptions.md R731(e)), but that
where R672(d) is followed a divide error leaves the status flags its instruction declares undefined at any value
(assumption log 53). -/
def State.undone (s s' : State) (x : Exn) : State :=
  if x.vector = 0 ∧ s.cfg.divideErrorKeepsFlags = false then (s.rollback s').setStatus s'.status else s.rollback s'

/-- What becomes of an operation's end: the next state, the delivery of the exception it raised, a fault or a
refusal. The breakpoint hits an instruction made before a task switch's commit stay on record when a fault follows the
commit: DESIGN CHOICE, unsafe (assumption log 50). -/
def finish (s : State) : EStateM.Result Stop State End → Host.Outcome State Fault Refusal
  | .ok e s' => .next (s'.ended (bit s.eflags 8) e)
  | .error (.exc x) s' => deliver (faultEvent x s.eip) (s.undone s' x)
  | .error (.late x) s' => deliver (faultEvent x s'.eip) s'
  | .error (.fault f) _ => .fault f
  | .error (.refuse r) _ => .refused r

/-- Run a meaning whose operation says how it ends. -/
def runEnd (lockable : Bool) (x : Op End) (s : State) : Host.Outcome State Fault Refusal :=
  finish s ((do checkLock lockable; x) s)

/-- Run a meaning. -/
def run (lockable : Bool) (x : Op Unit) (s : State) : Host.Outcome State Fault Refusal :=
  runEnd lockable (do x; return .done) s

/-! ## Returning -/

/-- The checks of a return to a code selector, at or outside the current level (R772 ReturnTarget). -/
def returnTarget (sel : BitVec 16) : Op Desc := do
  let s ← get
  if isNull sel then raiseGP 0
  else if (rpl sel).toNat < s.cpl.toNat then raiseGP (selCode sel)
  else
    let d ← descOr sel (raiseGP (selCode sel))
    if !d.isCode then raiseGP (selCode sel)
    else if !d.isConforming && d.dpl != rpl sel then raiseGP (selCode sel)
    else if d.isConforming && decide ((rpl sel).toNat < d.dpl.toNat) then raiseGP (selCode sel)
    else if !d.p then raiseNP (selCode sel)
    else return d

/-- A data-segment register an outer level may not keep is nulled (R774, D76). -/
def SegReg.forOuter (r : SegReg) (level : BitVec 2) : SegReg :=
  if !r.null && !(r.attr.e && r.attr.c) && decide (r.attr.dpl.toNat < level.toNat) then r.loadNull 0 else r

/-- R774 for DS, ES, FS and GS. -/
def State.invalidateOuter (s : State) (level : BitVec 2) : State :=
  { s with segs := { s.segs with ds := s.segs.ds.forOuter level, es := s.segs.es.forOuter level,
                                 fs := s.segs.fs.forOuter level, gs := s.segs.gs.forOuter level } }

/-- ESP after a return to an outer level: k more bytes are released. On a 16-bit stack SP only is loaded, from the word
or the doubleword popped, and ESP[31:16] stays (R773; 21_segmentation.md R166); on a 32-bit stack a popped word leaves
ESP[31:16] 0 (D76). -/
def outerEsp (old : Dword) (big : Bool) (n : Nat) (nsp : Dword) (k : Dword) : Dword :=
  if big then (if n = 4 then nsp + k else (nsp + k) &&& 0xFFFF)
  else (old &&& 0xFFFF0000) ||| ((nsp + k) &&& 0xFFFF)

/-- A far return to an outer level: the stack switch (R773). base is how far above the stack pointer the outer stack
pointer lies. -/
def returnOuter (sel : BitVec 16) (d : Desc) (ip : Dword) (n base : Nat) (k : Dword) : Op Unit := do
  let s ← get
  let level := rpl sel
  let l ← stackReads s.sp n [base, base + n]
  let nsp := l.getD 0 0
  let nss := BitVec.ofNat 16 (l.getD 1 0)
  if isNull nss then raiseGP 0
  else
    let ds ← checkOuter level nss
    if d.limit.toNat < ip.toNat then raiseGP 0
    else
      commitCS sel d level ip
      setAccessed ds
      modify fun s =>
        { s.setSeg .ss (ds.toReg nss) with
          regs := { s.regs with esp := outerEsp s.regs.esp ds.attr.db n (BitVec.ofNat 32 nsp) k } }
      modify fun s => s.invalidateOuter level
where
  /-- The tests of the outer SS, in the order of R773. -/
  checkOuter (level : BitVec 2) (nss : BitVec 16) : Op Desc := do
    if rpl nss ≠ level then raiseGP (selCode nss)
    else
      let ds ← descOr nss (raiseGP (selCode nss))
      if !ds.isWritable then raiseGP (selCode nss)
      else if ds.dpl ≠ level then raiseGP (selCode nss)
      else if !ds.p then raiseSS (selCode nss)
      else return ds

/-! ## SuperState V -/

/-- The physical address of the SuperState V descriptor (62_debug_superstate.md R852, conflict C64). -/
def Ssv.descAddr (v : Ssv) : Dword := if v.secondary then 0x000EFFC0 else 0x000FFFC0

/-- Entering SuperState V as far as the spec defines it: read the descriptor, save EIP, EFLAGS, EDX, EBX and CS, load
EDX and EBX for the cause, leave user mode, at CPL 0 (R853, R855 steps 1 to 3 and 5, R866; 61_protection_tasks.md R750).
The number of descriptor bytes read, 8, and the place of the saved items are the model's, and so is that the descriptor
is read from the ordinary physical memory and not from SuperSpace, which R852 leaves open: DESIGN CHOICE, unsafe
(assumption log 14). The record of debug traps stays, which R846 and R853 leave open: DESIGN CHOICE, unsafe (assumption
log 57). -/
def State.enterSsv (s : State) (ret edx ebx : Dword) : State :=
  { s.bus s.ssv.descAddr 8 with
    ssv := { s.ssv with
      desc := s.phys32 (s.ssv.descAddr + 4) ++ s.phys32 s.ssv.descAddr
      save := { eip := ret, eflags := s.eflags, edx := s.regs.edx, ebx := s.regs.ebx, cs := s.segs.cs } }
    regs := { s.regs with edx := edx, ebx := ebx }
    cpl := 0
    run := .superstate
    stale := []
    queue := []
    flushed := []
    again := none }

end Sys2Proof.Machine
end

