-- ==== Sys2Proof/Machine/Operands.lean ====
section
/-!
DEFINITION. Machine/Operands.lean: reading and writing operands: registers of every width, effective addresses, r/m
operands, immediates (10_state.md R31, R32; 30_encoding.md R262 to R280).
-/
namespace Sys2Proof.Machine

/-! ## Registers -/

/-- A general register, 32 bits (R31). -/
def Regs.get (g : Regs) : Reg → Dword
  | .eax => g.eax | .ecx => g.ecx | .edx => g.edx | .ebx => g.ebx
  | .esp => g.esp | .ebp => g.ebp | .esi => g.esi | .edi => g.edi

/-- Replace a general register. -/
def Regs.set (g : Regs) (r : Reg) (v : Dword) : Regs :=
  match r with
  | .eax => { g with eax := v } | .ecx => { g with ecx := v } | .edx => { g with edx := v }
  | .ebx => { g with ebx := v } | .esp => { g with esp := v } | .ebp => { g with ebp := v }
  | .esi => { g with esi := v } | .edi => { g with edi := v }

end Sys2Proof.Machine
namespace Sys2Proof
open Sys2Proof.Machine

/-- The register that holds byte register number r: numbers 4 to 7 are AH, CH, DH, BH (R32). -/
def Reg.byteHome : Reg → Reg
  | .eax => .eax | .ecx => .ecx | .edx => .edx | .ebx => .ebx
  | .esp => .eax | .ebp => .ecx | .esi => .edx | .edi => .ebx

/-- The byte register is bits 15:8 of its home (R32). -/
def Reg.byteHigh : Reg → Bool
  | .eax => false | .ecx => false | .edx => false | .ebx => false
  | .esp => true | .ebp => true | .esi => true | .edi => true

end Sys2Proof
namespace Sys2Proof.Machine

/-- The register as an operand of a width: GPR(w, n) (R31, R32). -/
def Regs.read (g : Regs) (k : Width) (r : Reg) : Val k :=
  match k with
  | .b => (g.get r.byteHome).extractLsb' (if r.byteHigh then 8 else 0) 8
  | .w => (g.get r).extractLsb' 0 16
  | .d => g.get r

/-- Write a register operand of a width; the other bits stay (R31). -/
def Regs.write (g : Regs) (k : Width) (r : Reg) (v : Val k) : Regs :=
  match k, v with
  | .b, v =>
    let old := g.get r.byteHome
    g.set r.byteHome (if r.byteHigh then old.extractLsb' 16 16 ++ (v : BitVec 8) ++ old.extractLsb' 0 8
                      else old.extractLsb' 8 24 ++ (v : BitVec 8))
  | .w, v => g.set r ((g.get r).extractLsb' 16 16 ++ (v : BitVec 16))
  | .d, v => g.set r v

/-- A register operand of the machine. -/
def State.reg (s : State) (k : Width) (r : Reg) : Val k := s.regs.read k r

/-- Write a register operand of the machine. -/
def State.setReg (s : State) (k : Width) (r : Reg) (v : Val k) : State := { s with regs := s.regs.write k r v }

/-- Read a register. -/
def getReg (k : Width) (r : Reg) : Op (Val k) := do
  let s ← get
  return s.reg k r

/-- Write a register. -/
def setReg (k : Width) (r : Reg) (v : Val k) : Op Unit := modify fun s => s.setReg k r v

/-! ## Sizes -/

/-- The operand-size attribute: the D bit of CS, toggled by prefix 66 (R262). -/
def State.os32 (s : State) : Bool := s.segs.cs.attr.db != s.pfx.opsize

/-- The address-size attribute: the D bit of CS, toggled by prefix 67 (R263). -/
def State.as32 (s : State) : Bool := s.segs.cs.attr.db != s.pfx.adrsize

/-- OS as a width (R262). -/
def State.ow (s : State) : Width := .ofSize s.os32

/-- The width of a `{8}` or `{16, 32}` form (R262). -/
def State.width (s : State) (wide : Bool) : Width := if wide then s.ow else .b

/-- AS as a width (R263). -/
def State.aw (s : State) : Width := .ofSize s.as32

/-! ## Immediates -/

end Sys2Proof.Machine
namespace Sys2Proof
open Sys2Proof.Machine

/-- An immediate as an operand of a width; its size is that width's in a well-formed instruction (R280). -/
def Imm.val (i : Imm) (k : Width) : Val k :=
  match i with
  | .w v => v.setWidth k.bits
  | .d v => v.setWidth k.bits

/-- A displacement or offset, zero-extended (R276). -/
def Imm.zext : Imm → Dword
  | .w v => v.setWidth 32
  | .d v => v

/-- A displacement, sign-extended (R279). -/
def Imm.sext : Imm → Dword
  | .w v => v.signExtend 32
  | .d v => v

end Sys2Proof
namespace Sys2Proof.Machine

/-- A sign-extended byte immediate (R280). -/
def sextByte (i : BitVec 8) (k : Width) : Val k := i.signExtend k.bits

/-! ## Effective addresses -/

end Sys2Proof.Machine
namespace Sys2Proof
open Sys2Proof.Machine

/-- The displacement of a 16-bit address, sign-extended to 16 bits (R271). -/
def Disp16.val : Disp16 → BitVec 16
  | .none => 0
  | .d8 v => v.signExtend 16
  | .d16 v => v

/-- The displacement of a 32-bit address, sign-extended to 32 bits (R272). -/
def Disp32.val : Disp32 → Dword
  | .none => 0
  | .d8 v => v.signExtend 32
  | .d32 v => v

/-- The sum of base and index registers of a 16-bit address (R271). -/
def Base16.val (b : Base16) (g : Regs) : BitVec 16 :=
  match b with
  | .bxsi => g.read .w .ebx + g.read .w .esi
  | .bxdi => g.read .w .ebx + g.read .w .edi
  | .bpsi => g.read .w .ebp + g.read .w .esi
  | .bpdi => g.read .w .ebp + g.read .w .edi
  | .si => g.read .w .esi
  | .di => g.read .w .edi
  | .bp => g.read .w .ebp
  | .bx => g.read .w .ebx

end Sys2Proof
namespace Sys2Proof.Machine

/-- The scaled index of a SIB byte; index 100 is none, whatever the scale (R273, D30). -/
def indexVal (scale : BitVec 2) (i : Reg) (g : Regs) : Dword :=
  if i = .esp then 0 else g.get i <<< scale.toNat

end Sys2Proof.Machine
namespace Sys2Proof
open Sys2Proof.Machine

/-- The effective address, modulo the address size (R270 to R273). -/
def MemOp.ea (m : MemOp) (g : Regs) : Dword :=
  match m with
  | .abs16 d => d.setWidth 32
  | .base16 b d => (b.val g + d.val).setWidth 32
  | .abs32 d => d
  | .base32 b d => g.get b + d.val
  | .sib sc i b d => g.get b + indexVal sc i g + d.val
  | .sibAbs sc i d => indexVal sc i g + d

/-- The address is computed with AS = 32 (R263). -/
def MemOp.is32 : MemOp → Bool
  | .abs16 _ => false
  | .base16 _ _ => false
  | .abs32 _ => true
  | .base32 _ _ => true
  | .sib _ _ _ _ => true
  | .sibAbs _ _ _ => true

/-- The default segment: SS when BP, EBP or ESP is the base, else DS (R271 to R273, R278). -/
def MemOp.defaultSeg : MemOp → Sreg
  | .base16 .bpsi _ => .ss
  | .base16 .bpdi _ => .ss
  | .base16 .bp _ => .ss
  | .base32 .ebp _ => .ss
  | .base32 .esp _ => .ss
  | .sib _ _ .esp _ => .ss
  | .sib _ _ .ebp _ => .ss
  | _ => .ds

end Sys2Proof
namespace Sys2Proof.Machine

/-- The segment of an overridable memory reference (R254, R278). -/
def State.segFor (s : State) (dflt : Sreg) : Sreg := s.pfx.seg.getD dflt

/-- An offset moved by a constant, modulo the address size: a bit string's unit, the selector of a far JMP's or CALL's
pointer, BOUND's upper bound, XLATB (D42; 47_control_transfer.md R532, 49_system_misc.md R640, R645). -/
def eaAdd (is32 : Bool) (ea d : Dword) : Dword := if is32 then ea + d else (ea + d) &&& 0xFFFF

/-! ## Places: where an operand is -/

/-- A register or a prepared memory operand. -/
inductive Place where
  | reg (r : Reg) | mem (r : Ref)
deriving DecidableEq, Repr

/-- Find an r/m operand: for memory, make every check of an access of its width (20_memory.md R113, R114). A
read-modify-write operand is checked as a write (22_paging.md R224). -/
def locate (k : Width) (rm : RM) (write : Bool) : Op Place := do
  match rm with
  | .reg r => return .reg r
  | .mem m =>
    let s ← get
    let r ← prepare (s.segFor m.defaultSeg) (m.ea s.regs) k.bytes write
    return .mem r

/-- Read the operand at a place. -/
def readPlace (k : Width) (p : Place) : Op (Val k) := do
  match p with
  | .reg r => getReg k r
  | .mem r => do
    let v ← readRef r
    return BitVec.ofNat k.bits v

/-- Write the operand at a place. -/
def writePlace (k : Width) (p : Place) (v : Val k) : Op Unit := do
  match p with
  | .reg r => setReg k r v
  | .mem r => writeRef r v.toNat

/-- Read the two parts of an operand in memory: both are checked before either is read (22_paging.md R224). -/
def readParts (lo hi : Op Ref) : Op (Nat × Nat) := do
  let x ← lo
  let y ← hi
  let a ← readRef x
  let b ← readRef y
  return (a, b)

/-- Read an r/m operand. -/
def readRM (k : Width) (rm : RM) : Op (Val k) := do
  let p ← locate k rm false
  readPlace k p

/-- Write an r/m operand. -/
def writeRM (k : Width) (rm : RM) (v : Val k) : Op Unit := do
  let p ← locate k rm true
  writePlace k p v

/-- Read, compute, write back an r/m operand. -/
def updateRM (k : Width) (rm : RM) (f : Val k → Op (Val k)) : Op Unit := do
  let p ← locate k rm true
  let a ← readPlace k p
  let v ← f a
  writePlace k p v

/-- The memory operand of a form that insists on memory: segment, effective address and whether AS is 32; a register
is #UD (R275). -/
def memOperand (rm : RM) : Op (Sreg × Dword × Bool) := do
  match rm with
  | .reg _ => raiseUD
  | .mem m =>
    let s ← get
    return (s.segFor m.defaultSeg, m.ea s.regs, m.is32)

/-- The accumulator: AL, AX, EAX. -/
def getAcc (k : Width) : Op (Val k) := getReg k .eax

/-- Write the accumulator. -/
def setAcc (k : Width) (v : Val k) : Op Unit := setReg k .eax v

/-! ## Privilege and mode tests -/

/-- The privilege level an instruction runs at: real mode counts as level 0 (49_system_misc.md R610). -/
def State.level (s : State) : BitVec 2 := if s.pe then s.cpl else 0

/-- #GP(0) unless the level is 0 (61_protection_tasks.md R752). -/
def requireCpl0 : Op Unit := do
  let s ← get
  if s.level ≠ 0 then raiseGP 0

/-- #UD in real and virtual-8086 mode (30_encoding.md R300). -/
def requireProtected : Op Unit := do
  let s ← get
  if !s.prot then raiseUD

end Sys2Proof.Machine
end

