-- ==== Sys2Proof/Machine/Boundary.lean ====
section
/-!
DEFINITION. Machine/Boundary.lean: what happens between instructions, in the order of 60_exceptions.md R698, and the
fetch of an instruction (30_encoding.md R290; 20_memory.md R135 to R141; 21_segmentation.md R181).
-/
namespace Sys2Proof.Machine

/-! ## Fetch -/

/-- A prefix latched for the instruction it stands before: the last segment override and the last repeat prefix count,
the others are idempotent (R253, D27). -/
def Prefixes.latch (p : Prefixes) : Instr → Prefixes
  | .segEs => { p with seg := some .es }
  | .segCs => { p with seg := some .cs }
  | .segSs => { p with seg := some .ss }
  | .segDs => { p with seg := some .ds }
  | .segFs => { p with seg := some .fs }
  | .segGs => { p with seg := some .gs }
  | .opsize => { p with opsize := true }
  | .adrsize => { p with adrsize := true }
  | .lock => { p with lock := true }
  | .repne => { p with rep := some false }
  | .rep => { p with rep := some true }
  | _ => p

/-- The machine with one more prefix latched. -/
def State.latch (s : State) (i : Instr) : State := { s with pfx := s.pfx.latch i }

/-- The fetch unit keeps the page's translation (22_paging.md R231). -/
def Tlb.holdFetch (t : Tlb) (page : BitVec 20) : Tlb :=
  { t with fetch := ((t.ways page).head?).map (fun k => t.entries[tlbIndex page k]) }

/-- Translate the address of an instruction byte: as it was fetched when it stands in the queue (20_memory.md R139),
else by the fetch unit's private translation or the TLB and the tables (22_paging.md R231, R233). -/
def fetchPage (lin : Dword) : Op Dword := do
  let s ← get
  if let some c := s.queue.find? (fun c => c.1 == lin) then return c.2
  else if !s.pg then return lin
  else
    let page := lin.extractLsb' 12 20
    let n ← fresh
    let held := match s.tlb.fetch with
      | some e => if e.v && e.tag == page && pageAllows e.u e.w false s.user && Config.fetchUsesPrivate n
                  then some e.pa else none
      | none => none
    match held with
    | some pa => return pa ++ lin.extractLsb' 0 12
    | none =>
      let p ← probePage lin lin false s.user
      touch p false
      modify fun s => { s with tlb := s.tlb.holdFetch page }
      return p.pa ++ lin.extractLsb' 0 12

/-- A fetch uses the instruction cache, looking it up and filling it: the part has one, it is enabled, and KEN allows it
(20_memory.md R135). DESIGN CHOICE, unsafe (assumption log 19): with KEN inactive a line that holds the byte does not
serve the fetch either. -/
def State.caches (s : State) : Bool := s.cfg.part.hasIcache && s.icache.enabled && s.lines.ken

/-- What a code fetch of the byte at a physical address gives, and the state after it. A doubleword the cache holds
comes from there, without a bus cycle: for RAM and ROM it is what memory holds (R136), for a device what was read when
it was fetched. Another fetch reads the bus; with the cache in use it reads the aligned doubleword and puts it into the
cache (R135, R140). That it is exactly the aligned doubleword is a DESIGN CHOICE, unsafe (assumption log 19). -/
def State.codeFetch (s : State) (pa : Dword) : Byte × State :=
  if !s.caches then (s.phys pa, s.bus pa 1)
  else if s.icache.hit pa then (if s.holds pa then s.cell pa else s.icache.byte pa, s)
  else
    let word := pa &&& 0xFFFFFFFC
    (s.phys pa, { s.bus word 4 with icache := s.icache.onFetch pa (s.phys32 word) })

/-- Check and translate the instruction byte at an offset of CS: its physical address (21_segmentation.md R181). -/
def fetchAddress (off : Dword) : Op Dword := do
  let s ← get
  if (s.prot && s.segs.cs.null) || decide (s.segs.cs.limit.toNat < off.toNat) then raiseGP 0
  else fetchPage (s.segs.cs.base + off)

/-- Fetch the instruction byte at an offset of CS. When the instruction runs from old bytes, a byte the last instruction
replaced reads as it was (20_memory.md R137, U3). -/
def fetchByte (old : Bool) (off : Dword) : Op Byte := do
  let pa ← fetchAddress off
  let s ← get
  match (if old then s.stale.find? (fun c => c.1 == pa.toNat) else none) with
  | some c => return c.2
  | none =>
    set (s.codeFetch pa).2
    return (s.codeFetch pa).1

/-- Fetch and decode one item whose first byte is at an offset: bytes are fetched one by one as the decoder needs them
(R290). No item is longer than the first argument's start value. -/
def fetchItem (old : Bool) : Nat → List Byte → Dword → Op (Instr × Nat)
  | 0, _, _ => raiseGP 0
  | k + 1, bytes, off => do
    let b ← fetchByte old off
    let bytes := bytes ++ [b]
    let s ← get
    match decode ⟨s.os32, s.as32⟩ bytes with
    | some (i, _) => return (i, bytes.length)
    | none => fetchItem old k bytes (off + 1)

/-- Fetch the prefixes, latching each, and the instruction, whose first item is at an offset behind len bytes already
fetched; answers the instruction and the length with its prefixes. However many prefixes there are, what stands behind
them is fetched and decoded: a fetch fault and an undefined opcode come before the length (R251, R290, D31). The first
argument starts at more than a code segment has offsets. -/
def fetchInstr (old : Bool) : Nat → Dword → Nat → Op (Instr × Nat)
  | 0, _, _ => raiseGP 0
  | k + 1, off, len => do
    let (i, n) ← fetchItem old maxLength [] off
    if i.isPrefix then
      modify fun s => s.latch i
      fetchInstr old k (off + BitVec.ofNat 32 n) (len + n)
    else return (i, len + n)

/-- Fetch the instruction at EIP. Whether it runs from bytes its predecessor replaced, and from a queue its predecessor
emptied, is one free value (R136, R137, U3, D17). -/
def fetch : Op (Instr × Nat) := do
  let s ← get
  let old ← if s.stale.isEmpty && s.flushed.isEmpty then pure false else do
    let n ← fresh
    pure (Config.staleFetch n)
  if old then modify fun s => { s with queue := if s.flushed.isEmpty then s.queue else s.flushed }
  fetchInstr old (2 ^ 32) s.eip 0

/-! ## Fetching ahead -/

/-- Fetch ahead up to a number of bytes from an offset of CS on, silently stopping at the first that would fault: the
linear and physical address of each (20_memory.md R140). Accessed bits, the TLB and the instruction cache change as by
any fetch, and devices are read (R110, R135, R228). -/
def readAhead : Nat → Dword → State → List (Dword × Dword) × State
  | 0, _, s => ([], s)
  | k + 1, off, s =>
    match fetchAddress off s with
    | .ok pa t =>
      let r := readAhead k (off + 1) (t.codeFetch pa).2
      ((s.segs.cs.base + off, pa) :: r.1, r.2)
    | .error _ t => ([], { s with free := t.free })

/-- The bytes behind the instruction being run that have been fetched ahead, at most 16, kept with their present
translation, when paging is on (R139, R140). How many is a free value. -/
def State.keepAhead (s : State) : State :=
  if s.pg then
    let r := readAhead (Config.prefetchDepth s.free % 17) s.nextEip s.drew
    { r.2 with queue := r.1, flushed := [] }
  else s

/-- Nothing that fetching ahead or predicting translations could change: no paging, no cache to fill, no map with
devices. -/
def State.unwatched (s : State) : Bool := !s.pg && !s.caches && s.cfg.physMap.isEmpty

/-- Fetch ahead from an offset of CS on, at most 16 bytes; how many is a free value (20_memory.md R110, R140). -/
def State.fetchAhead (s : State) (off : Dword) : State :=
  (readAhead (Config.prefetchDepth s.free % 17) off s.drew).2

/-- What the processor does on its own before an instruction: it creates translations it predicts, and it fetches ahead
of EIP, both to an extent the manual leaves open, a free value (00_scope.md R24, 20_memory.md R140, 22_paging.md R228,
R231, R232). Assumption log 9. -/
def State.background (s : State) : State :=
  if s.run != .running || s.unwatched then s
  else (if s.pg then (Config.predictedPages s.free).foldl State.predict s.drew else s).fetchAhead s.eip

/-- Fetching ahead behind the instruction that is about to run: it may reach 16 bytes past any executed code (R110,
70_reset_and_hazards.md R914). -/
def State.prefetched (s : State) : State := if s.unwatched then s else s.fetchAhead s.nextEip

/-! ## Stores by other bus masters -/

/-- Another bus master's store of one byte: memory takes it, and so does the consistency mechanism, which invalidates
the cache's entry and empties the queue; the next instruction may still run from the old bytes (20_memory.md R136, R137,
92_eei_decisions.md D17). It is no access of this processor, so no device is told. -/
def State.busStore (s : State) (c : Dword × Byte) : State := { s.putByte c.1 c.2 with out := s.out }

/-- What other bus masters stored since the last boundary, in their order. That it arrives here, between two
instructions, is a DESIGN CHOICE, unsafe (assumption log 34). -/
def State.masters (s : State) : State :=
  { s.lines.stores.foldl State.busStore s with lines := { s.lines with stores := [] } }

/-! ## Debug events at a boundary -/

/-- DR6 with breakpoint bits and more bits set (62_debug_superstate.md R837). -/
def DebugRegs.report (d : DebugRegs) (hits : BitVec 4) (more : Dword) : DebugRegs :=
  { d with dr6 := d.dr6 ||| hits.setWidth 32 ||| more }

/-- The pending record raises a debug trap: a single step, a task-switch trap, or a match of an enabled breakpoint
(R837). -/
def State.trapDue (s : State) : Bool :=
  s.pend.bs || s.pend.bt || (s.pend.hits &&& maskOf s.dregs.enabled) != 0#4

/-- The debug trap reported in DR6 and the record empty; a halt ends (R837, R842). -/
def State.reportTrap (s : State) : State :=
  { s with
    dregs := s.dregs.report s.pend.hits
      ((if s.pend.bs then 0x4000 else 0) ||| (if s.pend.bt then 0x8000 else 0))
    pend := .none
    run := .running }

/-- The instruction breakpoints at the current CS:EIP, enabled or not: RW 00 and the whole address equal; LEN is
ignored (R834, D80, U8). -/
def State.codeHits (s : State) : BitVec 4 :=
  maskOf fun i => s.dregs.dr7.extractLsb' (16 + 4 * i) 2 == 0#2 && s.dregs.addr i == s.segs.cs.base + s.eip

/-- An instruction-breakpoint fault is due (R834). -/
def State.codeBreak (s : State) : Bool :=
  !bit s.eflags 16 && (s.codeHits &&& maskOf s.dregs.enabled) != 0#4

/-- A debug exception; its image keeps RF as it stands (60_exceptions.md R707). -/
def debugEvent (ret : Dword) : Event := { vector := 1, kind := .exception, ret := ret, code := none, setRf := false }

/-- An external interrupt (R721, R722). -/
def externalEvent (v : Byte) (ret : Dword) : Event :=
  { vector := v, kind := .external, ret := ret, code := none, setRf := false }

/-- What a completed NMI delivery leaves in the latches (R722). -/
def State.nmiTaken (s : State) : State :=
  { s with lines := { s.lines with nmiPending := false }, nmiMasked := true }

/-! ## The boundary -/

/-- RESET: the machine right after reset; memory, parameters, the level inputs, what other bus masters are yet to store
and the output stay, pending NMI and ANMI are gone (70_reset_and_hazards.md R880, D84). -/
def State.doReset (s : State) : State :=
  State.atReset s.cfg s.mem { s.lines with nmiPending := false, anmiPending := false } s.free s.out

/-- FLUSH* invalidates the instruction cache (10_state.md R74, 20_memory.md R138). -/
def State.sampleFlush (s : State) : State := if s.lines.flush then { s with icache := s.icache.flush } else s

/-- A pending record that raises no trap is dropped at the boundary, unless the boundary is in the shadow of a load of
SS (R837, 60_exceptions.md R727). A record that is still held when the machine shuts down stays and is reported behind
the interrupt that ends the shutdown: DESIGN CHOICE, unsafe (assumption log 50). -/
def State.settle (s : State) : State :=
  if s.inhibit = .ss then s else if s.trapDue then s else { s with pend := .none }

/-- The event due at this boundary, if any: debug trap, instruction breakpoint, ANMI, NMI, INTR, in this order
(R698 classes 1 to 5, R727, R728). Shutdown ends only with RESET, NMI or INTR (R726; 62_debug_superstate.md R870,
R873). -/
inductive Due where
  | trap | breakpoint | anmi | nmi | intr | nothing
deriving DecidableEq, Repr

/-- Which event is due. -/
def State.due (s : State) : Due :=
  if s.trapDue && s.inhibit != .ss && s.run != .shutdown then .trap
  else if s.codeBreak && s.run == .running then .breakpoint
  else if s.lines.anmiPending && s.cfg.part.hasAnmi && s.ssv.enabled && s.inhibit != .ss && s.run != .shutdown then
    .anmi
  else if s.lines.nmiPending && !s.nmiMasked && s.inhibit != .ss then .nmi
  else if s.lines.intr && bit s.eflags 9 && s.inhibit == .none then .intr
  else .nothing

/-- Take the event due (R721, R722, R725, R834, R837). An instruction breakpoint is a fault of the next instruction and
ends its shadow (R71, R727). That ANMI saves the EIP of the boundary is a DESIGN CHOICE, unsafe (assumption log 46): the
table of R855 does not state it. -/
def State.takeDue (s : State) : Due → Host.Outcome State Fault Refusal
  | .trap => deliver (debugEvent s.eip) s.reportTrap
  | .breakpoint => deliver (debugEvent s.eip) { s with dregs := s.dregs.report s.codeHits 0, inhibit := .none }
  | .anmi =>
    .next { s.enterSsv s.eip s.regs.edx s.regs.ebx with lines := { s.lines with anmiPending := false } }
  | .nmi => deliverFrom 5 State.nmiTaken (externalEvent 2 s.eip) { s with run := .running }
  | .intr =>
    deliver (externalEvent s.lines.intrVector s.eip)
      { s with run := .running, out := .intAck s.lines.intrVector :: s.out }
  | .nothing => .next s

/-- The state in which the instruction at EIP runs, once fetched: it is in progress, nextEip is behind it, the queue is
coherent again: what the predecessor's stores replaced is gone (R136, R137). -/
def State.fetched (s : State) (i : Instr) (len : Nat) : State :=
  { s with
    nextEip := s.eip + BitVec.ofNat 32 len
    stale := []
    queue := if s.flushed.isEmpty then s.queue else []
    flushed := []
    again := some ⟨i, s.pfx, len⟩ }

/-- The state in which a repeated string instruction goes on: with its prefixes, without another fetch (46_string.md
R510). -/
def State.resumed (s : State) (r : Repeat) : State :=
  { s with nextEip := s.eip + BitVec.ofNat 32 r.len, pfx := r.pfx }

/-- The prefixes and the instruction make one unit: none is left when it ends (R252). -/
def endUnit : Host.Outcome State Fault Refusal → Host.Outcome State Fault Refusal
  | .next s => .next { s with pfx := .none, held := .none }
  | .fault f => .fault f
  | .refused r => .refused r

/-- The instruction at EIP begins: the shadow it stands in is held until it ends, and it starts no other (R71). -/
def State.begun (s : State) : State := { s with held := s.inhibit, inhibit := .none, pfx := .none }

/-- Fetch the instruction at EIP, or go on with a repeated string instruction, and run it with a given meaning of
instructions; the interrupt shadow it stands in lasts until it completes or faults (R71, R290, 46_string.md R510). The
order of the decoding faults is D31's: fetch, undefined opcode, length, LOCK. -/
def runInstr (exec : Instr → State → Host.Outcome State Fault Refusal) (s : State) :
    Host.Outcome State Fault Refusal :=
  let s := s.begun
  match s.again with
  | some r => endUnit (exec r.instr (s.resumed r))
  | none =>
    match fetch s with
    | .ok (i, len) s' =>
      if maxLength < len && !i.undecodable s.cfg.part.hasSsv then
        endUnit (deliver (faultEvent ⟨13, some 0⟩ s.eip) (s.rollback s'))
      else endUnit (exec i (s'.fetched i len).prefetched)
    | .error (.exc x) s' => endUnit (deliver (faultEvent x s.eip) (s.rollback s'))
    | .error (.late x) s' => endUnit (deliver (faultEvent x s.eip) (s.rollback s'))
    | .error (.fault f) _ => .fault f
    | .error (.refuse r) _ => .refused r

/-- The state at the boundary, before the event due is looked for. -/
def State.boundary (s : State) : State := s.masters.sampleFlush.background.settle

/-- One step: RESET; then other bus masters' stores and what the processor does on its own; then the event due at the
boundary; then, unless the machine waits, the next instruction (00_scope.md R25, R698, R870 to R874). -/
def stepWith (exec : Instr → State → Host.Outcome State Fault Refusal) (s : State) :
    Host.Outcome State Fault Refusal :=
  if s.lines.reset then .next s.doReset
  else if s.run = .superstate then .refused .insideSuperState
  else
    let s := s.boundary
    match s.due with
    | .nothing => if s.run = .running then runInstr exec s else .next s
    | d => s.takeDue d

/-! ## Placing an instruction -/

/-- The physical address the fetch of a linear address reads, by the tables when paging is on. -/
def State.fetchPhys (s : State) (lin : Dword) : Dword :=
  if !s.pg then lin
  else match s.walk lin false s.user with
    | .ok _ _ pa _ _ => pa ++ lin.extractLsb' 0 12
    | .notPresent => lin
    | .protection => lin

/-- Put bytes where the fetch reads from a linear address on. -/
def State.placeBytes (s : State) (lin : Dword) : List Byte → State
  | [] => s
  | b :: rest => State.placeBytes { s with mem := Mem.write s.mem (s.fetchPhys lin).toNat b } (lin + 1) rest

end Sys2Proof.Machine
end

