-- ==== Sys2Proof/Machine/Arith.lean ====
section
/-!
DEFINITION. Machine/Arith.lean: arithmetic instructions (42_arithmetic.md).
-/
namespace Sys2Proof

/-- Whether a two-operand arithmetic or logical form writes memory, so that LOCK may stand before it (30_encoding.md
R258). -/
def AluForm.lockable : AluForm → Bool
  | .rmReg _ rm _ => !rm.isReg
  | .rmImm8 rm _ => !rm.isReg
  | .rmImm8Alias rm _ => !rm.isReg
  | .rmImm rm _ => !rm.isReg
  | .rmSext rm _ => !rm.isReg
  | .regRm _ _ _ => false
  | .alImm _ => false
  | .axImm _ => false

/-- Whether INC or DEC writes memory (R258). -/
def IncForm.lockable : IncForm → Bool
  | .reg _ => false
  | .rmOp _ rm => !rm.isReg

end Sys2Proof
namespace Sys2Proof.Machine

/-! ## The eight two-operand operations (R381) -/

/-- A two-operand operation that stores its result in its first operand (R381). -/
def aluUpdate (s : State) (op : (k : Width) → Val k → Val k → Op (Val k)) : AluForm → Op Unit
  | .rmReg wide rm r => updateRM (s.width wide) rm fun a => op (s.width wide) a (s.reg (s.width wide) r)
  | .regRm wide r rm => do
    let b ← readRM (s.width wide) rm
    let v ← op (s.width wide) (s.reg (s.width wide) r) b
    setReg (s.width wide) r v
  | .alImm i => do
    let v ← op .b (s.reg .b .eax) i
    setAcc .b v
  | .axImm i => do
    let v ← op s.ow (s.reg s.ow .eax) (i.val s.ow)
    setAcc s.ow v
  | .rmImm8 rm i => updateRM .b rm fun a => op .b a i
  | .rmImm8Alias rm i => updateRM .b rm fun a => op .b a i
  | .rmImm rm i => updateRM s.ow rm fun a => op s.ow a (i.val s.ow)
  | .rmSext rm i => updateRM s.ow rm fun a => op s.ow a (sextByte i s.ow)

/-- A two-operand operation that stores nothing: its operands are only read (R381, R386). -/
def aluCompare (s : State) (op : (k : Width) → Val k → Val k → Op Unit) : AluForm → Op Unit
  | .rmReg wide rm r => do
    let a ← readRM (s.width wide) rm
    op (s.width wide) a (s.reg (s.width wide) r)
  | .regRm wide r rm => do
    let b ← readRM (s.width wide) rm
    op (s.width wide) (s.reg (s.width wide) r) b
  | .alImm i => op .b (s.reg .b .eax) i
  | .axImm i => op s.ow (s.reg s.ow .eax) (i.val s.ow)
  | .rmImm8 rm i => do
    let a ← readRM .b rm
    op .b a i
  | .rmImm8Alias rm i => do
    let a ← readRM .b rm
    op .b a i
  | .rmImm rm i => do
    let a ← readRM s.ow rm
    op s.ow a (i.val s.ow)
  | .rmSext rm i => do
    let a ← readRM s.ow rm
    op s.ow a (sextByte i s.ow)

/-- a + b + c with its flags (R380). -/
def addOp (c : Bool) (k : Width) (a b : Val k) : Op (Val k) := do
  setStatus (addStatus a b c)
  return a + b + BitVec.ofNat k.bits (carryNat c)

/-- a - b - c with its flags (R380). -/
def subOp (c : Bool) (k : Width) (a b : Val k) : Op (Val k) := do
  setStatus (subStatus a b c)
  return a - b - BitVec.ofNat k.bits (carryNat c)

/-- ADD (R382). -/
def execAdd (f : AluForm) (s : State) : Host.Outcome State Fault Refusal :=
  run f.lockable (aluUpdate s (addOp false) f) s

/-- ADC (R383). -/
def execAdc (f : AluForm) (s : State) : Host.Outcome State Fault Refusal :=
  run f.lockable (aluUpdate s (addOp s.status.cf) f) s

/-- SUB (R384). -/
def execSub (f : AluForm) (s : State) : Host.Outcome State Fault Refusal :=
  run f.lockable (aluUpdate s (subOp false) f) s

/-- SBB (R385). -/
def execSbb (f : AluForm) (s : State) : Host.Outcome State Fault Refusal :=
  run f.lockable (aluUpdate s (subOp s.status.cf) f) s

/-- CMP (R386). -/
def execCmp (f : AluForm) (s : State) : Host.Outcome State Fault Refusal :=
  run false (aluCompare s (fun _ a b => setStatus (subStatus a b false)) f) s

/-! ## INC, DEC, NEG -/

/-- The operand of INC and DEC, read, changed and written back. -/
def incUpdate (s : State) (op : (k : Width) → Val k → Op (Val k)) : IncForm → Op Unit
  | .reg r => updateRM s.ow (.reg r) (op s.ow)
  | .rmOp wide rm => updateRM (s.width wide) rm (op (s.width wide))

/-- INC: CF is unchanged (R387). -/
def execInc (f : IncForm) (s : State) : Host.Outcome State Fault Refusal :=
  run f.lockable (incUpdate s (fun k a => do
    setStatus { addStatus a (1 : BitVec k.bits) false with cf := s.status.cf }
    return a + 1) f) s

/-- DEC: CF is unchanged (R388, conflict C38). -/
def execDec (f : IncForm) (s : State) : Host.Outcome State Fault Refusal :=
  run f.lockable (incUpdate s (fun k a => do
    setStatus { subStatus a (1 : BitVec k.bits) false with cf := s.status.cf }
    return a - 1) f) s

/-- NEG (R389, conflict C39). -/
def execNeg (wide : Bool) (rm : RM) (s : State) : Host.Outcome State Fault Refusal :=
  run (!rm.isReg) (updateRM (s.width wide) rm fun a => do
    setStatus (subStatus 0 a false)
    return 0 - a) s

/-! ## Multiplication -/

/-- The register of the upper half of a product or dividend: AH for bytes, else (E)DX (R390, R394). -/
def highReg : Width → Reg
  | .b => .esp
  | .w => .edx
  | .d => .edx

/-- Write a double-width result: AX, DX:AX or EDX:EAX (R390). -/
def setPair (k : Width) (hi lo : Val k) : Op Unit := do
  setReg k .eax lo
  setReg k (highReg k) hi

/-- The flags of a multiplication: CF and OF as given, the others undefined (R390 to R392). -/
def mulStatus (lost : Bool) : Op Unit := do
  let u ← undefStatus
  setStatus { u with cf := lost, of := lost }

/-- MUL (R390). -/
def execMul (wide : Bool) (rm : RM) (s : State) : Host.Outcome State Fault Refusal :=
  run false (do
    let k := s.width wide
    let b ← readRM k rm
    let a ← getAcc k
    let p := a.toNat * b.toNat
    setPair k (BitVec.ofNat k.bits (p / 2 ^ k.bits)) (BitVec.ofNat k.bits p)
    mulStatus (decide (2 ^ k.bits ≤ p))) s

/-- The one-operand IMUL (R391). -/
def imulOne (k : Width) (rm : RM) : Op Unit := do
  let b ← readRM k rm
  let a ← getAcc k
  let p := a.toInt * b.toInt
  setPair k (BitVec.ofInt k.bits (p / 2 ^ k.bits)) (BitVec.ofInt k.bits p)
  mulStatus (decide (p ≠ (BitVec.ofInt k.bits p).toInt))

/-- The two- and three-operand IMUL (R392). -/
def imulTo (k : Width) (r : Reg) (x y : Val k) : Op Unit := do
  let p := x.toInt * y.toInt
  setReg k r (BitVec.ofInt k.bits p)
  mulStatus (decide (p ≠ (BitVec.ofInt k.bits p).toInt))

/-- IMUL (R391, R392). -/
def execImul (f : ImulForm) (s : State) : Host.Outcome State Fault Refusal :=
  run false (match f with
    | .one wide rm => imulOne (s.width wide) rm
    | .two r rm => do
      let y ← readRM s.ow rm
      imulTo s.ow r (s.reg s.ow r) y
    | .three r rm i => do
      let x ← readRM s.ow rm
      imulTo s.ow r x (i.val s.ow)
    | .threeSext r rm i => do
      let x ← readRM s.ow rm
      imulTo s.ow r x (sextByte i s.ow)) s

/-! ## Division -/

/-- #DE of a division: the flags the instruction leaves undefined may hold any value (60_exceptions.md R672(d),
R675). -/
def divideError {α : Type} : Op α := do
  let u ← undefStatus
  setStatus u
  raiseDE

/-- Store quotient and remainder: all six status flags undefined (R394). -/
def setQuotient (k : Width) (q r : Val k) : Op Unit := do
  setPair k r q
  let u ← undefStatus
  setStatus u

/-- DIV (R394). -/
def execDiv (wide : Bool) (rm : RM) (s : State) : Host.Outcome State Fault Refusal :=
  run false (do
    let k := s.width wide
    let d ← readRM k rm
    if d.toNat = 0 then divideError
    else
      let n := (s.reg k (highReg k)).toNat * 2 ^ k.bits + (s.reg k .eax).toNat
      let q := n / d.toNat
      if 2 ^ k.bits ≤ q then divideError
      else setQuotient k (BitVec.ofNat k.bits q) (BitVec.ofNat k.bits (n % d.toNat))) s

/-- IDIV: truncation toward 0; the most negative quotient is legal (R395). -/
def execIdiv (wide : Bool) (rm : RM) (s : State) : Host.Outcome State Fault Refusal :=
  run false (do
    let k := s.width wide
    let d ← readRM k rm
    if d.toInt = 0 then divideError
    else
      let n : Int := (s.reg k (highReg k)).toInt * 2 ^ k.bits + (s.reg k .eax).toNat
      let q := n.tdiv d.toInt
      if fitsSigned k.bits q then setQuotient k (BitVec.ofInt k.bits q) (BitVec.ofInt k.bits (n.tmod d.toInt))
      else divideError) s

/-! ## Decimal and ASCII adjustment -/

/-- The low nibble is no decimal digit, or AF is set. -/
def adjusts (al : BitVec 8) (af : Bool) : Bool := decide (9 < al.toNat % 16) || af

/-- DAA and DAS: the adjustment by 6 and by 60h, added or subtracted; both tests look at the original AL and CF
(R396, R397, D36). OF is undefined. -/
def decimalAdjust (s : State) (f : BitVec 8 → BitVec 8 → BitVec 8) : Op Unit := do
  let al : BitVec 8 := s.reg .b .eax
  let low := adjusts al s.status.af
  let high := decide (0x99 < al.toNat) || s.status.cf
  let x := if low then f al 6 else al
  let x := if high then f x 0x60 else x
  let u ← undefStatus
  setAcc .b x
  setStatus ({ u with af := low, cf := high }.ofResult x)

/-- DAA (R396). -/
def execDaa (s : State) : Host.Outcome State Fault Refusal := run false (decimalAdjust s (· + ·)) s

/-- DAS (R397). -/
def execDas (s : State) : Host.Outcome State Fault Refusal := run false (decimalAdjust s (· - ·)) s

/-- AH. -/
def getAh : Op (BitVec 8) := getReg .b .esp

/-- Write AH. -/
def setAh (v : BitVec 8) : Op Unit := setReg .b .esp v

/-- AAA: the upper nibble of AL is cleared in both cases (R398, D37). -/
def execAaa (s : State) : Host.Outcome State Fault Refusal :=
  run false (do
    let al : BitVec 8 := s.reg .b .eax
    let ah ← getAh
    let adj := adjusts al s.status.af
    let digit : BitVec 8 := if adj then (al + 6) &&& 0x0F else al &&& 0x0F
    setAcc .b digit
    if adj then setAh (ah + 1)
    let u ← undefStatus
    setStatus { u with af := adj, cf := adj }) s

/-- AAS (R399). Where nothing is adjusted AL stays, its upper half "**not** cleared" (R399, V-AAS), or, by a parameter,
its upper half is cleared (D37, assumption log 53). -/
def execAas (s : State) : Host.Outcome State Fault Refusal :=
  run false (do
    let al : BitVec 8 := s.reg .b .eax
    let ah ← getAh
    let adj := adjusts al s.status.af
    let digit : BitVec 8 := if adj then (al - 6) &&& 0x0F else if s.cfg.aasKeepsAl then al else al &&& 0x0F
    setAcc .b digit
    if adj then setAh (ah - 1)
    let u ← undefStatus
    setStatus { u with af := adj, cf := adj }) s

/-- AAM with any divisor (R400). -/
def execAam (i : BitVec 8) (s : State) : Host.Outcome State Fault Refusal :=
  run false (do
    let al : BitVec 8 := s.reg .b .eax
    let u ← undefStatus
    if i = 0 then
      setStatus { s.status with af := u.af, cf := u.cf, of := u.of }
      raiseDE
    else
      setAh (al / i)
      setAcc .b (al % i)
      setStatus (u.ofResult (al % i))) s

/-- AAD with any multiplier (R401, D38). -/
def execAad (i : BitVec 8) (s : State) : Host.Outcome State Fault Refusal :=
  run false (do
    let al : BitVec 8 := s.reg .b .eax
    let ah ← getAh
    let r := al + i * ah
    setAcc .b r
    setAh 0
    let u ← undefStatus
    setStatus (u.ofResult r)) s

end Sys2Proof.Machine
end

