-- ==== Sys2Proof/Machine/Control.lean ====
section
/-!
DEFINITION. Machine/Control.lean: control transfer (47_control_transfer.md) and the far transfers of
61_protection_tasks.md R758 to R777.
-/
namespace Sys2Proof.Machine

/-! ## Near targets -/

/-- RelTarget: the next instruction's offset plus a displacement, cut to 16 bits when OS = 16 (R520). -/
def State.relTarget (s : State) (rel : Dword) : Dword :=
  if s.os32 then s.nextEip + rel else (s.nextEip + rel) &&& 0xFFFF

/-- NearBranch: the target lies within the CS limit, else #GP(0) (R521, D45). -/
def nearCheck (t : Dword) : Op Unit := do
  let s ← get
  if s.segs.cs.limit.toNat < t.toNat then raiseGP 0

/-- A near branch (R521). -/
def nearBranch (t : Dword) : Op Unit := do
  nearCheck t
  modify fun s => s.jump t

/-- A byte displacement (R279). -/
def relByte (rel : BitVec 8) : Dword := rel.signExtend 32

/-! ## Conditions -/

/-- Cond(cc) for the sixteen condition codes (R522, conflict C52). -/
def cond (f : Status) : Nat → Bool
  | 0 => f.of
  | 1 => !f.of
  | 2 => f.cf
  | 3 => !f.cf
  | 4 => f.zf
  | 5 => !f.zf
  | 6 => f.cf || f.zf
  | 7 => !(f.cf || f.zf)
  | 8 => f.sf
  | 9 => !f.sf
  | 10 => f.pf
  | 11 => !f.pf
  | 12 => f.sf != f.of
  | 13 => !(f.sf != f.of)
  | 14 => f.zf || (f.sf != f.of)
  | _ => !(f.zf || (f.sf != f.of))

/-- A conditional jump (R523, R524). -/
def jumpIf (s : State) (c : Bool) : JccForm → Op Unit
  | .short rel => if c then nearBranch (s.relTarget (relByte rel)) else pure ()
  | .near rel => if c then nearBranch (s.relTarget rel.sext) else pure ()

/-- JO (R523, R524). -/
def execJo (f : JccForm) (s : State) : Host.Outcome State Fault Refusal := run false (jumpIf s (cond s.status 0) f) s
/-- JNO (R523, R524). -/
def execJno (f : JccForm) (s : State) : Host.Outcome State Fault Refusal := run false (jumpIf s (cond s.status 1) f) s
/-- JB (R523, R524). -/
def execJb (f : JccForm) (s : State) : Host.Outcome State Fault Refusal := run false (jumpIf s (cond s.status 2) f) s
/-- JNB (R523, R524). -/
def execJnb (f : JccForm) (s : State) : Host.Outcome State Fault Refusal := run false (jumpIf s (cond s.status 3) f) s
/-- JZ (R523, R524). -/
def execJz (f : JccForm) (s : State) : Host.Outcome State Fault Refusal := run false (jumpIf s (cond s.status 4) f) s
/-- JNZ (R523, R524). -/
def execJnz (f : JccForm) (s : State) : Host.Outcome State Fault Refusal := run false (jumpIf s (cond s.status 5) f) s
/-- JBE (R523, R524). -/
def execJbe (f : JccForm) (s : State) : Host.Outcome State Fault Refusal := run false (jumpIf s (cond s.status 6) f) s
/-- JNBE (R523, R524). -/
def execJnbe (f : JccForm) (s : State) : Host.Outcome State Fault Refusal := run false (jumpIf s (cond s.status 7) f) s
/-- JS (R523, R524). -/
def execJs (f : JccForm) (s : State) : Host.Outcome State Fault Refusal := run false (jumpIf s (cond s.status 8) f) s
/-- JNS (R523, R524). -/
def execJns (f : JccForm) (s : State) : Host.Outcome State Fault Refusal := run false (jumpIf s (cond s.status 9) f) s
/-- JP (R523, R524). -/
def execJp (f : JccForm) (s : State) : Host.Outcome State Fault Refusal := run false (jumpIf s (cond s.status 10) f) s
/-- JNP (R523, R524). -/
def execJnp (f : JccForm) (s : State) : Host.Outcome State Fault Refusal := run false (jumpIf s (cond s.status 11) f) s
/-- JL (R523, R524). -/
def execJl (f : JccForm) (s : State) : Host.Outcome State Fault Refusal := run false (jumpIf s (cond s.status 12) f) s
/-- JNL (R523, R524). -/
def execJnl (f : JccForm) (s : State) : Host.Outcome State Fault Refusal := run false (jumpIf s (cond s.status 13) f) s
/-- JLE (R523, R524). -/
def execJle (f : JccForm) (s : State) : Host.Outcome State Fault Refusal := run false (jumpIf s (cond s.status 14) f) s
/-- JNLE (R523, R524). -/
def execJnle (f : JccForm) (s : State) : Host.Outcome State Fault Refusal := run false (jumpIf s (cond s.status 15) f) s

/-- Write a condition as a byte (R539). -/
def setByteIf (c : Bool) (rm : RM) : Op Unit := writeRM .b rm (if c then 1#8 else 0#8)

/-- SETO (R539). -/
def execSeto (rm : RM) (s : State) : Host.Outcome State Fault Refusal := run false (setByteIf (cond s.status 0) rm) s
/-- SETNO (R539). -/
def execSetno (rm : RM) (s : State) : Host.Outcome State Fault Refusal := run false (setByteIf (cond s.status 1) rm) s
/-- SETB (R539). -/
def execSetb (rm : RM) (s : State) : Host.Outcome State Fault Refusal := run false (setByteIf (cond s.status 2) rm) s
/-- SETNB (R539). -/
def execSetnb (rm : RM) (s : State) : Host.Outcome State Fault Refusal := run false (setByteIf (cond s.status 3) rm) s
/-- SETZ (R539). -/
def execSetz (rm : RM) (s : State) : Host.Outcome State Fault Refusal := run false (setByteIf (cond s.status 4) rm) s
/-- SETNZ (R539). -/
def execSetnz (rm : RM) (s : State) : Host.Outcome State Fault Refusal := run false (setByteIf (cond s.status 5) rm) s
/-- SETBE (R539). -/
def execSetbe (rm : RM) (s : State) : Host.Outcome State Fault Refusal := run false (setByteIf (cond s.status 6) rm) s
/-- SETNBE (R539). -/
def execSetnbe (rm : RM) (s : State) : Host.Outcome State Fault Refusal := run false (setByteIf (cond s.status 7) rm) s
/-- SETS (R539). -/
def execSets (rm : RM) (s : State) : Host.Outcome State Fault Refusal := run false (setByteIf (cond s.status 8) rm) s
/-- SETNS (R539). -/
def execSetns (rm : RM) (s : State) : Host.Outcome State Fault Refusal := run false (setByteIf (cond s.status 9) rm) s
/-- SETP (R539). -/
def execSetp (rm : RM) (s : State) : Host.Outcome State Fault Refusal := run false (setByteIf (cond s.status 10) rm) s
/-- SETNP (R539). -/
def execSetnp (rm : RM) (s : State) : Host.Outcome State Fault Refusal := run false (setByteIf (cond s.status 11) rm) s
/-- SETL (R539). -/
def execSetl (rm : RM) (s : State) : Host.Outcome State Fault Refusal := run false (setByteIf (cond s.status 12) rm) s
/-- SETNL (R539). -/
def execSetnl (rm : RM) (s : State) : Host.Outcome State Fault Refusal := run false (setByteIf (cond s.status 13) rm) s
/-- SETLE (R539). -/
def execSetle (rm : RM) (s : State) : Host.Outcome State Fault Refusal := run false (setByteIf (cond s.status 14) rm) s
/-- SETNLE (R539, conflict C52). -/
def execSetnle (rm : RM) (s : State) : Host.Outcome State Fault Refusal := run false (setByteIf (cond s.status 15) rm) s

/-! ## Loops -/

/-- Count (E)CX down and branch while it is not 0 and a condition holds (R526). -/
def loopIf (s : State) (c : Bool) (rel : BitVec 8) : Op Unit := do
  let n := s.reg s.aw .ecx - 1
  setReg s.aw .ecx n
  if n ≠ 0 ∧ c then nearBranch (s.relTarget (relByte rel))

/-- LOOP (R526). -/
def execLoop (rel : BitVec 8) (s : State) : Host.Outcome State Fault Refusal := run false (loopIf s true rel) s
/-- LOOPE (R527). -/
def execLoope (rel : BitVec 8) (s : State) : Host.Outcome State Fault Refusal := run false (loopIf s s.status.zf rel) s
/-- LOOPNE (R528, conflict C54). -/
def execLoopne (rel : BitVec 8) (s : State) : Host.Outcome State Fault Refusal :=
  run false (loopIf s (!s.status.zf) rel) s

/-- JCXZ, JECXZ: the address size selects the register (R525, D44). -/
def execJcxz (rel : BitVec 8) (s : State) : Host.Outcome State Fault Refusal :=
  run false (if s.reg s.aw .ecx = 0 then nearBranch (s.relTarget (relByte rel)) else pure ()) s

/-! ## Near JMP, CALL, RET -/

/-- Near JMP (R529, R530). -/
def execJmpNear (f : JmpForm) (s : State) : Host.Outcome State Fault Refusal :=
  run false (match f with
    | .short rel => nearBranch (s.relTarget (relByte rel))
    | .near rel => nearBranch (s.relTarget rel.sext)
    | .rmOp rm => do
      let v ← readRM s.ow rm
      nearBranch (v.setWidth 32)) s

/-- A near call: the target is checked before the push (R533, D46). -/
def callTo (s : State) (t : Dword) : Op Unit := do
  nearCheck t
  pushItems [item s.ow.bytes s.nextEip]
  modify fun s => s.jump t

/-- Near CALL (R533, R534). -/
def execCallNear (f : CallForm) (s : State) : Host.Outcome State Fault Refusal :=
  run false (match f with
    | .rel rel => callTo s (s.relTarget rel.sext)
    | .rmOp rm => do
      let v ← readRM s.ow rm
      callTo s (v.setWidth 32)) s

/-- The bytes RET imm16 discards. -/
def discard (n : Option (BitVec 16)) : Dword :=
  match n with
  | none => 0
  | some k => k.setWidth 32

/-- Near RET (R537). -/
def execRetNear (n : Option (BitVec 16)) (s : State) : Host.Outcome State Fault Refusal :=
  run false (do
    let v ← stackRead s.sp 0 s.ow.bytes
    nearCheck (BitVec.ofNat 32 v)
    modify fun t => t.setSp (spAdd s.segs.ss.attr.db s.sp (BitVec.ofNat 32 s.ow.bytes + discard n))
    modify fun t => t.jump (BitVec.ofNat 32 v)) s

/-! ## Far JMP and CALL -/

/-- The far pointer of a form: its offset and selector. Both parts in memory are checked before either is read
(R531, R532; 22_paging.md R224). -/
def farPointer (s : State) : FarForm → Op (BitVec 16 × Dword)
  | .ptr off sel => return (sel, off.zext)
  | .rmOp rm => do
    let (seg, ea, is32) ← memOperand rm
    let (off, sel) ← readParts (prepare seg ea s.ow.bytes false)
      (prepare seg (eaAdd is32 ea (BitVec.ofNat 32 s.ow.bytes)) 2 false)
    return (BitVec.ofNat 16 sel, BitVec.ofNat 32 off)

/-- DirectCodeCheck, the descriptor being a code segment's (R758, D73). -/
def directCodeCheck (sel : BitVec 16) (d : Desc) (off : Dword) : Op Unit := do
  let s ← get
  if d.isConforming && decide (s.cpl.toNat < d.dpl.toNat) then raiseGP (selCode sel)
  else if !d.isConforming && (d.dpl != s.cpl || decide (s.cpl.toNat < (rpl sel).toNat)) then raiseGP (selCode sel)
  else if !d.p then raiseNP (selCode sel)
  else if d.limit.toNat < off.toNat then raiseGP 0

/-- What a call gate leads to (R759): the size of its items, the code selector, its descriptor, the offset, the number
of parameters. -/
structure GateTarget where
  n : Nat
  sel : BitVec 16
  d : Desc
  off : Dword
  count : Nat
deriving DecidableEq, Repr

/-- CallGateTarget (R759). -/
def callGateTarget (sel : BitVec 16) (g : Desc) (isCall : Bool) : Op GateTarget := do
  let s ← get
  if g.dpl.toNat < (maxLevel s.cpl (rpl sel)).toNat then raiseGP (selCode sel)
  else if !g.p then raiseNP (selCode sel)
  else
    let csel := g.lo.extractLsb' 16 16
    let wide := bit g.hi 11
    if isNull csel then raiseGP 0
    else
      let d ← descOr csel (raiseGP (selCode csel))
      if !d.isCode then raiseGP (selCode csel)
      else if s.cpl.toNat < d.dpl.toNat then raiseGP (selCode csel)
      else if !isCall && !d.isConforming && d.dpl != s.cpl then raiseGP (selCode csel)
      else if !d.p then raiseNP (selCode csel)
      else return ⟨if wide then 4 else 2, csel, d,
        (if wide then g.hi.extractLsb' 16 16 else 0#16) ++ g.lo.extractLsb' 0 16, (g.hi.extractLsb' 0 5).toNat⟩

/-- A far JMP or CALL through a task gate (R763). -/
def taskGateTransfer (sel : BitVec 16) (g : Desc) (reason : TaskReason) : Op Unit := do
  let s ← get
  let tsel := g.lo.extractLsb' 16 16
  if g.dpl.toNat < (maxLevel s.cpl (rpl sel)).toNat then raiseGP (selCode sel)
  else if !g.p then raiseNP (selCode sel)
  else if selTI tsel || isNull tsel then raiseGP (selCode tsel)
  else
    let d ← descOr tsel (raiseGP (selCode tsel))
    if !d.isTss then raiseGP (selCode tsel)
    else taskSwitch tsel d reason s.nextEip s.eflags 0

/-- A far JMP or CALL to a TSS descriptor (R764). -/
def tssTransfer (sel : BitVec 16) (d : Desc) (reason : TaskReason) : Op Unit := do
  let s ← get
  if selTI sel then raiseGP (selCode sel)
  else if d.dpl.toNat < (maxLevel s.cpl (rpl sel)).toNat then raiseGP (selCode sel)
  else taskSwitch sel d reason s.nextEip s.eflags 0

/-- A call gate's type (R754). -/
def Desc.isCallGate (d : Desc) : Bool := d.type == 4#5 || d.type == 12#5

/-- A task gate's type (R754). -/
def Desc.isTaskGate (d : Desc) : Bool := d.type == 5#5

/-- FarJmp (R760, R761, R762). -/
def farJmp (sel : BitVec 16) (off : Dword) : Op End := do
  let s ← get
  if !s.prot then
    nearCheck off
    commitReal sel off
    return .done
  else if isNull sel then raiseGP 0
  else
    let d ← descOr sel (raiseGP (selCode sel))
    if d.isCode then
      directCodeCheck sel d off
      commitCS sel d s.cpl off
      return .done
    else if d.isCallGate then
      let t ← callGateTarget sel d false
      if t.d.limit.toNat < t.off.toNat then raiseGP 0
      commitCS t.sel t.d s.cpl t.off
      return .done
    else if d.isTaskGate then
      taskGateTransfer sel d .jump
      return .loaded
    else if d.isTss then
      tssTransfer sel d .jump
      return .loaded
    else raiseGP (selCode sel)

/-- Far JMP (R531, R532). -/
def execJmpFar (f : FarForm) (s : State) : Host.Outcome State Fault Refusal :=
  runEnd false (do
    let (sel, off) ← farPointer s f
    farJmp sel off) s

/-- A call at the current level: CS and the return address are pushed, n bytes each, then CS is loaded (R766). -/
def callSame (sel : BitVec 16) (d : Desc) (off : Dword) (n : Nat) : Op Unit := do
  let s ← get
  let cs ← selItem n s.segs.cs.sel
  let (l, sp) ← preparePushes s.segs.ss 0 s.user s.sp [cs, item n s.nextEip]
  setAccessed d
  writeAll l
  modify fun s => s.setSp sp
  modify fun t => t.enterCS sel d s.cpl off

/-- A call through a gate to an inner level: the stack of that level, the parameters copied (R767, D75). DESIGN CHOICE,
unsafe (assumption log 45): the pages of the new stack are tested with its room, before the gate's offset is tested and
the parameters are read, and the code of a page fault there reports the CPL before the call; R767 says only that every
test comes before every write. -/
def callInner (t : GateTarget) : Op Unit := do
  let s ← get
  let level := t.d.dpl
  let (ssel, sp) ← innerStack level 0
  let ds ← checkInner level ssel 0
  let ssReg := ds.toReg ssel
  let (l, spEnd) ← preparePushes ssReg (selCode ssel) false sp (List.replicate (4 + t.count) (t.n, 0))
  if t.d.limit.toNat < t.off.toNat then raiseGP 0
  let params ← stackReads s.sp t.n ((List.range t.count).map fun i => i * t.n)
  let ss ← selItem t.n s.segs.ss.sel
  let cs ← selItem t.n s.segs.cs.sel
  let items := [ss, item t.n s.regs.esp] ++ params.reverse.map (fun v => (t.n, v)) ++ [cs, item t.n s.nextEip]
  setAccessed ds
  setAccessed t.d
  writeAll ((l.map Prod.fst).zip (items.map Prod.snd))
  modify fun s => { s.setSeg .ss ssReg with regs := { s.regs with esp := sp } }
  modify fun s => s.setSp spEnd
  modify fun s => s.enterCS t.sel t.d level t.off

/-- FarCall (R765, R766). -/
def farCall (sel : BitVec 16) (off : Dword) : Op End := do
  let s ← get
  if !s.prot then
    nearCheck off
    let cs ← selItem s.ow.bytes s.segs.cs.sel
    pushItems [cs, item s.ow.bytes s.nextEip]
    commitReal sel off
    return .done
  else if isNull sel then raiseGP 0
  else
    let d ← descOr sel (raiseGP (selCode sel))
    if d.isCode then
      directCodeCheck sel d off
      callSame sel d off s.ow.bytes
      return .done
    else if d.isCallGate then
      let t ← callGateTarget sel d true
      if !t.d.isConforming && decide (t.d.dpl.toNat < s.cpl.toNat) then callInner t
      else
        if t.d.limit.toNat < t.off.toNat then raiseGP 0
        callSame t.sel t.d t.off t.n
      return .done
    else if d.isTaskGate then
      taskGateTransfer sel d .call
      return .loaded
    else if d.isTss then
      tssTransfer sel d .call
      return .loaded
    else raiseGP (selCode sel)

/-- Far CALL (R535, R536). -/
def execCallFar (f : FarForm) (s : State) : Host.Outcome State Fault Refusal :=
  runEnd false (do
    let (sel, off) ← farPointer s f
    farCall sel off) s

/-! ## Far RET -/

/-- FarRet (R771, R772). -/
def farRet (k : Dword) : Op Unit := do
  let s ← get
  let n := s.ow.bytes
  let l ← stackReads s.sp n [0, n]
  let ip : Dword := BitVec.ofNat 32 (l.getD 0 0)
  let cs := BitVec.ofNat 16 (l.getD 1 0)
  let sp := spAdd s.segs.ss.attr.db s.sp (BitVec.ofNat 32 (2 * n) + k)
  if !s.prot then
    nearCheck ip
    modify fun s => s.setSp sp
    commitReal cs ip
  else
    let d ← returnTarget cs
    if rpl cs = s.cpl then
      if d.limit.toNat < ip.toNat then raiseGP 0
      modify fun s => s.setSp sp
      commitCS cs d s.cpl ip
    else returnOuter cs d ip n (2 * n + k.toNat) k

/-- Far RET (R538). -/
def execRetFar (n : Option (BitVec 16)) (s : State) : Host.Outcome State Fault Refusal :=
  run false (farRet (discard n)) s

/-! ## Software interrupts and IRET -/

/-- #GP(0) in virtual-8086 mode unless IOPL is 3 (R544, D48; 48_flag_segment.md R581). -/
def requireIopl3 : Op Unit := do
  let s ← get
  if s.v86 && s.iopl != 3#2 then raiseGP 0

/-- INT n (R540). -/
def execInt (n : BitVec 8) (s : State) : Host.Outcome State Fault Refusal :=
  runEnd false (do
    requireIopl3
    softInt n) s

/-- INT 3: not sensitive to IOPL (R541, D48). -/
def execInt3 (s : State) : Host.Outcome State Fault Refusal := runEnd false (softInt 3) s

/-- INTO (R542). -/
def execInto (s : State) : Host.Outcome State Fault Refusal :=
  runEnd false (if s.status.of then softInt 4 else pure .done) s

/-- The EFLAGS bits POPF and IRET write at a privilege level: CF, PF, AF, ZF, SF, TF, DF, OF and NT always, IF when
the level is at or inside IOPL, IOPL at level 0 (R545; 48_flag_segment.md R582). -/
def flagMask (level iopl : BitVec 2) : Dword :=
  0x4DD5 ||| (if level.toNat ≤ iopl.toNat then 0x200 else 0) ||| (if level = 0 then 0x3000 else 0)

/-- EFLAGS with the bits of a mask loaded. -/
def loadFlags (e mask v : Dword) : Dword := (e &&& ~~~ mask) ||| (v &&& mask)

/-- RestoreFlags, at the level before the return (R545). -/
def State.restoreFlags (s : State) (fl : Dword) (os32 : Bool) (level : BitVec 2) : State :=
  let upper : Dword :=
    if os32 then (if level = 0 ∧ s.pe then 0x30000 else 0x10000) else 0
  { s with eflags := loadFlags s.eflags (flagMask level s.iopl ||| upper) fl }

/-- IRET in real and virtual-8086 mode (R543). -/
def iretReal : Op Unit := do
  let s ← get
  let n := s.ow.bytes
  let l ← stackReads s.sp n [0, n, 2 * n]
  let ip : Dword := BitVec.ofNat 32 (l.getD 0 0)
  nearCheck ip
  modify fun t => t.setSp (spAdd s.segs.ss.attr.db s.sp (BitVec.ofNat 32 (3 * n)))
  commitReal (BitVec.ofNat 16 (l.getD 1 0)) ip
  modify fun t => t.restoreFlags (BitVec.ofNat 32 (l.getD 2 0)) s.os32 s.level

/-- IRETD to virtual-8086 mode (61_protection_tasks.md R776, D70). -/
def iretToV86 (ip cs fl : Nat) : Op Unit := do
  let s ← get
  let l ← stackReads s.sp 4 [12, 16, 20, 24, 28, 32]
  if 0xFFFF < ip then raiseGP 0
  let sel := fun i => BitVec.ofNat 16 (l.getD i 0)
  modify fun s =>
    State.jump { s.loadAllV86 (sel 2) (BitVec.ofNat 16 cs) (sel 1) (sel 3) (sel 4) (sel 5) with
      eflags := normFlags (BitVec.ofNat 32 fl)
      cpl := 3
      regs := { s.regs with esp := BitVec.ofNat 32 (l.getD 0 0) } } (BitVec.ofNat 32 ip)

/-- IRET in protected mode to a procedure (R775). -/
def iretProcedure : Op Unit := do
  let s ← get
  let n := s.ow.bytes
  let l ← stackReads s.sp n [0, n, 2 * n]
  let ip := l.getD 0 0
  let cs := l.getD 1 0
  let fl := l.getD 2 0
  if n = 4 ∧ (BitVec.ofNat 32 fl).getLsbD 17 ∧ s.cpl = 0 then iretToV86 ip cs fl
  else
    let ip : Dword := BitVec.ofNat 32 ip
    let cs := BitVec.ofNat 16 cs
    let d ← returnTarget cs
    if rpl cs = s.cpl then
      if d.limit.toNat < ip.toNat then raiseGP 0
      modify fun t => t.setSp (spAdd s.segs.ss.attr.db s.sp (BitVec.ofNat 32 (3 * n)))
      commitCS cs d s.cpl ip
    else returnOuter cs d ip n (3 * n) 0
    modify fun t => t.restoreFlags (BitVec.ofNat 32 fl) s.os32 s.cpl

/-- IRET in protected mode to the previous task (R777). The back-link must lie in the TSS (21_segmentation.md R182;
70_reset_and_hazards.md R884). -/
def iretTask : Op Unit := do
  let s ← get
  if s.tr.limit.toNat < 1 then raiseTS (selCode s.tr.sel)
  let link ← linRead s.tr.base 2
  let link := BitVec.ofNat 16 link
  if selTI link || isNull link then raiseTS (selCode link)
  else
    let d ← descOr link (raiseTS (selCode link))
    if !d.isTssBusy then raiseTS (selCode link)
    else taskSwitch link d .iret s.nextEip s.eflags 0

/-- RETURNING FROM AN EXCEPTION OR INTERRUPT: IRET, IRETD; NMI is recognised again (R543, R778; 60_exceptions.md
R722). -/
def interruptReturn : Op End := do
  let s ← get
  requireIopl3
  let task := s.prot && bit s.eflags 14
  if !s.prot then iretReal
  else if task then iretTask
  else iretProcedure
  modify fun s => { s with nmiMasked := false }
  return endOf (task || s.os32)

/-- IRET, IRETD (R543). -/
def execIret (s : State) : Host.Outcome State Fault Refusal := runEnd false interruptReturn s

end Sys2Proof.Machine
end

