-- ==== Sys2Proof/Machine/DataMove.lean ====
section
/-!
DEFINITION. Machine/DataMove.lean: prefixes and data movement (30_encoding.md R252, R253; 40_data_movement.md).
-/
namespace Sys2Proof.Machine

/-! ## Prefixes: each is latched for the instruction it stands before (R252, R253) -/

/-- Prefix 26, SEG=ES (R253). -/
def execSegEs (s : State) : Host.Outcome State Fault Refusal := .next (s.latch .segEs)
/-- Prefix 2E, SEG=CS (R253). -/
def execSegCs (s : State) : Host.Outcome State Fault Refusal := .next (s.latch .segCs)
/-- Prefix 36, SEG=SS (R253). -/
def execSegSs (s : State) : Host.Outcome State Fault Refusal := .next (s.latch .segSs)
/-- Prefix 3E, SEG=DS (R253). -/
def execSegDs (s : State) : Host.Outcome State Fault Refusal := .next (s.latch .segDs)
/-- Prefix 64, SEG=FS (R253). -/
def execSegFs (s : State) : Host.Outcome State Fault Refusal := .next (s.latch .segFs)
/-- Prefix 65, SEG=GS (R253). -/
def execSegGs (s : State) : Host.Outcome State Fault Refusal := .next (s.latch .segGs)
/-- Prefix 66 (R253, R262). -/
def execOpsize (s : State) : Host.Outcome State Fault Refusal := .next (s.latch .opsize)
/-- Prefix 67 (R253, R263). -/
def execAdrsize (s : State) : Host.Outcome State Fault Refusal := .next (s.latch .adrsize)
/-- Prefix F0 (R253, R258). -/
def execLock (s : State) : Host.Outcome State Fault Refusal := .next (s.latch .lock)
/-- Prefix F2 (R253, R256). -/
def execRepne (s : State) : Host.Outcome State Fault Refusal := .next (s.latch .repne)
/-- Prefix F3 (R253, R256). -/
def execRep (s : State) : Host.Outcome State Fault Refusal := .next (s.latch .rep)

/-! ## MOV -/

/-- The segment and offset of a direct-offset operand: DS unless overridden (R324). -/
def State.moff (s : State) (off : Imm) : Sreg × Dword := (s.segFor .ds, off.zext)

/-- Read a direct-offset operand (R324). -/
def readMoff (k : Width) (off : Imm) : Op (Val k) := do
  let s ← get
  let v ← memRead (s.moff off).1 (s.moff off).2 k.bytes
  return BitVec.ofNat k.bits v

/-- Write a direct-offset operand (R324). -/
def writeMoff (k : Width) (off : Imm) (v : Val k) : Op Unit := do
  let s ← get
  memWrite (s.moff off).1 (s.moff off).2 k.bytes v.toNat

/-- MOV r/m, r; MOV r, r/m; MOV with a direct offset; MOV of an immediate (R320 to R324). -/
def execMov (f : MovForm) (s : State) : Host.Outcome State Fault Refusal :=
  run false (match f with
    | .rmReg wide rm r => writeRM (s.width wide) rm (s.reg (s.width wide) r)
    | .regRm wide r rm => do
      let v ← readRM (s.width wide) rm
      setReg (s.width wide) r v
    | .accMoff wide off => do
      let v ← readMoff (s.width wide) off
      setAcc (s.width wide) v
    | .moffAcc wide off => writeMoff (s.width wide) off (s.reg (s.width wide) .eax)
    | .regImm8 r i => setReg .b r i
    | .regImm r i => setReg s.ow r (i.val s.ow)
    | .rmImm8 rm i => writeRM .b rm i
    | .rmImm rm i => writeRM s.ow rm (i.val s.ow)) s

/-- The source width of MOVSX and MOVZX, which the opcode fixes: byte or word (R325). -/
def extendFrom (wide : Bool) : Width := if wide then .w else .b

/-- MOVZX (R326). -/
def execMovzx (wide : Bool) (r : Reg) (rm : RM) (s : State) : Host.Outcome State Fault Refusal :=
  run false (do
    let v ← readRM (extendFrom wide) rm
    setReg s.ow r (v.setWidth s.ow.bits)) s

/-- MOVSX (R325). -/
def execMovsx (wide : Bool) (r : Reg) (rm : RM) (s : State) : Host.Outcome State Fault Refusal :=
  run false (do
    let v ← readRM (extendFrom wide) rm
    setReg s.ow r (v.signExtend s.ow.bits)) s

/-! ## PUSH and POP -/

/-- PUSH: the operand is checked, then the stack, and both before the operand is read (R327, R328, R329; 20_memory.md
R112, 22_paging.md R224). -/
def execPush (f : PushForm) (s : State) : Host.Outcome State Fault Refusal :=
  run false (match f with
    | .reg r => push s.ow.bytes (s.reg s.ow r).toNat
    | .imm i => push s.ow.bytes (i.val s.ow).toNat
    | .imm8 i => push s.ow.bytes (sextByte i s.ow).toNat
    | .rmOp rm => do
      let p ← locate s.ow rm false
      let (l, sp) ← preparePushes s.segs.ss 0 s.user s.sp [(s.ow.bytes, 0)]
      let v ← readPlace s.ow p
      writeAll (l.map fun x => (x.1, v.toNat))
      modify fun t => t.setSp sp) s

/-- POP: the stack is checked, the stack pointer moves, then the destination is checked, so that an address formed from
(E)SP uses the incremented value; both are checked before the stack is read (R330, R331, D34; 22_paging.md R224). -/
def execPop (f : PopForm) (s : State) : Host.Outcome State Fault Refusal :=
  run false (match f with
    | .reg r => do
      let v ← pop s.ow.bytes
      setReg s.ow r (BitVec.ofNat s.ow.bits v)
    | .rmOp rm => do
      let top ← prepare .ss s.sp s.ow.bytes false
      modify fun t => t.setSp (spAdd s.segs.ss.attr.db s.sp (BitVec.ofNat 32 s.ow.bytes))
      let p ← locate s.ow rm true
      let v ← readRef top
      writePlace s.ow p (BitVec.ofNat s.ow.bits v)) s

/-- PUSHA, PUSHAD: every item is checked before any is stored; the stored (E)SP is the value at the beginning
(R334). -/
def execPusha (s : State) : Host.Outcome State Fault Refusal :=
  run false (pushItems
    (([.eax, .ecx, .edx, .ebx, .esp, .ebp, .esi, .edi] : List Reg).map
      fun r => (s.ow.bytes, (s.reg s.ow r).toNat))) s

/-- Prepare the reads of k items of n bytes from a stack offset up (R335). -/
def preparePops (n : Nat) : Nat → Dword → Op (List Ref)
  | 0, _ => return []
  | k + 1, sp => do
    let s ← get
    let r ← prepare .ss sp n false
    let l ← preparePops n k (spAdd s.segs.ss.attr.db sp (BitVec.ofNat 32 n))
    return r :: l

/-- POPA, POPAD: all items are checked before any register is written; the item of (E)SP is discarded (R335). -/
def execPopa (s : State) : Host.Outcome State Fault Refusal :=
  run false (do
    let refs ← preparePops s.ow.bytes 8 s.sp
    let l ← readRefs refs
    let v := fun i => BitVec.ofNat s.ow.bits (l.getD i 0)
    setReg s.ow .edi (v 0)
    setReg s.ow .esi (v 1)
    setReg s.ow .ebp (v 2)
    setReg s.ow .ebx (v 4)
    setReg s.ow .edx (v 5)
    setReg s.ow .ecx (v 6)
    setReg s.ow .eax (v 7)
    modify fun t => t.setSp (spAdd s.segs.ss.attr.db s.sp (BitVec.ofNat 32 (8 * s.ow.bytes)))) s

/-! ## XCHG -/

/-- XCHG: with memory, checked as a write before it is read, and locked with or without a prefix (R337, R338). -/
def execXchg (f : XchgForm) (s : State) : Host.Outcome State Fault Refusal :=
  match f with
  | .rmReg wide rm r => run (!rm.isReg) (do
      let p ← locate (s.width wide) rm true
      let a ← readPlace (s.width wide) p
      let b ← getReg (s.width wide) r
      writePlace (s.width wide) p b
      setReg (s.width wide) r a) s
  | .acc r => run false (do
      let a ← getAcc s.ow
      let b ← getReg s.ow r
      setAcc s.ow b
      setReg s.ow r a) s

/-- NOP, the exchange of the accumulator with itself (R338; 49_system_misc.md). -/
def execNop (s : State) : Host.Outcome State Fault Refusal := run false (pure ()) s

/-! ## Sign extension of the accumulator -/

/-- CBW (R339). -/
def execCbw (s : State) : Host.Outcome State Fault Refusal :=
  run false (do
    let v ← getReg .b .eax
    setReg .w .eax (v.signExtend 16)) s

/-- CWDE (R340). -/
def execCwde (s : State) : Host.Outcome State Fault Refusal :=
  run false (do
    let v ← getReg .w .eax
    setReg .d .eax (v.signExtend 32)) s

/-- CWD (R341). -/
def execCwd (s : State) : Host.Outcome State Fault Refusal :=
  run false (do
    let v ← getReg .w .eax
    setReg .w .edx (if v.msb then 0xFFFF#16 else 0#16)) s

/-- CDQ (R342). -/
def execCdq (s : State) : Host.Outcome State Fault Refusal :=
  run false (do
    let v ← getReg .d .eax
    setReg .d .edx (if v.msb then 0xFFFFFFFF#32 else 0#32)) s

end Sys2Proof.Machine
end

