-- ==== Sys2Proof/Machine/FlagSeg.lean ====
section
/-!
DEFINITION. Machine/FlagSeg.lean: flag control and segment registers (48_flag_segment.md).
-/
namespace Sys2Proof.Machine

/-! ## Single flags -/

/-- Write one bit of EFLAGS. -/
def setFlagBit (n : Nat) (b : Bool) : Op Unit := modify fun s => { s with eflags := withBit s.eflags n b }

/-- CLC (R570). -/
def execClc (s : State) : Host.Outcome State Fault Refusal := run false (setFlagBit 0 false) s
/-- STC (R571). -/
def execStc (s : State) : Host.Outcome State Fault Refusal := run false (setFlagBit 0 true) s
/-- CMC (R572). -/
def execCmc (s : State) : Host.Outcome State Fault Refusal := run false (setFlagBit 0 (!s.status.cf)) s
/-- CLD (R573). -/
def execCld (s : State) : Host.Outcome State Fault Refusal := run false (setFlagBit 10 false) s
/-- STD (R574). -/
def execStd (s : State) : Host.Outcome State Fault Refusal := run false (setFlagBit 10 true) s

/-- #GP(0) outside real mode unless CPL ≤ IOPL (R575, R576). -/
def requireIopl : Op Unit := do
  let s ← get
  if s.pe && decide (s.iopl.toNat < s.cpl.toNat) then raiseGP 0

/-- CLI (R575). -/
def execCli (s : State) : Host.Outcome State Fault Refusal :=
  run false (do
    requireIopl
    setFlagBit 9 false) s

/-- STI: the interrupt shadow starts when IF was 0 (R576, R577, D49). -/
def execSti (s : State) : Host.Outcome State Fault Refusal :=
  run false (do
    requireIopl
    setFlagBit 9 true
    if !bit s.eflags 9 then modify fun s => { s with inhibit := .sti }) s

/-! ## Flag transfers -/

/-- LAHF (R578). -/
def execLahf (s : State) : Host.Outcome State Fault Refusal :=
  run false (setReg .b .esp (s.eflags.extractLsb' 0 8)) s

/-- SAHF: OF and the other bits stay (R579). -/
def execSahf (s : State) : Host.Outcome State Fault Refusal :=
  run false (do
    let ah : BitVec 8 ← getReg .b .esp
    modify fun s => { s with eflags := loadFlags s.eflags 0xD5 (ah.setWidth 32) }) s

/-- PUSHF, PUSHFD: the image is EFLAGS as it stands (R581). -/
def execPushf (s : State) : Host.Outcome State Fault Refusal :=
  run false (do
    requireIopl3
    pushItems [item s.ow.bytes s.eflags]) s

/-- POPF, POPFD: RF and VM are not written (R582). -/
def execPopf (s : State) : Host.Outcome State Fault Refusal :=
  run false (do
    requireIopl3
    let v ← pop s.ow.bytes
    modify fun s => { s with eflags := loadFlags s.eflags (flagMask s.level s.iopl) (BitVec.ofNat 32 v) }) s

/-! ## Segment registers -/

/-- A load of SS by MOV or POP starts the interrupt shadow (R592, D53). -/
def shadowSs (k : Sreg) : Op Unit := do
  if k = .ss then modify fun s => { s with inhibit := .ss }

/-- MOV sreg, r/m: CS and the two reserved numbers are #UD before the operand is read (R586, R596). -/
def execMovToSreg (k : SregField) (rm : RM) (s : State) : Host.Outcome State Fault Refusal :=
  run false (match k with
    | .reserved6 => raiseUD
    | .reserved7 => raiseUD
    | .reg .cs => raiseUD
    | .reg k => do
      let sel ← readRM .w rm
      loadSeg k sel
      shadowSs k) s

/-- Store a selector: 16 bits in memory, the operand size, zero-extended, in a register (R587, D50). -/
def storeSel (rm : RM) (sel : BitVec 16) : Op Unit := do
  let s ← get
  match rm with
  | .reg r => setReg s.ow r (sel.setWidth s.ow.bits)
  | .mem _ => writeRM .w rm sel

/-- MOV r/m, sreg (R587, R596). -/
def execMovFromSreg (rm : RM) (k : SregField) (s : State) : Host.Outcome State Fault Refusal :=
  run false (match k with
    | .reserved6 => raiseUD
    | .reserved7 => raiseUD
    | .reg k => storeSel rm (s.segs.get k).sel) s

/-- PUSH sreg (R588, D51). -/
def execPushSreg (k : Sreg) (s : State) : Host.Outcome State Fault Refusal :=
  run false (do
    let i ← selItem s.ow.bytes (s.segs.get k).sel
    pushItems [i]) s

/-- POP sreg: the old SS decides how the stack pointer moves (R589, D52). There is no POP CS. -/
def execPopSreg (k : Sreg) (s : State) : Host.Outcome State Fault Refusal :=
  run false (match k with
    | .cs => raiseUD
    | k => do
      let v ← pop s.ow.bytes
      loadSeg k (BitVec.ofNat 16 v)
      shadowSs k) s

/-- LDS, LES, LFS, LGS, LSS: the pointer is one operand whose offsets do not wrap, read as two accesses before any
register changes (R590, R591; 20_memory.md R103, 30_encoding.md R270, 22_paging.md R224). DESIGN CHOICE, unsafe
(assumption log 52): the limit is tested for the whole pointer before a page is, so that a selector beyond the limit is
reported, not a page fault of the offset. -/
def loadPointer (k : Sreg) (r : Reg) (rm : RM) : Op Unit := do
  let s ← get
  let n := s.ow.bytes
  let (seg, ea, _) ← memOperand rm
  checkWhole seg ea (n + 2) false
  let (off, sel) ← readParts (prepare seg ea n false) (prepare seg (ea + BitVec.ofNat 32 n) 2 false)
  loadSeg k (BitVec.ofNat 16 sel)
  setReg s.ow r (BitVec.ofNat s.ow.bits off)

/-- LES (R590). -/
def execLes (r : Reg) (rm : RM) (s : State) : Host.Outcome State Fault Refusal := run false (loadPointer .es r rm) s
/-- LDS (R590). -/
def execLds (r : Reg) (rm : RM) (s : State) : Host.Outcome State Fault Refusal := run false (loadPointer .ds r rm) s
/-- LFS (R590). -/
def execLfs (r : Reg) (rm : RM) (s : State) : Host.Outcome State Fault Refusal := run false (loadPointer .fs r rm) s
/-- LGS (R590). -/
def execLgs (r : Reg) (rm : RM) (s : State) : Host.Outcome State Fault Refusal := run false (loadPointer .gs r rm) s
/-- LSS: no interrupt shadow (R591, D53). -/
def execLss (r : Reg) (rm : RM) (s : State) : Host.Outcome State Fault Refusal := run false (loadPointer .ss r rm) s

end Sys2Proof.Machine
end

