-- ==== Sys2Proof/Machine/Logic.lean ====
section
/-!
DEFINITION. Machine/Logic.lean: logical instructions (43_logical.md) and bit manipulation (45_bit.md).
-/
namespace Sys2Proof.Machine

/-- The flags of a logical result, AF undefined (R420). -/
def setLogic {n : Nat} (r : BitVec n) : Op Unit := do
  let u ← undefStatus
  setStatus (logicStatus r u.af)

/-- A logical operation with its flags (R420). -/
def logicOp (f : {n : Nat} → BitVec n → BitVec n → BitVec n) (k : Width) (a b : Val k) : Op (Val k) := do
  setLogic (f a b)
  return f a b

/-- AND (R421). -/
def execAnd (f : AluForm) (s : State) : Host.Outcome State Fault Refusal :=
  run f.lockable (aluUpdate s (logicOp fun a b => a &&& b) f) s

/-- OR (R422). -/
def execOr (f : AluForm) (s : State) : Host.Outcome State Fault Refusal :=
  run f.lockable (aluUpdate s (logicOp fun a b => a ||| b) f) s

/-- XOR (R423). -/
def execXor (f : AluForm) (s : State) : Host.Outcome State Fault Refusal :=
  run f.lockable (aluUpdate s (logicOp fun a b => a ^^^ b) f) s

/-- NOT: no flag changes (R424). -/
def execNot (wide : Bool) (rm : RM) (s : State) : Host.Outcome State Fault Refusal :=
  run (!rm.isReg) (updateRM (s.width wide) rm fun a => pure (~~~ a)) s

/-- TEST: nothing is stored; LOCK is never legal (R425). -/
def execTest (f : TestForm) (s : State) : Host.Outcome State Fault Refusal :=
  run false (match f with
    | .rmReg wide rm r => do
      let a ← readRM (s.width wide) rm
      setLogic (a &&& s.reg (s.width wide) r)
    | .alImm i => do
      let a : BitVec 8 := s.reg .b .eax
      setLogic (a &&& i)
    | .axImm i => setLogic (s.reg s.ow .eax &&& i.val s.ow)
    | .rmImm8 _ rm i => do
      let a : BitVec 8 ← readRM .b rm
      setLogic (a &&& i)
    | .rmImm _ rm i => do
      let a ← readRM s.ow rm
      setLogic (a &&& i.val s.ow)) s

/-! ## Bit tests -/

/-- The unit of a bit string a signed bit index falls in, rounding toward minus infinity (R472). -/
def bitUnit (k : Width) (off : Val k) : Int := off.toInt / k.bits

/-- The bit within its unit: the index modulo the width (R471, R472). -/
def bitPos (k : Width) (off : Val k) : Nat := off.toNat % k.bits

/-- The place and the number of the bit a bit test selects. With a memory base and a register offset the address moves
by whole units (R471, R472, D42). -/
def bitSelect (k : Width) (write : Bool) : BitForm → Op (Place × Nat)
  | .rmReg (.reg r) i => do
    let off ← getReg k i
    return (.reg r, bitPos k off)
  | .rmReg (.mem m) i => do
    let s ← get
    let off := s.reg k i
    let ea := eaAdd m.is32 (m.ea s.regs) (BitVec.ofInt 32 (bitUnit k off * k.bytes))
    let r ← prepare (s.segFor m.defaultSeg) ea k.bytes write
    return (.mem r, bitPos k off)
  | .rmImm rm i => do
    let p ← locate k rm write
    return (p, i.toNat % k.bits)

/-- The flags of a bit test: CF is the bit, the others undefined (R473). -/
def bitStatus (b : Bool) : Op Unit := do
  let u ← undefStatus
  setStatus { u with cf := b }

/-- A bit test that changes the bit (R474 to R476): the unit, with the bit's mask, becomes another. -/
def bitUpdate (s : State) (f : {n : Nat} → BitVec n → BitVec n → BitVec n) (form : BitForm) : Op Unit := do
  let (p, pos) ← bitSelect s.ow true form
  let v ← readPlace s.ow p
  writePlace s.ow p (f v (1 <<< pos))
  bitStatus (v.getLsbD pos)

end Sys2Proof.Machine
namespace Sys2Proof

/-- A bit test's base is memory: LOCK may stand before BTS, BTR and BTC (R474). -/
def BitForm.lockable : BitForm → Bool
  | .rmReg rm _ => !rm.isReg
  | .rmImm rm _ => !rm.isReg

end Sys2Proof
namespace Sys2Proof.Machine

/-- BT (R473). -/
def execBt (f : BitForm) (s : State) : Host.Outcome State Fault Refusal :=
  run false (do
    let (p, pos) ← bitSelect s.ow false f
    let v ← readPlace s.ow p
    bitStatus (v.getLsbD pos)) s

/-- BTS (R474). -/
def execBts (f : BitForm) (s : State) : Host.Outcome State Fault Refusal :=
  run f.lockable (bitUpdate s (fun v m => v ||| m) f) s

/-- BTR (R475). -/
def execBtr (f : BitForm) (s : State) : Host.Outcome State Fault Refusal :=
  run f.lockable (bitUpdate s (fun v m => v &&& ~~~ m) f) s

/-- BTC (R476). -/
def execBtc (f : BitForm) (s : State) : Host.Outcome State Fault Refusal :=
  run f.lockable (bitUpdate s (fun v m => v ^^^ m) f) s

/-! ## Bit scans -/

/-- The least number below n, counted up from i, of a bit that is 1. -/
def scanUp {w : Nat} (v : BitVec w) : Nat → Nat → Nat
  | 0, i => i
  | n + 1, i => if v.getLsbD i then i else scanUp v n (i + 1)

/-- The greatest number below n of a bit that is 1. -/
def scanDown {w : Nat} (v : BitVec w) : Nat → Nat
  | 0 => 0
  | n + 1 => if v.getLsbD n then n else scanDown v n

/-- A bit scan: a zero source leaves the destination (R477). -/
def bitScan (k : Width) (r : Reg) (rm : RM) (scan : Val k → Nat) : Op Unit := do
  let v ← readRM k rm
  let u ← undefStatus
  setStatus { u with zf := decide (v = 0) }
  if v ≠ 0 then setReg k r (BitVec.ofNat k.bits (scan v))

/-- BSF (R477). -/
def execBsf (r : Reg) (rm : RM) (s : State) : Host.Outcome State Fault Refusal :=
  run false (bitScan s.ow r rm fun v => scanUp v s.ow.bits 0) s

/-- BSR (R478). -/
def execBsr (r : Reg) (rm : RM) (s : State) : Host.Outcome State Fault Refusal :=
  run false (bitScan s.ow r rm fun v => scanDown v s.ow.bits) s

end Sys2Proof.Machine
end

