-- ==== Sys2Proof/Machine/Shift.lean ====
section
/-!
DEFINITION. Machine/Shift.lean: shifts and rotates (44_shift_rotate.md), defined bit by bit as R441 says.
-/
namespace Sys2Proof.Machine

/-- One step of a shift or rotate: the operand and CF before and after. -/
abbrev ShiftStep := {n : Nat} → BitVec n → Bool → BitVec n × Bool

/-- A bit as the least significant bit of an operand. -/
def lowBit (n : Nat) (b : Bool) : BitVec n := (BitVec.ofBool b).setWidth n

/-- A bit as the most significant bit of an operand. -/
def highBit (n : Nat) (b : Bool) : BitVec n := lowBit n b <<< (n - 1)

/-- ROL by one (R443). -/
def rolStep : ShiftStep := fun {n} x _ => (x <<< 1 ||| lowBit n x.msb, x.msb)
/-- ROR by one (R444). -/
def rorStep : ShiftStep := fun {n} x _ => (x >>> 1 ||| highBit n (x.getLsbD 0), x.getLsbD 0)
/-- RCL by one (R445). -/
def rclStep : ShiftStep := fun {n} x c => (x <<< 1 ||| lowBit n c, x.msb)
/-- RCR by one (R446). -/
def rcrStep : ShiftStep := fun {n} x c => (x >>> 1 ||| highBit n c, x.getLsbD 0)
/-- SHL by one (R448). -/
def shlStep : ShiftStep := fun x _ => (x <<< 1, x.msb)
/-- SHR by one (R449). -/
def shrStep : ShiftStep := fun x _ => (x >>> 1, x.getLsbD 0)
/-- SAR by one (R450). -/
def sarStep : ShiftStep := fun {n} x _ => (x >>> 1 ||| highBit n x.msb, x.getLsbD 0)

/-- Repeat a step (R441). -/
def shiftBy (step : ShiftStep) {n : Nat} : Nat → BitVec n × Bool → BitVec n × Bool
  | 0, x => x
  | c + 1, x => shiftBy step c (step x.1 x.2)

/-- The count: the low five bits of its source, whatever the width (R441). -/
def shiftCount (s : State) : ShiftCount → Nat
  | .imm i => i.toNat % 32
  | .one => 1
  | .cl => (s.reg .b .ecx).toNat % 32

/-- A rotate: CF from the last step; OF of a single step compares the sign bit with CF, of more steps is undefined; the
other flags stay (R442, D40). A count of 0 changes nothing, but the operand is written back (R441, D39). -/
def rotate (s : State) (wide : Bool) (rm : RM) (count : ShiftCount) (step : ShiftStep) : Op Unit :=
  updateRM (s.width wide) rm fun x => do
    let c := shiftCount s count
    if c = 0 then return x
    else
      let (r, cf) := shiftBy step c (x, s.status.cf)
      let u ← undefStatus
      setStatus { s.status with cf := cf, of := if c = 1 then r.msb != cf else u.of }
      return r

/-- A shift: CF from the last step, SF, ZF and PF from the result, AF undefined, OF of a single step as given, of more
steps undefined (R447). A count of 0 changes nothing, but the operand is written back (R441, D39). -/
def shift (s : State) (wide : Bool) (rm : RM) (count : ShiftCount) (step : ShiftStep)
    (of : {n : Nat} → BitVec n → BitVec n → Bool → Bool) : Op Unit :=
  updateRM (s.width wide) rm fun x => do
    let c := shiftCount s count
    if c = 0 then return x
    else
      let (r, cf) := shiftBy step c (x, s.status.cf)
      let u ← undefStatus
      setStatus ({ u with cf := cf, of := if c = 1 then of x r cf else u.of }.ofResult r)
      return r

/-- ROL (R443). -/
def execRol (wide : Bool) (rm : RM) (c : ShiftCount) (s : State) : Host.Outcome State Fault Refusal :=
  run false (rotate s wide rm c rolStep) s

/-- ROR (R444). -/
def execRor (wide : Bool) (rm : RM) (c : ShiftCount) (s : State) : Host.Outcome State Fault Refusal :=
  run false (rotate s wide rm c rorStep) s

/-- RCL (R445). -/
def execRcl (wide : Bool) (rm : RM) (c : ShiftCount) (s : State) : Host.Outcome State Fault Refusal :=
  run false (rotate s wide rm c rclStep) s

/-- RCR (R446). -/
def execRcr (wide : Bool) (rm : RM) (c : ShiftCount) (s : State) : Host.Outcome State Fault Refusal :=
  run false (rotate s wide rm c rcrStep) s

/-- SHL and SAL, and the alias /6 (R448); OF of one step says that the sign changed (R447, conflict C45). -/
def execShl (_isAlias : Bool) (wide : Bool) (rm : RM) (c : ShiftCount) (s : State) :
    Host.Outcome State Fault Refusal :=
  run false (shift s wide rm c shlStep fun _ r cf => r.msb != cf) s

/-- SHR (R449); OF of one step is the old sign bit. -/
def execShr (wide : Bool) (rm : RM) (c : ShiftCount) (s : State) : Host.Outcome State Fault Refusal :=
  run false (shift s wide rm c shrStep fun x _ _ => x.msb) s

/-- SAR (R450); OF of one step is 0. -/
def execSar (wide : Bool) (rm : RM) (c : ShiftCount) (s : State) : Host.Outcome State Fault Refusal :=
  run false (shift s wide rm c sarStep fun _ _ _ => false) s

/-! ## Double shifts -/

/-- The count of a double shift (R451). -/
def doubleCount (s : State) : DoubleCount → Nat
  | .imm i => i.toNat % 32
  | .cl => (s.reg .b .ecx).toNat % 32

/-- A double shift of x by a count with y supplying bits: the result and CF are given for counts up to the width; beyond
it result and flags are undefined (R451, D41). -/
def doubleShift (s : State) (rm : RM) (count : DoubleCount) (f : Val s.ow → Nat → Val s.ow × Bool) : Op Unit :=
  updateRM s.ow rm fun x => do
    let c := doubleCount s count
    if c = 0 then return x
    else
      let u ← undefStatus
      if c ≤ s.ow.bits then
        setStatus ({ u with cf := (f x c).2 }.ofResult (f x c).1)
        return (f x c).1
      else
        let n ← fresh
        setStatus u
        return (Config.undefDword n).setWidth s.ow.bits

/-- SHLD (R451). -/
def execShld (rm : RM) (r : Reg) (c : DoubleCount) (s : State) : Host.Outcome State Fault Refusal :=
  run false (doubleShift s rm c fun x c =>
    (((x ++ s.reg s.ow r) <<< c).extractLsb' s.ow.bits s.ow.bits, x.getLsbD (s.ow.bits - c))) s

/-- SHRD (R452). -/
def execShrd (rm : RM) (r : Reg) (c : DoubleCount) (s : State) : Host.Outcome State Fault Refusal :=
  run false (doubleShift s rm c fun x c =>
    (((s.reg s.ow r ++ x) >>> c).extractLsb' 0 s.ow.bits, x.getLsbD (c - 1))) s

end Sys2Proof.Machine
end

