-- ==== Sys2Proof/Machine/Strings.lean ====
section
/-!
DEFINITION. Machine/Strings.lean: input and output (41_io.md) and the string instructions (46_string.md).
-/
namespace Sys2Proof.Machine

/-! ## The I/O permission check -/

/-- The bits of the I/O permission map that guard n ports from a port on are all 0 (R363). -/
def mapAllows (bits : BitVec 16) (port : BitVec 16) (n : Nat) : Bool :=
  bits &&& (BitVec.ofNat 16 (2 ^ n - 1) <<< (port.toNat % 8)) == 0#16

/-- BitmapCheck (R363, D22). DESIGN CHOICE, unsafe (assumption log 51): a 32-bit TSS too short for the word that locates
the map is #GP(0), before that word is read; R363 tests nothing there, and 21_segmentation.md R182 speaks of #TS. -/
def bitmapCheck (port : BitVec 16) (n : Nat) : Op Unit := do
  let s ← get
  if !s.tr.isTss32 || decide (s.tr.limit.toNat < 0x67) then raiseGP 0
  else
    let iobase ← linRead (s.tr.base + 0x66) 2
    let byteoff := iobase + port.toNat / 8
    if s.tr.limit.toNat < byteoff + 1 then raiseGP 0
    else
      let bits ← linRead (s.tr.base + BitVec.ofNat 32 byteoff) 2
      if mapAllows (BitVec.ofNat 16 bits) port n then return ()
      else raiseGP 0

/-- IOCheck (R360, R361). -/
def ioCheck (port : BitVec 16) (n : Nat) : Op Unit := do
  let s ← get
  if !s.pe then return ()
  else if s.vm then bitmapCheck port n
  else if s.cpl.toNat ≤ s.iopl.toNat then return ()
  else bitmapCheck port n

/-- IORead: the value is the device's, a free value (20_memory.md R107, D13). -/
def ioRead (k : Width) (port : BitVec 16) : Op (Val k) := do
  let c ← fresh
  let v : Val k := (Config.ioRead c port k.bytes).setWidth k.bits
  modify fun s => { s with out := .ioRead port k.bytes (v.setWidth 32) :: s.out }
  return v

/-- IOWrite (R107). -/
def ioWrite (k : Width) (port : BitVec 16) (v : Val k) : Op Unit :=
  modify fun s => { s with out := .ioWrite port k.bytes (v.setWidth 32) :: s.out }

/-- The width and port of IN and OUT: an immediate byte or DX (R365). -/
def State.portOf (s : State) : PortForm → Width × BitVec 16
  | .imm wide p => (s.width wide, p.setWidth 16)
  | .dx wide => (s.width wide, s.reg .w .edx)

/-- IN (R365). -/
def execIn (f : PortForm) (s : State) : Host.Outcome State Fault Refusal :=
  run false (do
    ioCheck (s.portOf f).2 (s.portOf f).1.bytes
    let v ← ioRead (s.portOf f).1 (s.portOf f).2
    setAcc (s.portOf f).1 v) s

/-- OUT (R366). -/
def execOut (f : PortForm) (s : State) : Host.Outcome State Fault Refusal :=
  run false (do
    ioCheck (s.portOf f).2 (s.portOf f).1.bytes
    ioWrite (s.portOf f).1 (s.portOf f).2 (s.reg (s.portOf f).1 .eax)) s

/-! ## Elements and repetition -/

/-- An index register as an offset: 32 bits, or 16 zero-extended (R490). -/
def State.index (s : State) (r : Reg) : Dword := (s.reg s.aw r).setWidth 32

/-- Move an index register by an element of n bytes, up or down by DF (R490). -/
def State.advance (s : State) (n : Nat) (r : Reg) : State :=
  s.setReg s.aw r (if bit s.eflags 10 then s.reg s.aw r - BitVec.ofNat s.aw.bits n
                   else s.reg s.aw r + BitVec.ofNat s.aw.bits n)

/-- Prepare the source element: DS unless overridden (R490). -/
def prepareSource (k : Width) : Op Ref := do
  let s ← get
  prepare (s.segFor .ds) (s.index .esi) k.bytes false

/-- Prepare the destination element: always ES (R490). -/
def prepareDest (k : Width) (write : Bool) : Op Ref := do
  let s ← get
  prepare .es (s.index .edi) k.bytes write

/-- Read a prepared element. -/
def readElem (k : Width) (r : Ref) : Op (Val k) := do
  let v ← readRef r
  return BitVec.ofNat k.bits v

/-- The count register is zero: (E)CX by the address size (R510). -/
def State.countZero (s : State) : Bool := s.reg s.aw .ecx == 0

/-- One off the count register (R510). -/
def State.countDown (s : State) : State := s.setReg s.aw .ecx (s.reg s.aw .ecx - 1)

/-- One step of a string instruction: one element without a repeat prefix; with one, RepStep of R510, whose ZF test
(R511) concerns the comparing instructions. Where the instruction goes on, it is the next step again. -/
def stringStep (compares : Bool) (elem : Op Unit) : Op End := do
  let s ← get
  match s.pfx.rep with
  | none =>
    elem
    return .done
  | some whileEqual =>
    if s.countZero then return .done
    else
      elem
      modify State.countDown
      let t ← get
      if t.countZero || (compares && t.status.zf != whileEqual) then return .done
      else
        modify fun t => { t with nextEip := t.eip }
        return .again

/-- One element of MOVS: both operands are checked first (R492). -/
def movsElem (k : Width) : Op Unit := do
  let src ← prepareSource k
  let dst ← prepareDest k true
  let v ← readElem k src
  writeRef dst v.toNat
  modify fun s => (s.advance k.bytes .esi).advance k.bytes .edi

/-- One element of CMPS: the flags of source minus destination (R493). -/
def cmpsElem (k : Width) : Op Unit := do
  let src ← prepareSource k
  let dst ← prepareDest k false
  let a ← readElem k src
  let b ← readElem k dst
  setStatus (subStatus a b false)
  modify fun s => (s.advance k.bytes .esi).advance k.bytes .edi

/-- One element of SCAS: the flags of accumulator minus element (R494). -/
def scasElem (k : Width) : Op Unit := do
  let dst ← prepareDest k false
  let b ← readElem k dst
  let a ← getAcc k
  setStatus (subStatus a b false)
  modify fun s => s.advance k.bytes .edi

/-- One element of LODS (R495). -/
def lodsElem (k : Width) : Op Unit := do
  let src ← prepareSource k
  let v ← readElem k src
  setAcc k v
  modify fun s => s.advance k.bytes .esi

/-- One element of STOS (R496). -/
def stosElem (k : Width) : Op Unit := do
  let dst ← prepareDest k true
  let v ← getAcc k
  writeRef dst v.toNat
  modify fun s => s.advance k.bytes .edi

/-- One element of INS: every check comes before the port is read (R367, R368). -/
def insElem (k : Width) : Op Unit := do
  let port ← getReg .w .edx
  ioCheck port k.bytes
  let dst ← prepareDest k true
  let v ← ioRead k port
  writeRef dst v.toNat
  modify fun s => s.advance k.bytes .edi

/-- One element of OUTS (R369, D35). -/
def outsElem (k : Width) : Op Unit := do
  let port ← getReg .w .edx
  ioCheck port k.bytes
  let src ← prepareSource k
  let v ← readElem k src
  ioWrite k port v
  modify fun s => s.advance k.bytes .esi

/-- INSB (R367). -/
def execInsb (s : State) : Host.Outcome State Fault Refusal := runEnd false (stringStep false (insElem .b)) s
/-- INSW, INSD (R367). -/
def execInsv (s : State) : Host.Outcome State Fault Refusal := runEnd false (stringStep false (insElem s.ow)) s
/-- OUTSB (R369). -/
def execOutsb (s : State) : Host.Outcome State Fault Refusal := runEnd false (stringStep false (outsElem .b)) s
/-- OUTSW, OUTSD (R369). -/
def execOutsv (s : State) : Host.Outcome State Fault Refusal := runEnd false (stringStep false (outsElem s.ow)) s
/-- MOVSB (R492). -/
def execMovsb (s : State) : Host.Outcome State Fault Refusal := runEnd false (stringStep false (movsElem .b)) s
/-- MOVSW, MOVSD (R492). -/
def execMovsv (s : State) : Host.Outcome State Fault Refusal := runEnd false (stringStep false (movsElem s.ow)) s
/-- CMPSB (R493). -/
def execCmpsb (s : State) : Host.Outcome State Fault Refusal := runEnd false (stringStep true (cmpsElem .b)) s
/-- CMPSW, CMPSD (R493). -/
def execCmpsv (s : State) : Host.Outcome State Fault Refusal := runEnd false (stringStep true (cmpsElem s.ow)) s
/-- STOSB (R496). -/
def execStosb (s : State) : Host.Outcome State Fault Refusal := runEnd false (stringStep false (stosElem .b)) s
/-- STOSW, STOSD (R496). -/
def execStosv (s : State) : Host.Outcome State Fault Refusal := runEnd false (stringStep false (stosElem s.ow)) s
/-- LODSB (R495). -/
def execLodsb (s : State) : Host.Outcome State Fault Refusal := runEnd false (stringStep false (lodsElem .b)) s
/-- LODSW, LODSD (R495). -/
def execLodsv (s : State) : Host.Outcome State Fault Refusal := runEnd false (stringStep false (lodsElem s.ow)) s
/-- SCASB (R494). -/
def execScasb (s : State) : Host.Outcome State Fault Refusal := runEnd false (stringStep true (scasElem .b)) s
/-- SCASW, SCASD (R494). -/
def execScasv (s : State) : Host.Outcome State Fault Refusal := runEnd false (stringStep true (scasElem s.ow)) s

end Sys2Proof.Machine
end

