-- ==== Sys2Proof/Machine/System.lean ====
section
/-!
DEFINITION. Machine/System.lean: protection control, system registers and the remaining instructions
(49_system_misc.md; 22_paging.md R240 to R244; 62_debug_superstate.md R836).
-/
namespace Sys2Proof.Machine

/-! ## Selectors and descriptors -/

/-- ARPL: checked as a write even when nothing is written (R611, D55). -/
def execArpl (rm : RM) (r : Reg) (s : State) : Host.Outcome State Fault Refusal :=
  run false (do
    requireProtected
    let p ← locate .w rm true
    let d : BitVec 16 ← readPlace .w p
    let src : BitVec 16 := s.reg .w r
    if (rpl d).toNat < (rpl src).toNat then
      writePlace .w p (selCode d ||| (rpl src).setWidth 16)
      setFlagBit 6 true
    else setFlagBit 6 false) s

/-- Inspect: no selector makes it fault; the descriptor is one access of eight bytes, which may page-fault (R612). -/
def inspect (sel : BitVec 16) : Op (Option Desc) := do
  if isNull sel then return none
  else
    let s ← get
    match s.descAddr sel with
    | none => return none
    | some lin =>
      let d ← descRead lin
      return some d

/-- Reachable (R612, D56). -/
def reachable (cpl : BitVec 2) (sel : BitVec 16) (d : Desc) : Bool :=
  d.isConforming || decide ((maxLevel cpl (rpl sel)).toNat ≤ d.dpl.toNat)

/-- TypeOkLSL: a code or data segment, a TSS or an LDT (R614). -/
def Desc.okForLsl (d : Desc) : Bool := d.isSeg || d.isTss || d.isLdt

/-- TypeOkLAR: also call gates and task gates (R613, D56). -/
def Desc.okForLar (d : Desc) : Bool := d.okForLsl || d.isCallGate || d.isTaskGate

/-- The look-up of LAR, LSL, VERR and VERW: the descriptor when it is visible, of a kind, and reachable (R612). -/
def visible (rm : RM) (kind : Desc → Bool) : Op (Option Desc) := do
  requireProtected
  let sel ← readRM .w rm
  let s ← get
  let d ← inspect sel
  return d.filter fun d => kind d && reachable s.cpl sel d

/-- LAR: bits 19:16 are undefined (R613). -/
def execLar (r : Reg) (rm : RM) (s : State) : Host.Outcome State Fault Refusal :=
  run false (do
    match ← visible rm Desc.okForLar with
    | none => setFlagBit 6 false
    | some d =>
      let k ← fresh
      let v := (d.hi &&& 0x00F0FF00) ||| (Config.undefDword k &&& 0x000F0000)
      setReg s.ow r (v.setWidth s.ow.bits)
      setFlagBit 6 true) s

/-- LSL (R614). -/
def execLsl (r : Reg) (rm : RM) (s : State) : Host.Outcome State Fault Refusal :=
  run false (do
    match ← visible rm Desc.okForLsl with
    | none => setFlagBit 6 false
    | some d =>
      setReg s.ow r (d.limit.setWidth s.ow.bits)
      setFlagBit 6 true) s

/-- VERR (R615). -/
def execVerr (rm : RM) (s : State) : Host.Outcome State Fault Refusal :=
  run false (do
    let d ← visible rm Desc.isReadable
    setFlagBit 6 d.isSome) s

/-- VERW (R616). -/
def execVerw (rm : RM) (s : State) : Host.Outcome State Fault Refusal :=
  run false (do
    let d ← visible rm Desc.isWritable
    setFlagBit 6 d.isSome) s

/-! ## Descriptor-table registers -/

/-- The six-byte image of a table register, read as two accesses; with OS = 16 the base has 24 bits (R617, R618,
D57). DESIGN CHOICE, unsafe (assumption log 52): the limit is tested for all six bytes before a page is. -/
def readTable (os32 : Bool) (rm : RM) : Op TableReg := do
  let (seg, ea, _) ← memOperand rm
  requireCpl0
  checkWhole seg ea 6 false
  let (lim, b) ← readParts (prepare seg ea 2 false) (prepare seg (ea + 2) 4 false)
  let base : Dword := BitVec.ofNat 32 b
  return { base := if os32 then base else base &&& 0x00FFFFFF, limit := BitVec.ofNat 16 lim }

/-- LGDT (R618). -/
def execLgdt (rm : RM) (s : State) : Host.Outcome State Fault Refusal :=
  run false (do
    let t ← readTable s.os32 rm
    modify fun s => { s with gdtr := t }) s

/-- LIDT (R619). -/
def execLidt (rm : RM) (s : State) : Host.Outcome State Fault Refusal :=
  run false (do
    let t ← readTable s.os32 rm
    modify fun s => { s with idtr := t }) s

/-- Store the six-byte image; both writes are checked first; with OS = 16 the last byte is undefined (R620, U6). DESIGN
CHOICE, unsafe (assumption log 52): the limit is tested for all six bytes before a page is. -/
def writeTable (os32 : Bool) (rm : RM) (t : TableReg) : Op Unit := do
  let (seg, ea, _) ← memOperand rm
  checkWhole seg ea 6 true
  let lo ← prepare seg ea 2 true
  let hi ← prepare seg (ea + 2) 4 true
  let k ← fresh
  let base := if os32 then t.base else (Config.undefDword k &&& 0xFF000000) ||| (t.base &&& 0x00FFFFFF)
  writeRef lo t.limit.toNat
  writeRef hi base.toNat

/-- SGDT (R620). -/
def execSgdt (rm : RM) (s : State) : Host.Outcome State Fault Refusal := run false (writeTable s.os32 rm s.gdtr) s

/-- SIDT (R621). -/
def execSidt (rm : RM) (s : State) : Host.Outcome State Fault Refusal := run false (writeTable s.os32 rm s.idtr) s

/-- LLDT (R622). -/
def execLldt (rm : RM) (s : State) : Host.Outcome State Fault Refusal :=
  run false (do
    requireProtected
    requireCpl0
    let sel ← readRM .w rm
    loadLdtr sel) s

/-- LTR (R624). -/
def execLtr (rm : RM) (s : State) : Host.Outcome State Fault Refusal :=
  run false (do
    requireProtected
    requireCpl0
    let sel ← readRM .w rm
    loadTr sel) s

/-- SLDT: 16 bits whatever OS is, at any CPL (R623, D58, conflict C60). -/
def execSldt (rm : RM) (s : State) : Host.Outcome State Fault Refusal :=
  run false (do
    requireProtected
    writeRM .w rm s.ldtr.sel) s

/-- STR (R625). -/
def execStr (rm : RM) (s : State) : Host.Outcome State Fault Refusal :=
  run false (do
    requireProtected
    writeRM .w rm s.tr.sel) s

/-- The entries of the TLB that a mask keeps valid (22_paging.md R234). -/
def Tlb.retained (t : Tlb) (m : BitVec 32) : Tlb :=
  { t with entries := Vector.ofFn fun i => { t.entries[i] with v := t.entries[i].v && m.getLsbD i.val } }

/-- CR0 written. Where PE becomes 1, CPL is a given one; in real mode it is 0 (10_state.md R48). A change of PE or PG
leaves nothing fetched under the old setting (D85). When paging is turned off each entry of the TLB stays valid or does
not, by a free value (22_paging.md R234). -/
def State.putCr0 (s : State) (v : Dword) (entry : BitVec 2) : State :=
  { s with
    cr0 := v
    tlb := if s.pg && !bit v 31 then s.tlb.retained (Config.tlbRetained s.free) else s.tlb
    free := if s.pg && !bit v 31 then s.free + 1 else s.free
    cpl := if bit v 0 = s.pe then s.cpl else if bit v 0 then entry else 0
    queue := if bit v 0 = s.pe ∧ bit v 31 = s.pg then s.queue else [] }

/-- LMSW: it can set PE, not clear it; CPL then stays 0 (R626), or is bits 1:0 of CS's selector, as 10_state.md R48 and
63_processor_modes.md R814 derive: a parameter, with R626's reading in State.reset (assumption log 53). -/
def execLmsw (rm : RM) (s : State) : Host.Outcome State Fault Refusal :=
  run false (do
    requireCpl0
    let v : BitVec 16 ← readRM .w rm
    modify fun s => s.putCr0 ((s.cr0 &&& ~~~ 0xE) ||| (v.setWidth 32 &&& 0xF))
      (if s.cfg.lmswKeepsCpl then 0 else rpl s.segs.cs.sel)) s

/-- SMSW (R627, D58). -/
def execSmsw (rm : RM) (s : State) : Host.Outcome State Fault Refusal :=
  run false (writeRM .w rm (s.cr0.extractLsb' 0 16)) s

/-! ## Control, debug and test registers -/

/-- The tests of the six MOV opcodes of special registers, in their order (R628, D5). -/
def specialMove (mod : BitVec 2) (defined : Bool) : Op Unit := do
  if mod ≠ 3 then raiseUD
  else if !defined then raiseUD
  else requireCpl0

/-- The status flags are undefined behind these moves (R628). -/
def flagsUndefined : Op Unit := do
  let u ← undefStatus
  setStatus u

/-- The control register of a number that exists (R629). -/
def State.crGet (s : State) (n : BitVec 3) : Dword :=
  if n = 0 then s.cr0 else if n = 2 then s.cr2 else s.cr3

/-- MOV r32, CRn (R630). -/
def execMovFromCr (mod : BitVec 2) (n : BitVec 3) (r : Reg) (s : State) : Host.Outcome State Fault Refusal :=
  run false (do
    specialMove mod (crExists n)
    setReg .d r (s.crGet n)
    flagsUndefined) s

/-- CR0 with the writable bits PG, TS, EM, MP, PE of a value (10_state.md R56). -/
def cr0Write (old v : Dword) : Dword := (old &&& ~~~ 0x8000000F) ||| (v &&& 0x8000000F)

/-- CR3 written and the TLB invalidated; with paging on, bytes fetched ahead under the old mapping stay in the queue
(R629; 22_paging.md R234; 20_memory.md R139). -/
def State.putCr3 (s : State) (v : Dword) : State :=
  let t := s.keepAhead
  { t with cr3 := v, tlb := t.tlb.flush }

/-- A write of a control register: CR0 with PG and without PE is #GP(0), and where PE becomes 1, CPL is what CS's
selector says (63_processor_modes.md R814; assumption log 17); CR3's low bits are 0 and the TLB is invalidated (R629;
22_paging.md R234). -/
def crPut (n : BitVec 3) (v : Dword) : Op Unit := do
  if n = 0 then
    if bit v 31 && !bit v 0 then raiseGP 0
    else modify fun s => s.putCr0 (cr0Write s.cr0 v) (rpl s.segs.cs.sel)
  else if n = 2 then modify fun s => { s with cr2 := v }
  else modify fun s => s.putCr3 (v &&& 0xFFFFF000)

/-- MOV CRn, r32 (R629). -/
def execMovToCr (mod : BitVec 2) (n : BitVec 3) (r : Reg) (s : State) : Host.Outcome State Fault Refusal :=
  run false (do
    specialMove mod (crExists n)
    crPut n (s.reg .d r)
    flagsUndefined) s

/-- General detect: with DR7.GD set the access faults, DR6.BD is set and GD cleared (62_debug_superstate.md R836,
D80). -/
def generalDetect : Op Unit := do
  let s ← get
  if bit s.dregs.dr7 13 then
    modify fun s => { s with dregs := { s.dregs with dr6 := s.dregs.dr6 ||| 0x2000,
                                                     dr7 := s.dregs.dr7 &&& ~~~ 0x2000 } }
    raise 1 none

/-- The debug register of a number that exists (R631). -/
def DebugRegs.get (d : DebugRegs) (n : BitVec 3) : Dword :=
  if n = 0 then d.dr0 else if n = 1 then d.dr1 else if n = 2 then d.dr2 else if n = 3 then d.dr3
  else if n = 6 then d.dr6 else d.dr7

/-- Write the debug register of a number that exists; reserved bits are kept (R631, D9). -/
def DebugRegs.set (d : DebugRegs) (n : BitVec 3) (v : Dword) : DebugRegs :=
  if n = 0 then { d with dr0 := v } else if n = 1 then { d with dr1 := v } else if n = 2 then { d with dr2 := v }
  else if n = 3 then { d with dr3 := v } else if n = 6 then { d with dr6 := v } else { d with dr7 := v }

/-- MOV r32, DRn (R632). -/
def execMovFromDr (mod : BitVec 2) (n : BitVec 3) (r : Reg) (s : State) : Host.Outcome State Fault Refusal :=
  run false (do
    specialMove mod (drExists n)
    generalDetect
    setReg .d r (s.dregs.get n)
    flagsUndefined) s

/-- MOV DRn, r32 (R631). -/
def execMovToDr (mod : BitVec 2) (n : BitVec 3) (r : Reg) (s : State) : Host.Outcome State Fault Refusal :=
  run false (do
    specialMove mod (drExists n)
    generalDetect
    modify fun t => { t with dregs := t.dregs.set n (s.reg .d r) }
    flagsUndefined) s

/-- The TLB attribute a write command gives: pair 01 clears it, 10 sets it, 00 and 11 leave it to a free value
(22_paging.md R241). -/
def tlbAttr (pair : BitVec 2) (u : Bool) : Bool := if pair = 1 then false else if pair = 2 then true else u

/-- A search command's attribute pair matches: 00 nothing, 01 a clear attribute, 10 a set one, 11 either
(22_paging.md R241). -/
def pairMatches (pair : BitVec 2) (b : Bool) : Bool :=
  (pair = 1 && !b) || (pair = 2 && b) || pair = 3

/-- An attribute as TR6 reports it: 10 set, 01 clear (22_paging.md R241). -/
def pairOf (b : Bool) : BitVec 2 := if b then 2 else 1

/-- The TLB write command (22_paging.md R242): without PL, the way is the replacement counter's, which references the
model does not count have moved by a free value (R231). -/
def tlbWriteCommand (c : Dword) (u : Dword) (s : State) : State :=
  let way := if bit s.tr7 4 then s.tr7.extractLsb' 2 2 else s.tlb.counter + Config.tlbVictim s.free
  let e : TlbEntry :=
    { v := bit c 11, tag := c.extractLsb' 12 20, pa := s.tr7.extractLsb' 12 20,
      d := tlbAttr (c.extractLsb' 9 2) (bit u 0), u := tlbAttr (c.extractLsb' 7 2) (bit u 1),
      w := tlbAttr (c.extractLsb' 5 2) (bit u 2) }
  { s with tlb := s.tlb.put (c.extractLsb' 12 20) way e }

/-- The ways a TLB search command finds, valid or not (22_paging.md R243). -/
def searchWays (t : Tlb) (c : Dword) : List (BitVec 2) :=
  [0#2, 1#2, 2#2, 3#2].filter fun k =>
    let e := t.entries[tlbIndex (c.extractLsb' 12 20) k]
    e.tag == c.extractLsb' 12 20 && pairMatches (c.extractLsb' 9 2) e.d && pairMatches (c.extractLsb' 7 2) e.u
      && pairMatches (c.extractLsb' 5 2) e.w

/-- The TLB search command: a unique match is returned in TR6 and TR7; otherwise PL is 0 and the page and REP
of TR7 have no meaning (22_paging.md R243). The bits that are not described stay as written (R244;
93_implementation_defined.md). -/
def tlbSearchCommand (c : Dword) (u : Dword) (s : State) : State :=
  match searchWays s.tlb c with
  | [k] =>
    let e := s.tlb.entries[tlbIndex (c.extractLsb' 12 20) k]
    { s with
      tr7 := e.pa ++ s.tr7.extractLsb' 5 7 ++ 1#1 ++ k ++ s.tr7.extractLsb' 0 2
      tr6 := c.extractLsb' 12 20 ++ BitVec.ofBool e.v ++ pairOf e.d ++ pairOf e.u ++ pairOf e.w
        ++ c.extractLsb' 0 5 }
  | _ => { s with tr7 := (u &&& 0xFFFFF00C) ||| (s.tr7 &&& 0xFE3) }

/-- A write of a test register: TR7 only stores; TR6 performs its command, which needs paging off (R633;
22_paging.md R240). -/
def trPut (n : BitVec 3) (v : Dword) : Op Unit := do
  let s ← get
  if n = 7 then modify fun s => { s with tr7 := v }
  else if s.pg then throw (.refuse .tlbTestWithPaging)
  else
    let k ← fresh
    modify fun s => { s with tr6 := v }
    modify (if bit v 0 then tlbSearchCommand v (Config.undefDword k) else tlbWriteCommand v (Config.undefDword k))

/-- MOV r32, TRn (R633). -/
def execMovFromTr (mod : BitVec 2) (n : BitVec 3) (r : Reg) (s : State) : Host.Outcome State Fault Refusal :=
  run false (do
    specialMove mod (trExists n)
    setReg .d r (if n = 6 then s.tr6 else s.tr7)
    flagsUndefined) s

/-- MOV TRn, r32 (R633). -/
def execMovToTr (mod : BitVec 2) (n : BitVec 3) (r : Reg) (s : State) : Host.Outcome State Fault Refusal :=
  run false (do
    specialMove mod (trExists n)
    trPut n (s.reg .d r)
    flagsUndefined) s

/-- CLTS (R635). -/
def execClts (s : State) : Host.Outcome State Fault Refusal :=
  run false (do
    requireCpl0
    modify fun s => { s with cr0 := s.cr0 &&& ~~~ 8 }) s

/-! ## Frames, addresses, bounds -/

/-- BOUND: signed, both bounds inclusive; both are checked before either is read (R640, D59; 22_paging.md R224). -/
def execBound (r : Reg) (rm : RM) (s : State) : Host.Outcome State Fault Refusal :=
  run false (do
    let (seg, ea, is32) ← memOperand rm
    let n := s.ow.bytes
    let (lo, hi) ← readParts (prepare seg ea n false) (prepare seg (eaAdd is32 ea (BitVec.ofNat 32 n)) n false)
    let i := (s.reg s.ow r).toInt
    if i < (BitVec.ofNat s.ow.bits lo).toInt ∨ (BitVec.ofNat s.ow.bits hi).toInt < i then raise 5 none) s

/-- A step of building a frame: copy an item, prepared for both halves, or store a value. -/
inductive FrameStep where
  | copy (src dst : Ref)
  | store (dst : Ref) (v : Nat)
deriving DecidableEq, Repr

/-- Prepare the copies of k display pointers of n bytes, from below bp to below sp; where bp and sp end comes back with
them (R641). -/
def prepareDisplay (big : Bool) (n : Nat) : Nat → Dword → Dword → Op (List FrameStep × Dword × Dword)
  | 0, bp, sp => return ([], bp, sp)
  | k + 1, bp, sp => do
    let bp := spAdd big bp (0 - BitVec.ofNat 32 n)
    let sp := spAdd big sp (0 - BitVec.ofNat 32 n)
    let src ← prepare .ss bp n false
    let dst ← prepare .ss sp n true
    let (l, ends) ← prepareDisplay big n k bp sp
    return (.copy src dst :: l, ends)

/-- Make prepared steps. -/
def makeFrame : List FrameStep → Op Unit
  | [] => return ()
  | .copy src dst :: rest => do
    let v ← readRef src
    writeRef dst v
    makeFrame rest
  | .store dst v :: rest => do
    writeRef dst v
    makeFrame rest

/-- ENTER: every access is checked before any is made. The loop counts EBP itself down on a 32-bit stack, so that with
OS = 16 a borrow shows in EBP[31:16] (R641, D60). With OS = 32 on a 16-bit stack the frame pointer, which is SP, is
zero-extended into EBP and into the frame: DESIGN CHOICE, unsafe (assumption log 48). -/
def execEnter (size : BitVec 16) (level : BitVec 8) (s : State) : Host.Outcome State Fault Refusal :=
  run false (do
    let n := s.ow.bytes
    let big := s.segs.ss.attr.db
    let less := 0 - BitVec.ofNat 32 n
    let frame := spAdd big s.sp less
    let first ← prepare .ss frame n true
    let bp : Dword := if big then s.regs.ebp else s.regs.ebp &&& 0xFFFF
    let lv := level.toNat % 32
    let (display, bpEnd, sp) ← prepareDisplay big n (lv - 1) bp frame
    let last ← if lv = 0 then pure []
      else do
        let r ← prepare .ss (spAdd big sp less) n true
        pure [FrameStep.store r (frame.toNat % 256 ^ n)]
    makeFrame (.store first (s.reg s.ow .ebp).toNat :: display ++ last)
    let spEnd := if lv = 0 then sp else spAdd big sp less
    if big then setReg .d .ebp bpEnd
    setReg s.ow .ebp (frame.setWidth s.ow.bits)
    modify fun t => t.setSp (spAdd big spEnd (0 - size.setWidth 32))) s

/-- LEAVE (R642). -/
def execLeave (s : State) : Host.Outcome State Fault Refusal :=
  run false (do
    let big := s.segs.ss.attr.db
    let t : Dword := if big then s.regs.ebp else s.regs.ebp &&& 0xFFFF
    let v ← memRead .ss t s.ow.bytes
    modify fun u => u.setSp (spAdd big t (BitVec.ofNat 32 s.ow.bytes))
    setReg s.ow .ebp (BitVec.ofNat s.ow.bits v)) s

/-- LEA (R643, conflict C69). -/
def execLea (r : Reg) (rm : RM) (s : State) : Host.Outcome State Fault Refusal :=
  run false (do
    let (_, ea, _) ← memOperand rm
    setReg s.ow r (ea.setWidth s.ow.bits)) s

/-- XLATB (R645). -/
def execXlatb (s : State) : Host.Outcome State Fault Refusal :=
  run false (do
    let base : Dword := (s.reg s.aw .ebx).setWidth 32
    let al : BitVec 8 := s.reg .b .eax
    let v ← memRead (s.segFor .ds) (eaAdd s.as32 base (al.setWidth 32)) 1
    setReg .b .eax (BitVec.ofNat 8 v)) s

/-- HLT: the halt cycle is signalled and nothing executes until an interrupt (R646; 62_debug_superstate.md R871,
R872). -/
def execHlt (s : State) : Host.Outcome State Fault Refusal :=
  run false (do
    requireCpl0
    modify fun s => { s with run := .halted, out := .haltCycle 0 :: s.out }) s

/-! ## Coprocessor -/

/-- ESC: #NM, #MF, or the coprocessor's own meaning, which another manual gives (R655, D61). -/
def execEsc (_op _ext : BitVec 3) (_rm : RM) (s : State) : Host.Outcome State Fault Refusal :=
  run false (if bit s.cr0 2 || bit s.cr0 3 then raiseNM
    else if !s.cfg.coprocessorPresent then raiseNM
    else if s.lines.error then raiseMF
    else throw (.refuse .coprocessor)) s

/-- WAIT: #NM with MP and TS set; #MF on ERROR whatever EM is (R656, D61), or only while EM is 0 (60_exceptions.md R693,
R728): a parameter, with R656's reading in State.reset (assumption log 53); while BUSY is active the same instruction is the next step, interruptible and not yet complete
(R656, D61). -/
def execWait (s : State) : Host.Outcome State Fault Refusal :=
  runEnd false (if bit s.cr0 1 && bit s.cr0 3 then raiseNM
    else if s.lines.error && !(bit s.cr0 2 && s.cfg.emMasksWait) then raiseMF
    else if s.lines.busy then do
      modify fun s => { s with nextEip := s.eip }
      return .waits
    else return .done) s

/-! ## SCALL and the undefined encodings -/

/-- A function of SCALL that succeeds (R664). -/
def scallOk (p : Place) (v : Option Dword) : Op Unit := do
  setFlagBit 0 false
  match v with
  | none => pure ()
  | some x => writePlace .d p x

/-- A function of SCALL that fails (R664). -/
def scallFail (p : Place) : Op Unit := do
  setFlagBit 0 true
  writePlace .d p 0xFFFFFFFF#32

/-- SuperState V enabled, with the primary or the secondary descriptor address (R664). -/
def State.enableSsv (s : State) (secondary : Bool) : State :=
  { s with ssv := { s.ssv with enabled := true, secondary := secondary } }

/-- The vectors 0 to 7 of SCALL, and the failing ones (R664, D62). -/
def scallFunction (s : State) (p : Place) (modrm : Byte) (v : Dword) : Op Unit :=
  if bit v 31 then
    if !s.ssv.enabled then scallFail p
    else modify fun t => t.enterSsv t.nextEip v (t.regs.ebx.extractLsb' 16 16 ++ modrm ++ t.regs.ebx.extractLsb' 0 8)
  else match v.toNat with
    | 0 => scallOk p (some (0#16 ++ s.cfg.stepping ++ s.cfg.part.typeCode))
    | 1 => if s.level ≠ 0 then scallFail p else do
        modify fun t => t.enableSsv false
        scallOk p none
    | 2 => if s.level ≠ 0 then scallFail p else do
        modify fun t => t.enableSsv true
        scallOk p none
    | 4 => if s.level ≠ 0 || !s.cfg.part.hasIcache then scallFail p else do
        modify fun t => { t with icache := { t.icache with enabled := false } }
        scallOk p none
    | 5 => if s.level ≠ 0 || !s.cfg.part.hasIcache then scallFail p else do
        modify fun t => { t.drew with icache := t.icache.enable t.free }
        scallOk p none
    | 6 => scallOk p (some (if s.cfg.part.hasIcache && s.icache.enabled then 1 else 0))
    | 7 => if !s.cfg.part.hasIcache then scallFail p else do
        modify fun t => { t with icache := t.icache.flush }
        scallOk p none
    | _ => scallFail p

/-- SCALL: #UD on the parts without SuperState V; a memory operand is checked as a write (R664, D33, D62). -/
def execScall (r : Reg) (rm : RM) (s : State) : Host.Outcome State Fault Refusal :=
  run false (do
    if !s.cfg.part.hasSsv then raiseUD
    else
      let p ← locate .d rm true
      let v ← readPlace .d p
      scallFunction s p ((rm.enc r.num).headD 0) v) s

/-- Opcodes 0F 10 to 0F 17, active only in SuperState V mode: #UD outside it (30_encoding.md R303). -/
def execSsvLow (_n : BitVec 3) (s : State) : Host.Outcome State Fault Refusal := run true raiseUD s

/-- Opcodes 0F F0 to 0F FF, active only in SuperState V mode: #UD outside it (30_encoding.md R303). -/
def execSsvHigh (_n : BitVec 4) (s : State) : Host.Outcome State Fault Refusal := run true raiseUD s

/-- A bit pattern that is no instruction: #UD (30_encoding.md R300, R301). -/
def execUndefined (_u : Undef) (s : State) : Host.Outcome State Fault Refusal := run true raiseUD s

end Sys2Proof.Machine
end

