-- ==== Sys2Proof/Machine/Dispatch.lean ====
section
/-!
DEFINITION. Machine/Dispatch.lean: one arm per constructor of Instr, each one call of the instruction's meaning.
-/
namespace Sys2Proof.Machine

/-- The meaning of an instruction, or its rejection by name. -/
def exec (i : Instr) (s : State) : Host.Outcome State Fault Refusal :=
  match i with
  | .segEs => Sys2Proof.Machine.execSegEs s
  | .segCs => Sys2Proof.Machine.execSegCs s
  | .segSs => Sys2Proof.Machine.execSegSs s
  | .segDs => Sys2Proof.Machine.execSegDs s
  | .segFs => Sys2Proof.Machine.execSegFs s
  | .segGs => Sys2Proof.Machine.execSegGs s
  | .opsize => Sys2Proof.Machine.execOpsize s
  | .adrsize => Sys2Proof.Machine.execAdrsize s
  | .lock => Sys2Proof.Machine.execLock s
  | .repne => Sys2Proof.Machine.execRepne s
  | .rep => Sys2Proof.Machine.execRep s
  | .add f => Sys2Proof.Machine.execAdd f s
  | .or_ f => Sys2Proof.Machine.execOr f s
  | .adc f => Sys2Proof.Machine.execAdc f s
  | .sbb f => Sys2Proof.Machine.execSbb f s
  | .and_ f => Sys2Proof.Machine.execAnd f s
  | .sub f => Sys2Proof.Machine.execSub f s
  | .xor_ f => Sys2Proof.Machine.execXor f s
  | .cmp f => Sys2Proof.Machine.execCmp f s
  | .test f => Sys2Proof.Machine.execTest f s
  | .mov f => Sys2Proof.Machine.execMov f s
  | .movFromSreg rm k => Sys2Proof.Machine.execMovFromSreg rm k s
  | .movToSreg k rm => Sys2Proof.Machine.execMovToSreg k rm s
  | .movFromCr mod n r => Sys2Proof.Machine.execMovFromCr mod n r s
  | .movToCr mod n r => Sys2Proof.Machine.execMovToCr mod n r s
  | .movFromDr mod n r => Sys2Proof.Machine.execMovFromDr mod n r s
  | .movToDr mod n r => Sys2Proof.Machine.execMovToDr mod n r s
  | .movFromTr mod n r => Sys2Proof.Machine.execMovFromTr mod n r s
  | .movToTr mod n r => Sys2Proof.Machine.execMovToTr mod n r s
  | .push f => Sys2Proof.Machine.execPush f s
  | .pushSreg k => Sys2Proof.Machine.execPushSreg k s
  | .pop f => Sys2Proof.Machine.execPop f s
  | .popSreg k => Sys2Proof.Machine.execPopSreg k s
  | .xchg f => Sys2Proof.Machine.execXchg f s
  | .nop => Sys2Proof.Machine.execNop s
  | .movzx wide r rm => Sys2Proof.Machine.execMovzx wide r rm s
  | .movsx wide r rm => Sys2Proof.Machine.execMovsx wide r rm s
  | .cbw => Sys2Proof.Machine.execCbw s
  | .cwde => Sys2Proof.Machine.execCwde s
  | .cwd => Sys2Proof.Machine.execCwd s
  | .cdq => Sys2Proof.Machine.execCdq s
  | .pusha => Sys2Proof.Machine.execPusha s
  | .popa => Sys2Proof.Machine.execPopa s
  | .lea r rm => Sys2Proof.Machine.execLea r rm s
  | .les r rm => Sys2Proof.Machine.execLes r rm s
  | .lds r rm => Sys2Proof.Machine.execLds r rm s
  | .lss r rm => Sys2Proof.Machine.execLss r rm s
  | .lfs r rm => Sys2Proof.Machine.execLfs r rm s
  | .lgs r rm => Sys2Proof.Machine.execLgs r rm s
  | .rol wide rm c => Sys2Proof.Machine.execRol wide rm c s
  | .ror wide rm c => Sys2Proof.Machine.execRor wide rm c s
  | .rcl wide rm c => Sys2Proof.Machine.execRcl wide rm c s
  | .rcr wide rm c => Sys2Proof.Machine.execRcr wide rm c s
  | .shl isAlias wide rm c => Sys2Proof.Machine.execShl isAlias wide rm c s
  | .shr wide rm c => Sys2Proof.Machine.execShr wide rm c s
  | .sar wide rm c => Sys2Proof.Machine.execSar wide rm c s
  | .shld rm r c => Sys2Proof.Machine.execShld rm r c s
  | .shrd rm r c => Sys2Proof.Machine.execShrd rm r c s
  | .bt f => Sys2Proof.Machine.execBt f s
  | .bts f => Sys2Proof.Machine.execBts f s
  | .btr f => Sys2Proof.Machine.execBtr f s
  | .btc f => Sys2Proof.Machine.execBtc f s
  | .bsf r rm => Sys2Proof.Machine.execBsf r rm s
  | .bsr r rm => Sys2Proof.Machine.execBsr r rm s
  | .imul f => Sys2Proof.Machine.execImul f s
  | .mul wide rm => Sys2Proof.Machine.execMul wide rm s
  | .div wide rm => Sys2Proof.Machine.execDiv wide rm s
  | .idiv wide rm => Sys2Proof.Machine.execIdiv wide rm s
  | .not_ wide rm => Sys2Proof.Machine.execNot wide rm s
  | .neg wide rm => Sys2Proof.Machine.execNeg wide rm s
  | .inc f => Sys2Proof.Machine.execInc f s
  | .dec f => Sys2Proof.Machine.execDec f s
  | .daa => Sys2Proof.Machine.execDaa s
  | .das => Sys2Proof.Machine.execDas s
  | .aaa => Sys2Proof.Machine.execAaa s
  | .aas => Sys2Proof.Machine.execAas s
  | .aam v => Sys2Proof.Machine.execAam v s
  | .aad v => Sys2Proof.Machine.execAad v s
  | .in_ f => Sys2Proof.Machine.execIn f s
  | .out f => Sys2Proof.Machine.execOut f s
  | .insb => Sys2Proof.Machine.execInsb s
  | .insv => Sys2Proof.Machine.execInsv s
  | .outsb => Sys2Proof.Machine.execOutsb s
  | .outsv => Sys2Proof.Machine.execOutsv s
  | .movsb => Sys2Proof.Machine.execMovsb s
  | .movsv => Sys2Proof.Machine.execMovsv s
  | .cmpsb => Sys2Proof.Machine.execCmpsb s
  | .cmpsv => Sys2Proof.Machine.execCmpsv s
  | .stosb => Sys2Proof.Machine.execStosb s
  | .stosv => Sys2Proof.Machine.execStosv s
  | .lodsb => Sys2Proof.Machine.execLodsb s
  | .lodsv => Sys2Proof.Machine.execLodsv s
  | .scasb => Sys2Proof.Machine.execScasb s
  | .scasv => Sys2Proof.Machine.execScasv s
  | .jo f => Sys2Proof.Machine.execJo f s
  | .jno f => Sys2Proof.Machine.execJno f s
  | .jb f => Sys2Proof.Machine.execJb f s
  | .jnb f => Sys2Proof.Machine.execJnb f s
  | .jz f => Sys2Proof.Machine.execJz f s
  | .jnz f => Sys2Proof.Machine.execJnz f s
  | .jbe f => Sys2Proof.Machine.execJbe f s
  | .jnbe f => Sys2Proof.Machine.execJnbe f s
  | .js f => Sys2Proof.Machine.execJs f s
  | .jns f => Sys2Proof.Machine.execJns f s
  | .jp f => Sys2Proof.Machine.execJp f s
  | .jnp f => Sys2Proof.Machine.execJnp f s
  | .jl f => Sys2Proof.Machine.execJl f s
  | .jnl f => Sys2Proof.Machine.execJnl f s
  | .jle f => Sys2Proof.Machine.execJle f s
  | .jnle f => Sys2Proof.Machine.execJnle f s
  | .seto rm => Sys2Proof.Machine.execSeto rm s
  | .setno rm => Sys2Proof.Machine.execSetno rm s
  | .setb rm => Sys2Proof.Machine.execSetb rm s
  | .setnb rm => Sys2Proof.Machine.execSetnb rm s
  | .setz rm => Sys2Proof.Machine.execSetz rm s
  | .setnz rm => Sys2Proof.Machine.execSetnz rm s
  | .setbe rm => Sys2Proof.Machine.execSetbe rm s
  | .setnbe rm => Sys2Proof.Machine.execSetnbe rm s
  | .sets rm => Sys2Proof.Machine.execSets rm s
  | .setns rm => Sys2Proof.Machine.execSetns rm s
  | .setp rm => Sys2Proof.Machine.execSetp rm s
  | .setnp rm => Sys2Proof.Machine.execSetnp rm s
  | .setl rm => Sys2Proof.Machine.execSetl rm s
  | .setnl rm => Sys2Proof.Machine.execSetnl rm s
  | .setle rm => Sys2Proof.Machine.execSetle rm s
  | .setnle rm => Sys2Proof.Machine.execSetnle rm s
  | .jmpNear f => Sys2Proof.Machine.execJmpNear f s
  | .jmpFar f => Sys2Proof.Machine.execJmpFar f s
  | .callNear f => Sys2Proof.Machine.execCallNear f s
  | .callFar f => Sys2Proof.Machine.execCallFar f s
  | .retNear n => Sys2Proof.Machine.execRetNear n s
  | .retFar n => Sys2Proof.Machine.execRetFar n s
  | .int3 => Sys2Proof.Machine.execInt3 s
  | .int n => Sys2Proof.Machine.execInt n s
  | .into => Sys2Proof.Machine.execInto s
  | .iret => Sys2Proof.Machine.execIret s
  | .loopne rel => Sys2Proof.Machine.execLoopne rel s
  | .loope rel => Sys2Proof.Machine.execLoope rel s
  | .loop rel => Sys2Proof.Machine.execLoop rel s
  | .jcxz rel => Sys2Proof.Machine.execJcxz rel s
  | .enter size level => Sys2Proof.Machine.execEnter size level s
  | .leave => Sys2Proof.Machine.execLeave s
  | .bound r rm => Sys2Proof.Machine.execBound r rm s
  | .arpl rm r => Sys2Proof.Machine.execArpl rm r s
  | .wait => Sys2Proof.Machine.execWait s
  | .pushf => Sys2Proof.Machine.execPushf s
  | .popf => Sys2Proof.Machine.execPopf s
  | .sahf => Sys2Proof.Machine.execSahf s
  | .lahf => Sys2Proof.Machine.execLahf s
  | .xlatb => Sys2Proof.Machine.execXlatb s
  | .esc op ext rm => Sys2Proof.Machine.execEsc op ext rm s
  | .hlt => Sys2Proof.Machine.execHlt s
  | .cmc => Sys2Proof.Machine.execCmc s
  | .clc => Sys2Proof.Machine.execClc s
  | .stc => Sys2Proof.Machine.execStc s
  | .cli => Sys2Proof.Machine.execCli s
  | .sti => Sys2Proof.Machine.execSti s
  | .cld => Sys2Proof.Machine.execCld s
  | .std => Sys2Proof.Machine.execStd s
  | .sldt rm => Sys2Proof.Machine.execSldt rm s
  | .str rm => Sys2Proof.Machine.execStr rm s
  | .lldt rm => Sys2Proof.Machine.execLldt rm s
  | .ltr rm => Sys2Proof.Machine.execLtr rm s
  | .verr rm => Sys2Proof.Machine.execVerr rm s
  | .verw rm => Sys2Proof.Machine.execVerw rm s
  | .sgdt rm => Sys2Proof.Machine.execSgdt rm s
  | .sidt rm => Sys2Proof.Machine.execSidt rm s
  | .lgdt rm => Sys2Proof.Machine.execLgdt rm s
  | .lidt rm => Sys2Proof.Machine.execLidt rm s
  | .smsw rm => Sys2Proof.Machine.execSmsw rm s
  | .lmsw rm => Sys2Proof.Machine.execLmsw rm s
  | .lar r rm => Sys2Proof.Machine.execLar r rm s
  | .lsl r rm => Sys2Proof.Machine.execLsl r rm s
  | .clts => Sys2Proof.Machine.execClts s
  | .scall r rm => Sys2Proof.Machine.execScall r rm s
  | .ssvLow n => Sys2Proof.Machine.execSsvLow n s
  | .ssvHigh n => Sys2Proof.Machine.execSsvHigh n s
  | .undefined u => Sys2Proof.Machine.execUndefined u s

end Sys2Proof.Machine
end

