-- ==== Sys2Proof/Machine/Step.lean ====
section
/-!
DEFINITION. Machine/Step.lean: one step of the machine, and how an instruction is placed where the next step fetches.
-/
namespace Sys2Proof.Machine

/-- One step of the machine: the event due at the instruction boundary, or else the instruction at CS:EIP
(00_scope.md R25). -/
def step (s : State) : Host.Outcome State Fault Refusal := stepWith exec s

/-- The state with an instruction's bytes, zero-extended to the longest instruction, where the next step fetches. -/
def State.withFetchWord (s : State) (nbits w : Nat) : State :=
  (s.placeBytes (s.segs.cs.base + s.eip) (tableBytes nbits w)).emptied

end Sys2Proof.Machine
end

