-- ==== Sys2Proof/Safety.lean ====
section
/-!
DEFINITION. Safety.lean: what a run of the machine may and may not do, and the terms the statements use: what a
prepared access reads and leaves, what a completed instruction answers, which forms LOCK may stand before.
-/
namespace Sys2Proof.Machine

/-- The outcome is a next state: the machine goes on. -/
def GoesOn (o : Host.Outcome State Fault Refusal) : Prop := ∃ s, o = .next s

/-- Memory lists addresses in rising order, no zero byte, inside the 32-bit space; EFLAGS has its stuck bits
(10_state.md R37); CR0 pairs paging with protection and its bits 30:4 never change (R56, D6); CR3's low bits read 0
(R58, D7); virtual-8086 mode is a protected mode at CPL 3 (63_processor_modes.md R820; 61_protection_tasks.md R776); in
real mode and in SuperState V CPL is 0 (10_state.md R48; 61_protection_tasks.md R750). -/
structure State.Inv (s : State) : Prop where
  mem : Mem.wf s.mem = true
  flags : s.eflags &&& 0xFFFC802A = 2
  paging : s.pg = true → s.pe = true
  cr0 : s.cr0 &&& 0x7FFFFFF0 = cr0AtReset s.cfg.coprocessorPresent &&& 0x7FFFFFF0
  cr3 : s.cr3 &&& 0xFFF = 0
  v86 : s.vm = true → s.pe = true ∧ (s.run ≠ .superstate → s.cpl = 3)
  real : s.pe = false → s.cpl = 0
  ssv : s.run = .superstate → s.cpl = 0

/-! ## Accesses -/

/-- A prepared access's page translations done: accessed and dirty bits, TLB (22_paging.md R228, R231). With paging off
this is the state itself. -/
def Ref.touched (r : Ref) (write : Bool) (s : State) : State := endState (touchRef r write s)

/-- The state after a prepared read. -/
def Ref.seen (r : Ref) (s : State) : State := ((r.touched false s).watch r.lin r.n false).noteReads r.addresses

/-- The value a prepared read gives: its bytes, the least significant first (20_memory.md R102). -/
def Ref.value (r : Ref) (s : State) : Nat := r.load (r.touched false s) r.n 0

/-- The state after a prepared write of a value. -/
def Ref.stored (r : Ref) (v : Nat) (s : State) : State := (r.store v r.n 0 (r.touched true s)).watch r.lin r.n true

/-- The state after prepared writes, in order. -/
def storedAll : List (Ref × Nat) → State → State
  | [], s => s
  | (r, v) :: l, s => storedAll l (r.stored v s)

/-- The state after an operand is read. -/
def Place.seen (p : Place) (s : State) : State :=
  match p with
  | .reg _ => s
  | .mem r => r.seen s

/-- The operand at a place. -/
def Place.value (p : Place) (k : Width) (s : State) : Val k :=
  match p with
  | .reg r => s.reg k r
  | .mem r => BitVec.ofNat k.bits (r.value s)

/-- The state after an operand is written. -/
def Place.put (p : Place) (k : Width) (v : Val k) (s : State) : State :=
  match p with
  | .reg r => s.setReg k r v
  | .mem r => r.stored v.toNat s

/-! ## Outcomes -/

/-- The instruction begun at s completes with t: EIP moves on, RF is cleared (10_state.md R35). -/
def completes (s t : State) : Host.Outcome State Fault Refusal := .next (t.complete false (bit s.eflags 8))

/-- The instruction begun at s raises an exception and changes nothing: what the delivery of the fault answers
(60_exceptions.md R672, R700). -/
def faults (s : State) (vector : Byte) (code : Option (BitVec 16)) : Host.Outcome State Fault Refusal :=
  deliver (faultEvent ⟨vector, code⟩ s.eip) s

/-- The undefined status flags numbered k (93_implementation_defined.md U1): free values. -/
def undefAt (k : Nat) : Status :=
  let v := Config.undefFlags k
  { cf := v.getLsbD 0, pf := v.getLsbD 1, af := v.getLsbD 2, zf := v.getLsbD 3, sf := v.getLsbD 4, of := v.getLsbD 5 }

/-- A logical result's flags written, AF a free value (43_logical.md R420). -/
def State.logic {n : Nat} (t : State) (r : BitVec n) : State :=
  t.drew.setStatus (logicStatus r (undefAt t.free).af)

/-- The r/m operand of a width is at a place and has a value, and t is the state once it is read. A read-modify-write
operand is checked as a write (22_paging.md R224). -/
def State.operand (s : State) (k : Width) (rm : RM) (write : Bool) (p : Place) (a : Val k) (t : State) : Prop :=
  ∃ t', locate k rm write s = .ok p t' ∧ a = p.value k t' ∧ t = p.seen t'

/-- One bit of EFLAGS written. -/
def State.setFlag (s : State) (n : Nat) (b : Bool) : State := { s with eflags := withBit s.eflags n b }

/-- A message to the outside. -/
def State.tell (s : State) (e : HostEvent) : State := { s with out := e :: s.out }

/-- What a far transfer outside protected mode puts into CS (21_segmentation.md R152, R153). -/
def State.realCs (s : State) (sel : BitVec 16) : SegReg :=
  if s.pe then SegReg.ofV86 sel else s.segs.cs.loadReal sel

/-- The state after a prepared read of the processor's own. -/
def Ref.sysSeen (r : Ref) (s : State) : State := (r.touched false s).noteReads r.addresses

/-- The state after the processor's own prepared writes, in order. -/
def sysStoredAll : List (Ref × Nat) → State → State
  | [], s => s
  | (r, v) :: l, s => sysStoredAll l (r.store v r.n 0 (r.touched true s))

/-- The values of the processor's own prepared reads made in order, and the state after them. -/
def sysReadAt : List Ref → State → List Nat × State
  | [], s => ([], s)
  | r :: l, s => ((r.value s) :: (sysReadAt l (r.sysSeen s)).1, (sysReadAt l (r.sysSeen s)).2)

/-- The values of prepared reads made in order, and the state after them. -/
def readAllAt : List Ref → State → List Nat × State
  | [], s => ([], s)
  | r :: l, s => ((r.value s) :: (readAllAt l (r.seen s)).1, (readAllAt l (r.seen s)).2)

/-- The state after the steps of a frame (49_system_misc.md R641). -/
def framed : List FrameStep → State → State
  | [], s => s
  | .copy src dst :: l, s => framed l (dst.stored (src.value s) (src.seen s))
  | .store dst v :: l, s => framed l (dst.stored v s)

/-- The offset n bytes below the top of the current stack (40_data_movement.md R332). -/
def State.below (s : State) (n : Nat) : Dword := spAdd s.segs.ss.attr.db s.sp (0 - BitVec.ofNat 32 n)

/-- The offset n bytes above the top of the current stack (40_data_movement.md R336). -/
def State.above (s : State) (n : Nat) : Dword := spAdd s.segs.ss.attr.db s.sp (BitVec.ofNat 32 n)

/-- The string instructions: whether REPE and REPNE test ZF, and one element (46_string.md R492 to R496; 41_io.md R367,
R369). -/
def stringOf (s : State) : Instr → Option (Bool × Op Unit)
  | .insb => some (false, insElem .b) | .insv => some (false, insElem s.ow)
  | .outsb => some (false, outsElem .b) | .outsv => some (false, outsElem s.ow)
  | .movsb => some (false, movsElem .b) | .movsv => some (false, movsElem s.ow)
  | .stosb => some (false, stosElem .b) | .stosv => some (false, stosElem s.ow)
  | .lodsb => some (false, lodsElem .b) | .lodsv => some (false, lodsElem s.ow)
  | .cmpsb => some (true, cmpsElem .b) | .cmpsv => some (true, cmpsElem s.ow)
  | .scasb => some (true, scasElem .b) | .scasv => some (true, scasElem s.ow)
  | _ => none

/-- A port read of n bytes: a free value, and the event (20_memory.md R107). -/
def State.portRead (s : State) (k : Width) (port : BitVec 16) : Val k × State :=
  let v : Val k := (Config.ioRead s.free port k.bytes).setWidth k.bits
  (v, s.drew.tell (.ioRead port k.bytes (v.setWidth 32)))

/-- A port written. -/
def State.portWrite (s : State) (k : Width) (port : BitVec 16) (v : Val k) : State :=
  s.tell (.ioWrite port k.bytes (v.setWidth 32))

/-- The shadow a load of SS by MOV or POP starts (48_flag_segment.md R592). -/
def State.shadowed (s : State) (k : Sreg) : State := if k = .ss then { s with inhibit := .ss } else s

/-- The six status flags left undefined (49_system_misc.md R628). -/
def State.flagsOpen (t : State) : State := t.drew.setStatus (undefAt t.free)

/-- Entering a real-mode handler: entry v of the vector table of s gives CS:IP, in the state w behind the pushes; IF, TF
and RF are cleared (60_exceptions.md R701). -/
def State.vectored (s w : State) (v : Byte) : State :=
  let e := s.phys32 (s.idtr.base + BitVec.ofNat 32 (4 * v.toNat))
  (State.setSeg { w with eflags := w.eflags &&& ~~~ 0x30300 } .cs
    (w.segs.cs.loadReal (e.extractLsb' 16 16))).jump ((e.extractLsb' 0 16).setWidth 32)

/-- The items a real-mode handler finds on the stack (60_exceptions.md R701). -/
def State.realFrame (s : State) (ret : Dword) : List (Nat × Nat) :=
  [(2, s.eflags.toNat % 65536), (2, s.segs.cs.sel.toNat), (2, ret.toNat % 65536)]

/-- A selector as an item of n bytes, and the state behind it: the upper word of a doubleword is a free value
(93_implementation_defined.md U5). -/
def State.itemOf (s : State) (n : Nat) (sel : BitVec 16) : (Nat × Nat) × State :=
  if n = 4 then ((4, ((Config.undefDword s.free).extractLsb' 16 16 ++ sel : BitVec 32).toNat), s.drew)
  else ((n, sel.toNat), s)

/-- The selector of CS as an item of n bytes. -/
def State.csItem (s : State) (n : Nat) : (Nat × Nat) × State := s.itemOf n s.segs.cs.sel

/-- Several selectors as items, in order. -/
def itemsOf (n : Nat) : List (BitVec 16) → State → List (Nat × Nat) × State
  | [], s => ([], s)
  | sel :: l, s =>
    let x := s.itemOf n sel
    let r := itemsOf n l x.2
    (x.1 :: r.1, r.2)

/-- The two doublewords of an IDT entry, with paging off, and the state after they are read (60_exceptions.md R700). -/
def State.idtEntry (s : State) (v : Byte) : Dword × Dword × State :=
  let at_ := s.idtr.base + BitVec.ofNat 32 (8 * v.toNat)
  (s.phys32 at_, s.phys32 (at_ + 4), s.bus at_ 8)

/-- ESP after a return to an outer level: on a 32-bit stack the doubleword popped, or the word popped with ESP[31:16] 0
(61_protection_tasks.md R773, D76); on a 16-bit stack SP only. -/
def outerSp (old : Dword) (big : Bool) (n : Nat) (v : Dword) : Dword :=
  if big then (if n = 4 then v else v &&& 0xFFFF) else (old &&& 0xFFFF0000) ||| (v &&& 0xFFFF)

/-- The state after the entry of a vector in the real-mode table is read, with paging off (60_exceptions.md R701). -/
def State.atVector (s : State) (v : Byte) : State := s.bus (s.idtr.base + BitVec.ofNat 32 (4 * v.toNat)) 4

end Sys2Proof.Machine

namespace Sys2Proof
open Sys2Proof.Machine

/-- The forms LOCK may stand before: they write memory (30_encoding.md R258). -/
def Instr.mayLock : Instr → Bool
  | .add f => f.lockable | .or_ f => f.lockable | .adc f => f.lockable | .sbb f => f.lockable
  | .and_ f => f.lockable | .sub f => f.lockable | .xor_ f => f.lockable
  | .inc f => f.lockable | .dec f => f.lockable
  | .not_ _ rm => !rm.isReg | .neg _ rm => !rm.isReg
  | .bts f => f.lockable | .btr f => f.lockable | .btc f => f.lockable
  | .xchg (.rmReg _ rm _) => !rm.isReg
  | _ => false

/-! ## Operands of the two-operand arithmetic forms -/

/-- The operand width of a form (R262). -/
def AluForm.width (s : State) : AluForm → Width
  | .rmReg wide _ _ => s.width wide
  | .regRm wide _ _ => s.width wide
  | .alImm _ => .b
  | .axImm _ => s.ow
  | .rmImm8 _ _ => .b
  | .rmImm8Alias _ _ => .b
  | .rmImm _ _ => s.ow
  | .rmSext _ _ => s.ow

/-- The operands of a form at s can be read: the place of the destination, the values of destination and source, and
the state once they are read. An r/m destination is checked as a write when asked (22_paging.md R224). -/
def AluForm.reads (s : State) (write : Bool) :
    (f : AluForm) → Place → Val (f.width s) → Val (f.width s) → State → Prop
  | .rmReg wide rm r, p, a, b, t => s.operand (s.width wide) rm write p a t ∧ b = s.reg (s.width wide) r
  | .regRm wide r rm, p, a, b, t =>
    p = .reg r ∧ a = s.reg (s.width wide) r ∧ ∃ q, s.operand (s.width wide) rm false q b t
  | .alImm i, p, a, b, t => p = .reg .eax ∧ a = s.reg .b .eax ∧ b = i ∧ t = s
  | .axImm i, p, a, b, t => p = .reg .eax ∧ a = s.reg s.ow .eax ∧ b = i.val s.ow ∧ t = s
  | .rmImm8 rm i, p, a, b, t => s.operand .b rm write p a t ∧ b = i
  | .rmImm8Alias rm i, p, a, b, t => s.operand .b rm write p a t ∧ b = i
  | .rmImm rm i, p, a, b, t => s.operand s.ow rm write p a t ∧ b = i.val s.ow
  | .rmSext rm i, p, a, b, t => s.operand s.ow rm write p a t ∧ b = sextByte i s.ow

/-- The width of INC's and DEC's operand. -/
def IncForm.width (s : State) : IncForm → Width
  | .reg _ => s.ow
  | .rmOp wide _ => s.width wide

/-- INC's and DEC's operand. -/
def IncForm.rm : IncForm → RM
  | .reg r => .reg r
  | .rmOp _ rm => rm

end Sys2Proof
end

