-- ==== Sys2Proof/Laws/State.lean ====
section
/-!
SUPPORT. Laws/State.lean: for each named update of State, the fields it leaves, by rfl.
-/
namespace Sys2Proof.Machine

/-! ## State.setReg -/
@[simp] theorem State.setReg_eip (s : State) (k : Width) (r : Reg) (v : Val k) : (s.setReg k r v).eip = s.eip := rfl
@[simp] theorem State.setReg_nextEip (s : State) (k : Width) (r : Reg) (v : Val k) : (s.setReg k r v).nextEip = s.nextEip := rfl
@[simp] theorem State.setReg_eflags (s : State) (k : Width) (r : Reg) (v : Val k) : (s.setReg k r v).eflags = s.eflags := rfl
@[simp] theorem State.setReg_cpl (s : State) (k : Width) (r : Reg) (v : Val k) : (s.setReg k r v).cpl = s.cpl := rfl
@[simp] theorem State.setReg_segs (s : State) (k : Width) (r : Reg) (v : Val k) : (s.setReg k r v).segs = s.segs := rfl
@[simp] theorem State.setReg_ldtr (s : State) (k : Width) (r : Reg) (v : Val k) : (s.setReg k r v).ldtr = s.ldtr := rfl
@[simp] theorem State.setReg_tr (s : State) (k : Width) (r : Reg) (v : Val k) : (s.setReg k r v).tr = s.tr := rfl
@[simp] theorem State.setReg_gdtr (s : State) (k : Width) (r : Reg) (v : Val k) : (s.setReg k r v).gdtr = s.gdtr := rfl
@[simp] theorem State.setReg_idtr (s : State) (k : Width) (r : Reg) (v : Val k) : (s.setReg k r v).idtr = s.idtr := rfl
@[simp] theorem State.setReg_cr0 (s : State) (k : Width) (r : Reg) (v : Val k) : (s.setReg k r v).cr0 = s.cr0 := rfl
@[simp] theorem State.setReg_cr2 (s : State) (k : Width) (r : Reg) (v : Val k) : (s.setReg k r v).cr2 = s.cr2 := rfl
@[simp] theorem State.setReg_cr3 (s : State) (k : Width) (r : Reg) (v : Val k) : (s.setReg k r v).cr3 = s.cr3 := rfl
@[simp] theorem State.setReg_dregs (s : State) (k : Width) (r : Reg) (v : Val k) : (s.setReg k r v).dregs = s.dregs := rfl
@[simp] theorem State.setReg_tr6 (s : State) (k : Width) (r : Reg) (v : Val k) : (s.setReg k r v).tr6 = s.tr6 := rfl
@[simp] theorem State.setReg_tr7 (s : State) (k : Width) (r : Reg) (v : Val k) : (s.setReg k r v).tr7 = s.tr7 := rfl
@[simp] theorem State.setReg_tlb (s : State) (k : Width) (r : Reg) (v : Val k) : (s.setReg k r v).tlb = s.tlb := rfl
@[simp] theorem State.setReg_icache (s : State) (k : Width) (r : Reg) (v : Val k) : (s.setReg k r v).icache = s.icache := rfl
@[simp] theorem State.setReg_inhibit (s : State) (k : Width) (r : Reg) (v : Val k) : (s.setReg k r v).inhibit = s.inhibit := rfl
@[simp] theorem State.setReg_held (s : State) (k : Width) (r : Reg) (v : Val k) : (s.setReg k r v).held = s.held := rfl
@[simp] theorem State.setReg_nmiMasked (s : State) (k : Width) (r : Reg) (v : Val k) : (s.setReg k r v).nmiMasked = s.nmiMasked := rfl
@[simp] theorem State.setReg_run (s : State) (k : Width) (r : Reg) (v : Val k) : (s.setReg k r v).run = s.run := rfl
@[simp] theorem State.setReg_lines (s : State) (k : Width) (r : Reg) (v : Val k) : (s.setReg k r v).lines = s.lines := rfl
@[simp] theorem State.setReg_pend (s : State) (k : Width) (r : Reg) (v : Val k) : (s.setReg k r v).pend = s.pend := rfl
@[simp] theorem State.setReg_ssv (s : State) (k : Width) (r : Reg) (v : Val k) : (s.setReg k r v).ssv = s.ssv := rfl
@[simp] theorem State.setReg_stale (s : State) (k : Width) (r : Reg) (v : Val k) : (s.setReg k r v).stale = s.stale := rfl
@[simp] theorem State.setReg_queue (s : State) (k : Width) (r : Reg) (v : Val k) : (s.setReg k r v).queue = s.queue := rfl
@[simp] theorem State.setReg_flushed (s : State) (k : Width) (r : Reg) (v : Val k) : (s.setReg k r v).flushed = s.flushed := rfl
@[simp] theorem State.setReg_again (s : State) (k : Width) (r : Reg) (v : Val k) : (s.setReg k r v).again = s.again := rfl
@[simp] theorem State.setReg_pfx (s : State) (k : Width) (r : Reg) (v : Val k) : (s.setReg k r v).pfx = s.pfx := rfl
@[simp] theorem State.setReg_mem (s : State) (k : Width) (r : Reg) (v : Val k) : (s.setReg k r v).mem = s.mem := rfl
@[simp] theorem State.setReg_free (s : State) (k : Width) (r : Reg) (v : Val k) : (s.setReg k r v).free = s.free := rfl
@[simp] theorem State.setReg_out (s : State) (k : Width) (r : Reg) (v : Val k) : (s.setReg k r v).out = s.out := rfl
@[simp] theorem State.setReg_cfg (s : State) (k : Width) (r : Reg) (v : Val k) : (s.setReg k r v).cfg = s.cfg := rfl

/-! ## State.setSp -/
@[simp] theorem State.setSp_eip (s : State) (v : Dword) : (s.setSp v).eip = s.eip := rfl
@[simp] theorem State.setSp_nextEip (s : State) (v : Dword) : (s.setSp v).nextEip = s.nextEip := rfl
@[simp] theorem State.setSp_eflags (s : State) (v : Dword) : (s.setSp v).eflags = s.eflags := rfl
@[simp] theorem State.setSp_cpl (s : State) (v : Dword) : (s.setSp v).cpl = s.cpl := rfl
@[simp] theorem State.setSp_segs (s : State) (v : Dword) : (s.setSp v).segs = s.segs := rfl
@[simp] theorem State.setSp_ldtr (s : State) (v : Dword) : (s.setSp v).ldtr = s.ldtr := rfl
@[simp] theorem State.setSp_tr (s : State) (v : Dword) : (s.setSp v).tr = s.tr := rfl
@[simp] theorem State.setSp_gdtr (s : State) (v : Dword) : (s.setSp v).gdtr = s.gdtr := rfl
@[simp] theorem State.setSp_idtr (s : State) (v : Dword) : (s.setSp v).idtr = s.idtr := rfl
@[simp] theorem State.setSp_cr0 (s : State) (v : Dword) : (s.setSp v).cr0 = s.cr0 := rfl
@[simp] theorem State.setSp_cr2 (s : State) (v : Dword) : (s.setSp v).cr2 = s.cr2 := rfl
@[simp] theorem State.setSp_cr3 (s : State) (v : Dword) : (s.setSp v).cr3 = s.cr3 := rfl
@[simp] theorem State.setSp_dregs (s : State) (v : Dword) : (s.setSp v).dregs = s.dregs := rfl
@[simp] theorem State.setSp_tr6 (s : State) (v : Dword) : (s.setSp v).tr6 = s.tr6 := rfl
@[simp] theorem State.setSp_tr7 (s : State) (v : Dword) : (s.setSp v).tr7 = s.tr7 := rfl
@[simp] theorem State.setSp_tlb (s : State) (v : Dword) : (s.setSp v).tlb = s.tlb := rfl
@[simp] theorem State.setSp_icache (s : State) (v : Dword) : (s.setSp v).icache = s.icache := rfl
@[simp] theorem State.setSp_inhibit (s : State) (v : Dword) : (s.setSp v).inhibit = s.inhibit := rfl
@[simp] theorem State.setSp_held (s : State) (v : Dword) : (s.setSp v).held = s.held := rfl
@[simp] theorem State.setSp_nmiMasked (s : State) (v : Dword) : (s.setSp v).nmiMasked = s.nmiMasked := rfl
@[simp] theorem State.setSp_run (s : State) (v : Dword) : (s.setSp v).run = s.run := rfl
@[simp] theorem State.setSp_lines (s : State) (v : Dword) : (s.setSp v).lines = s.lines := rfl
@[simp] theorem State.setSp_pend (s : State) (v : Dword) : (s.setSp v).pend = s.pend := rfl
@[simp] theorem State.setSp_ssv (s : State) (v : Dword) : (s.setSp v).ssv = s.ssv := rfl
@[simp] theorem State.setSp_stale (s : State) (v : Dword) : (s.setSp v).stale = s.stale := rfl
@[simp] theorem State.setSp_queue (s : State) (v : Dword) : (s.setSp v).queue = s.queue := rfl
@[simp] theorem State.setSp_flushed (s : State) (v : Dword) : (s.setSp v).flushed = s.flushed := rfl
@[simp] theorem State.setSp_again (s : State) (v : Dword) : (s.setSp v).again = s.again := rfl
@[simp] theorem State.setSp_pfx (s : State) (v : Dword) : (s.setSp v).pfx = s.pfx := rfl
@[simp] theorem State.setSp_mem (s : State) (v : Dword) : (s.setSp v).mem = s.mem := rfl
@[simp] theorem State.setSp_free (s : State) (v : Dword) : (s.setSp v).free = s.free := rfl
@[simp] theorem State.setSp_out (s : State) (v : Dword) : (s.setSp v).out = s.out := rfl
@[simp] theorem State.setSp_cfg (s : State) (v : Dword) : (s.setSp v).cfg = s.cfg := rfl

/-! ## State.setStatus -/
@[simp] theorem State.setStatus_regs (s : State) (f : Status) : (s.setStatus f).regs = s.regs := rfl
@[simp] theorem State.setStatus_eip (s : State) (f : Status) : (s.setStatus f).eip = s.eip := rfl
@[simp] theorem State.setStatus_nextEip (s : State) (f : Status) : (s.setStatus f).nextEip = s.nextEip := rfl
@[simp] theorem State.setStatus_cpl (s : State) (f : Status) : (s.setStatus f).cpl = s.cpl := rfl
@[simp] theorem State.setStatus_segs (s : State) (f : Status) : (s.setStatus f).segs = s.segs := rfl
@[simp] theorem State.setStatus_ldtr (s : State) (f : Status) : (s.setStatus f).ldtr = s.ldtr := rfl
@[simp] theorem State.setStatus_tr (s : State) (f : Status) : (s.setStatus f).tr = s.tr := rfl
@[simp] theorem State.setStatus_gdtr (s : State) (f : Status) : (s.setStatus f).gdtr = s.gdtr := rfl
@[simp] theorem State.setStatus_idtr (s : State) (f : Status) : (s.setStatus f).idtr = s.idtr := rfl
@[simp] theorem State.setStatus_cr0 (s : State) (f : Status) : (s.setStatus f).cr0 = s.cr0 := rfl
@[simp] theorem State.setStatus_cr2 (s : State) (f : Status) : (s.setStatus f).cr2 = s.cr2 := rfl
@[simp] theorem State.setStatus_cr3 (s : State) (f : Status) : (s.setStatus f).cr3 = s.cr3 := rfl
@[simp] theorem State.setStatus_dregs (s : State) (f : Status) : (s.setStatus f).dregs = s.dregs := rfl
@[simp] theorem State.setStatus_tr6 (s : State) (f : Status) : (s.setStatus f).tr6 = s.tr6 := rfl
@[simp] theorem State.setStatus_tr7 (s : State) (f : Status) : (s.setStatus f).tr7 = s.tr7 := rfl
@[simp] theorem State.setStatus_tlb (s : State) (f : Status) : (s.setStatus f).tlb = s.tlb := rfl
@[simp] theorem State.setStatus_icache (s : State) (f : Status) : (s.setStatus f).icache = s.icache := rfl
@[simp] theorem State.setStatus_inhibit (s : State) (f : Status) : (s.setStatus f).inhibit = s.inhibit := rfl
@[simp] theorem State.setStatus_held (s : State) (f : Status) : (s.setStatus f).held = s.held := rfl
@[simp] theorem State.setStatus_nmiMasked (s : State) (f : Status) : (s.setStatus f).nmiMasked = s.nmiMasked := rfl
@[simp] theorem State.setStatus_run (s : State) (f : Status) : (s.setStatus f).run = s.run := rfl
@[simp] theorem State.setStatus_lines (s : State) (f : Status) : (s.setStatus f).lines = s.lines := rfl
@[simp] theorem State.setStatus_pend (s : State) (f : Status) : (s.setStatus f).pend = s.pend := rfl
@[simp] theorem State.setStatus_ssv (s : State) (f : Status) : (s.setStatus f).ssv = s.ssv := rfl
@[simp] theorem State.setStatus_stale (s : State) (f : Status) : (s.setStatus f).stale = s.stale := rfl
@[simp] theorem State.setStatus_queue (s : State) (f : Status) : (s.setStatus f).queue = s.queue := rfl
@[simp] theorem State.setStatus_flushed (s : State) (f : Status) : (s.setStatus f).flushed = s.flushed := rfl
@[simp] theorem State.setStatus_again (s : State) (f : Status) : (s.setStatus f).again = s.again := rfl
@[simp] theorem State.setStatus_pfx (s : State) (f : Status) : (s.setStatus f).pfx = s.pfx := rfl
@[simp] theorem State.setStatus_mem (s : State) (f : Status) : (s.setStatus f).mem = s.mem := rfl
@[simp] theorem State.setStatus_free (s : State) (f : Status) : (s.setStatus f).free = s.free := rfl
@[simp] theorem State.setStatus_out (s : State) (f : Status) : (s.setStatus f).out = s.out := rfl
@[simp] theorem State.setStatus_cfg (s : State) (f : Status) : (s.setStatus f).cfg = s.cfg := rfl

/-! ## State.setSeg -/
@[simp] theorem State.setSeg_regs (s : State) (k : Sreg) (r : SegReg) : (s.setSeg k r).regs = s.regs := rfl
@[simp] theorem State.setSeg_eip (s : State) (k : Sreg) (r : SegReg) : (s.setSeg k r).eip = s.eip := rfl
@[simp] theorem State.setSeg_nextEip (s : State) (k : Sreg) (r : SegReg) : (s.setSeg k r).nextEip = s.nextEip := rfl
@[simp] theorem State.setSeg_eflags (s : State) (k : Sreg) (r : SegReg) : (s.setSeg k r).eflags = s.eflags := rfl
@[simp] theorem State.setSeg_cpl (s : State) (k : Sreg) (r : SegReg) : (s.setSeg k r).cpl = s.cpl := rfl
@[simp] theorem State.setSeg_ldtr (s : State) (k : Sreg) (r : SegReg) : (s.setSeg k r).ldtr = s.ldtr := rfl
@[simp] theorem State.setSeg_tr (s : State) (k : Sreg) (r : SegReg) : (s.setSeg k r).tr = s.tr := rfl
@[simp] theorem State.setSeg_gdtr (s : State) (k : Sreg) (r : SegReg) : (s.setSeg k r).gdtr = s.gdtr := rfl
@[simp] theorem State.setSeg_idtr (s : State) (k : Sreg) (r : SegReg) : (s.setSeg k r).idtr = s.idtr := rfl
@[simp] theorem State.setSeg_cr0 (s : State) (k : Sreg) (r : SegReg) : (s.setSeg k r).cr0 = s.cr0 := rfl
@[simp] theorem State.setSeg_cr2 (s : State) (k : Sreg) (r : SegReg) : (s.setSeg k r).cr2 = s.cr2 := rfl
@[simp] theorem State.setSeg_cr3 (s : State) (k : Sreg) (r : SegReg) : (s.setSeg k r).cr3 = s.cr3 := rfl
@[simp] theorem State.setSeg_dregs (s : State) (k : Sreg) (r : SegReg) : (s.setSeg k r).dregs = s.dregs := rfl
@[simp] theorem State.setSeg_tr6 (s : State) (k : Sreg) (r : SegReg) : (s.setSeg k r).tr6 = s.tr6 := rfl
@[simp] theorem State.setSeg_tr7 (s : State) (k : Sreg) (r : SegReg) : (s.setSeg k r).tr7 = s.tr7 := rfl
@[simp] theorem State.setSeg_tlb (s : State) (k : Sreg) (r : SegReg) : (s.setSeg k r).tlb = s.tlb := rfl
@[simp] theorem State.setSeg_icache (s : State) (k : Sreg) (r : SegReg) : (s.setSeg k r).icache = s.icache := rfl
@[simp] theorem State.setSeg_inhibit (s : State) (k : Sreg) (r : SegReg) : (s.setSeg k r).inhibit = s.inhibit := rfl
@[simp] theorem State.setSeg_held (s : State) (k : Sreg) (r : SegReg) : (s.setSeg k r).held = s.held := rfl
@[simp] theorem State.setSeg_nmiMasked (s : State) (k : Sreg) (r : SegReg) : (s.setSeg k r).nmiMasked = s.nmiMasked := rfl
@[simp] theorem State.setSeg_run (s : State) (k : Sreg) (r : SegReg) : (s.setSeg k r).run = s.run := rfl
@[simp] theorem State.setSeg_lines (s : State) (k : Sreg) (r : SegReg) : (s.setSeg k r).lines = s.lines := rfl
@[simp] theorem State.setSeg_pend (s : State) (k : Sreg) (r : SegReg) : (s.setSeg k r).pend = s.pend := rfl
@[simp] theorem State.setSeg_ssv (s : State) (k : Sreg) (r : SegReg) : (s.setSeg k r).ssv = s.ssv := rfl
@[simp] theorem State.setSeg_stale (s : State) (k : Sreg) (r : SegReg) : (s.setSeg k r).stale = s.stale := rfl
@[simp] theorem State.setSeg_queue (s : State) (k : Sreg) (r : SegReg) : (s.setSeg k r).queue = s.queue := rfl
@[simp] theorem State.setSeg_flushed (s : State) (k : Sreg) (r : SegReg) : (s.setSeg k r).flushed = s.flushed := rfl
@[simp] theorem State.setSeg_again (s : State) (k : Sreg) (r : SegReg) : (s.setSeg k r).again = s.again := rfl
@[simp] theorem State.setSeg_pfx (s : State) (k : Sreg) (r : SegReg) : (s.setSeg k r).pfx = s.pfx := rfl
@[simp] theorem State.setSeg_mem (s : State) (k : Sreg) (r : SegReg) : (s.setSeg k r).mem = s.mem := rfl
@[simp] theorem State.setSeg_free (s : State) (k : Sreg) (r : SegReg) : (s.setSeg k r).free = s.free := rfl
@[simp] theorem State.setSeg_out (s : State) (k : Sreg) (r : SegReg) : (s.setSeg k r).out = s.out := rfl
@[simp] theorem State.setSeg_cfg (s : State) (k : Sreg) (r : SegReg) : (s.setSeg k r).cfg = s.cfg := rfl

/-! ## State.jump -/
@[simp] theorem State.jump_regs (s : State) (off : Dword) : (s.jump off).regs = s.regs := rfl
@[simp] theorem State.jump_eip (s : State) (off : Dword) : (s.jump off).eip = s.eip := rfl
@[simp] theorem State.jump_eflags (s : State) (off : Dword) : (s.jump off).eflags = s.eflags := rfl
@[simp] theorem State.jump_cpl (s : State) (off : Dword) : (s.jump off).cpl = s.cpl := rfl
@[simp] theorem State.jump_segs (s : State) (off : Dword) : (s.jump off).segs = s.segs := rfl
@[simp] theorem State.jump_ldtr (s : State) (off : Dword) : (s.jump off).ldtr = s.ldtr := rfl
@[simp] theorem State.jump_tr (s : State) (off : Dword) : (s.jump off).tr = s.tr := rfl
@[simp] theorem State.jump_gdtr (s : State) (off : Dword) : (s.jump off).gdtr = s.gdtr := rfl
@[simp] theorem State.jump_idtr (s : State) (off : Dword) : (s.jump off).idtr = s.idtr := rfl
@[simp] theorem State.jump_cr0 (s : State) (off : Dword) : (s.jump off).cr0 = s.cr0 := rfl
@[simp] theorem State.jump_cr2 (s : State) (off : Dword) : (s.jump off).cr2 = s.cr2 := rfl
@[simp] theorem State.jump_cr3 (s : State) (off : Dword) : (s.jump off).cr3 = s.cr3 := rfl
@[simp] theorem State.jump_dregs (s : State) (off : Dword) : (s.jump off).dregs = s.dregs := rfl
@[simp] theorem State.jump_tr6 (s : State) (off : Dword) : (s.jump off).tr6 = s.tr6 := rfl
@[simp] theorem State.jump_tr7 (s : State) (off : Dword) : (s.jump off).tr7 = s.tr7 := rfl
@[simp] theorem State.jump_tlb (s : State) (off : Dword) : (s.jump off).tlb = s.tlb := rfl
@[simp] theorem State.jump_icache (s : State) (off : Dword) : (s.jump off).icache = s.icache := rfl
@[simp] theorem State.jump_inhibit (s : State) (off : Dword) : (s.jump off).inhibit = s.inhibit := rfl
@[simp] theorem State.jump_held (s : State) (off : Dword) : (s.jump off).held = s.held := rfl
@[simp] theorem State.jump_nmiMasked (s : State) (off : Dword) : (s.jump off).nmiMasked = s.nmiMasked := rfl
@[simp] theorem State.jump_run (s : State) (off : Dword) : (s.jump off).run = s.run := rfl
@[simp] theorem State.jump_lines (s : State) (off : Dword) : (s.jump off).lines = s.lines := rfl
@[simp] theorem State.jump_pend (s : State) (off : Dword) : (s.jump off).pend = s.pend := rfl
@[simp] theorem State.jump_ssv (s : State) (off : Dword) : (s.jump off).ssv = s.ssv := rfl
@[simp] theorem State.jump_pfx (s : State) (off : Dword) : (s.jump off).pfx = s.pfx := rfl
@[simp] theorem State.jump_mem (s : State) (off : Dword) : (s.jump off).mem = s.mem := rfl
@[simp] theorem State.jump_free (s : State) (off : Dword) : (s.jump off).free = s.free := rfl
@[simp] theorem State.jump_out (s : State) (off : Dword) : (s.jump off).out = s.out := rfl
@[simp] theorem State.jump_cfg (s : State) (off : Dword) : (s.jump off).cfg = s.cfg := rfl

/-! ## State.watch -/
@[simp] theorem State.watch_regs (s : State) (lin : Dword) (n : Nat) (w : Bool) : (s.watch lin n w).regs = s.regs := rfl
@[simp] theorem State.watch_eip (s : State) (lin : Dword) (n : Nat) (w : Bool) : (s.watch lin n w).eip = s.eip := rfl
@[simp] theorem State.watch_nextEip (s : State) (lin : Dword) (n : Nat) (w : Bool) : (s.watch lin n w).nextEip = s.nextEip := rfl
@[simp] theorem State.watch_eflags (s : State) (lin : Dword) (n : Nat) (w : Bool) : (s.watch lin n w).eflags = s.eflags := rfl
@[simp] theorem State.watch_cpl (s : State) (lin : Dword) (n : Nat) (w : Bool) : (s.watch lin n w).cpl = s.cpl := rfl
@[simp] theorem State.watch_segs (s : State) (lin : Dword) (n : Nat) (w : Bool) : (s.watch lin n w).segs = s.segs := rfl
@[simp] theorem State.watch_ldtr (s : State) (lin : Dword) (n : Nat) (w : Bool) : (s.watch lin n w).ldtr = s.ldtr := rfl
@[simp] theorem State.watch_tr (s : State) (lin : Dword) (n : Nat) (w : Bool) : (s.watch lin n w).tr = s.tr := rfl
@[simp] theorem State.watch_gdtr (s : State) (lin : Dword) (n : Nat) (w : Bool) : (s.watch lin n w).gdtr = s.gdtr := rfl
@[simp] theorem State.watch_idtr (s : State) (lin : Dword) (n : Nat) (w : Bool) : (s.watch lin n w).idtr = s.idtr := rfl
@[simp] theorem State.watch_cr0 (s : State) (lin : Dword) (n : Nat) (w : Bool) : (s.watch lin n w).cr0 = s.cr0 := rfl
@[simp] theorem State.watch_cr2 (s : State) (lin : Dword) (n : Nat) (w : Bool) : (s.watch lin n w).cr2 = s.cr2 := rfl
@[simp] theorem State.watch_cr3 (s : State) (lin : Dword) (n : Nat) (w : Bool) : (s.watch lin n w).cr3 = s.cr3 := rfl
@[simp] theorem State.watch_dregs (s : State) (lin : Dword) (n : Nat) (w : Bool) : (s.watch lin n w).dregs = s.dregs := rfl
@[simp] theorem State.watch_tr6 (s : State) (lin : Dword) (n : Nat) (w : Bool) : (s.watch lin n w).tr6 = s.tr6 := rfl
@[simp] theorem State.watch_tr7 (s : State) (lin : Dword) (n : Nat) (w : Bool) : (s.watch lin n w).tr7 = s.tr7 := rfl
@[simp] theorem State.watch_tlb (s : State) (lin : Dword) (n : Nat) (w : Bool) : (s.watch lin n w).tlb = s.tlb := rfl
@[simp] theorem State.watch_icache (s : State) (lin : Dword) (n : Nat) (w : Bool) : (s.watch lin n w).icache = s.icache := rfl
@[simp] theorem State.watch_inhibit (s : State) (lin : Dword) (n : Nat) (w : Bool) : (s.watch lin n w).inhibit = s.inhibit := rfl
@[simp] theorem State.watch_held (s : State) (lin : Dword) (n : Nat) (w : Bool) : (s.watch lin n w).held = s.held := rfl
@[simp] theorem State.watch_nmiMasked (s : State) (lin : Dword) (n : Nat) (w : Bool) : (s.watch lin n w).nmiMasked = s.nmiMasked := rfl
@[simp] theorem State.watch_run (s : State) (lin : Dword) (n : Nat) (w : Bool) : (s.watch lin n w).run = s.run := rfl
@[simp] theorem State.watch_lines (s : State) (lin : Dword) (n : Nat) (w : Bool) : (s.watch lin n w).lines = s.lines := rfl
@[simp] theorem State.watch_ssv (s : State) (lin : Dword) (n : Nat) (w : Bool) : (s.watch lin n w).ssv = s.ssv := rfl
@[simp] theorem State.watch_stale (s : State) (lin : Dword) (n : Nat) (w : Bool) : (s.watch lin n w).stale = s.stale := rfl
@[simp] theorem State.watch_queue (s : State) (lin : Dword) (n : Nat) (w : Bool) : (s.watch lin n w).queue = s.queue := rfl
@[simp] theorem State.watch_flushed (s : State) (lin : Dword) (n : Nat) (w : Bool) : (s.watch lin n w).flushed = s.flushed := rfl
@[simp] theorem State.watch_again (s : State) (lin : Dword) (n : Nat) (w : Bool) : (s.watch lin n w).again = s.again := rfl
@[simp] theorem State.watch_pfx (s : State) (lin : Dword) (n : Nat) (w : Bool) : (s.watch lin n w).pfx = s.pfx := rfl
@[simp] theorem State.watch_mem (s : State) (lin : Dword) (n : Nat) (w : Bool) : (s.watch lin n w).mem = s.mem := rfl
@[simp] theorem State.watch_free (s : State) (lin : Dword) (n : Nat) (w : Bool) : (s.watch lin n w).free = s.free := rfl
@[simp] theorem State.watch_out (s : State) (lin : Dword) (n : Nat) (w : Bool) : (s.watch lin n w).out = s.out := rfl
@[simp] theorem State.watch_cfg (s : State) (lin : Dword) (n : Nat) (w : Bool) : (s.watch lin n w).cfg = s.cfg := rfl

/-! ## State.noteReads -/
@[simp] theorem State.noteReads_regs (s : State) (l : List Dword) : (s.noteReads l).regs = s.regs := rfl
@[simp] theorem State.noteReads_eip (s : State) (l : List Dword) : (s.noteReads l).eip = s.eip := rfl
@[simp] theorem State.noteReads_nextEip (s : State) (l : List Dword) : (s.noteReads l).nextEip = s.nextEip := rfl
@[simp] theorem State.noteReads_eflags (s : State) (l : List Dword) : (s.noteReads l).eflags = s.eflags := rfl
@[simp] theorem State.noteReads_cpl (s : State) (l : List Dword) : (s.noteReads l).cpl = s.cpl := rfl
@[simp] theorem State.noteReads_segs (s : State) (l : List Dword) : (s.noteReads l).segs = s.segs := rfl
@[simp] theorem State.noteReads_ldtr (s : State) (l : List Dword) : (s.noteReads l).ldtr = s.ldtr := rfl
@[simp] theorem State.noteReads_tr (s : State) (l : List Dword) : (s.noteReads l).tr = s.tr := rfl
@[simp] theorem State.noteReads_gdtr (s : State) (l : List Dword) : (s.noteReads l).gdtr = s.gdtr := rfl
@[simp] theorem State.noteReads_idtr (s : State) (l : List Dword) : (s.noteReads l).idtr = s.idtr := rfl
@[simp] theorem State.noteReads_cr0 (s : State) (l : List Dword) : (s.noteReads l).cr0 = s.cr0 := rfl
@[simp] theorem State.noteReads_cr2 (s : State) (l : List Dword) : (s.noteReads l).cr2 = s.cr2 := rfl
@[simp] theorem State.noteReads_cr3 (s : State) (l : List Dword) : (s.noteReads l).cr3 = s.cr3 := rfl
@[simp] theorem State.noteReads_dregs (s : State) (l : List Dword) : (s.noteReads l).dregs = s.dregs := rfl
@[simp] theorem State.noteReads_tr6 (s : State) (l : List Dword) : (s.noteReads l).tr6 = s.tr6 := rfl
@[simp] theorem State.noteReads_tr7 (s : State) (l : List Dword) : (s.noteReads l).tr7 = s.tr7 := rfl
@[simp] theorem State.noteReads_tlb (s : State) (l : List Dword) : (s.noteReads l).tlb = s.tlb := rfl
@[simp] theorem State.noteReads_icache (s : State) (l : List Dword) : (s.noteReads l).icache = s.icache := rfl
@[simp] theorem State.noteReads_inhibit (s : State) (l : List Dword) : (s.noteReads l).inhibit = s.inhibit := rfl
@[simp] theorem State.noteReads_held (s : State) (l : List Dword) : (s.noteReads l).held = s.held := rfl
@[simp] theorem State.noteReads_nmiMasked (s : State) (l : List Dword) : (s.noteReads l).nmiMasked = s.nmiMasked := rfl
@[simp] theorem State.noteReads_run (s : State) (l : List Dword) : (s.noteReads l).run = s.run := rfl
@[simp] theorem State.noteReads_lines (s : State) (l : List Dword) : (s.noteReads l).lines = s.lines := rfl
@[simp] theorem State.noteReads_pend (s : State) (l : List Dword) : (s.noteReads l).pend = s.pend := rfl
@[simp] theorem State.noteReads_ssv (s : State) (l : List Dword) : (s.noteReads l).ssv = s.ssv := rfl
@[simp] theorem State.noteReads_stale (s : State) (l : List Dword) : (s.noteReads l).stale = s.stale := rfl
@[simp] theorem State.noteReads_queue (s : State) (l : List Dword) : (s.noteReads l).queue = s.queue := rfl
@[simp] theorem State.noteReads_flushed (s : State) (l : List Dword) : (s.noteReads l).flushed = s.flushed := rfl
@[simp] theorem State.noteReads_again (s : State) (l : List Dword) : (s.noteReads l).again = s.again := rfl
@[simp] theorem State.noteReads_pfx (s : State) (l : List Dword) : (s.noteReads l).pfx = s.pfx := rfl
@[simp] theorem State.noteReads_mem (s : State) (l : List Dword) : (s.noteReads l).mem = s.mem := rfl
@[simp] theorem State.noteReads_cfg (s : State) (l : List Dword) : (s.noteReads l).cfg = s.cfg := rfl

/-! ## State.putByte -/
@[simp] theorem State.putByte_regs (s : State) (pa : Dword) (v : Byte) : (s.putByte pa v).regs = s.regs := rfl
@[simp] theorem State.putByte_eip (s : State) (pa : Dword) (v : Byte) : (s.putByte pa v).eip = s.eip := rfl
@[simp] theorem State.putByte_nextEip (s : State) (pa : Dword) (v : Byte) : (s.putByte pa v).nextEip = s.nextEip := rfl
@[simp] theorem State.putByte_eflags (s : State) (pa : Dword) (v : Byte) : (s.putByte pa v).eflags = s.eflags := rfl
@[simp] theorem State.putByte_cpl (s : State) (pa : Dword) (v : Byte) : (s.putByte pa v).cpl = s.cpl := rfl
@[simp] theorem State.putByte_segs (s : State) (pa : Dword) (v : Byte) : (s.putByte pa v).segs = s.segs := rfl
@[simp] theorem State.putByte_ldtr (s : State) (pa : Dword) (v : Byte) : (s.putByte pa v).ldtr = s.ldtr := rfl
@[simp] theorem State.putByte_tr (s : State) (pa : Dword) (v : Byte) : (s.putByte pa v).tr = s.tr := rfl
@[simp] theorem State.putByte_gdtr (s : State) (pa : Dword) (v : Byte) : (s.putByte pa v).gdtr = s.gdtr := rfl
@[simp] theorem State.putByte_idtr (s : State) (pa : Dword) (v : Byte) : (s.putByte pa v).idtr = s.idtr := rfl
@[simp] theorem State.putByte_cr0 (s : State) (pa : Dword) (v : Byte) : (s.putByte pa v).cr0 = s.cr0 := rfl
@[simp] theorem State.putByte_cr2 (s : State) (pa : Dword) (v : Byte) : (s.putByte pa v).cr2 = s.cr2 := rfl
@[simp] theorem State.putByte_cr3 (s : State) (pa : Dword) (v : Byte) : (s.putByte pa v).cr3 = s.cr3 := rfl
@[simp] theorem State.putByte_dregs (s : State) (pa : Dword) (v : Byte) : (s.putByte pa v).dregs = s.dregs := rfl
@[simp] theorem State.putByte_tr6 (s : State) (pa : Dword) (v : Byte) : (s.putByte pa v).tr6 = s.tr6 := rfl
@[simp] theorem State.putByte_tr7 (s : State) (pa : Dword) (v : Byte) : (s.putByte pa v).tr7 = s.tr7 := rfl
@[simp] theorem State.putByte_tlb (s : State) (pa : Dword) (v : Byte) : (s.putByte pa v).tlb = s.tlb := rfl
@[simp] theorem State.putByte_inhibit (s : State) (pa : Dword) (v : Byte) : (s.putByte pa v).inhibit = s.inhibit := rfl
@[simp] theorem State.putByte_held (s : State) (pa : Dword) (v : Byte) : (s.putByte pa v).held = s.held := rfl
@[simp] theorem State.putByte_nmiMasked (s : State) (pa : Dword) (v : Byte) : (s.putByte pa v).nmiMasked = s.nmiMasked := rfl
@[simp] theorem State.putByte_run (s : State) (pa : Dword) (v : Byte) : (s.putByte pa v).run = s.run := rfl
@[simp] theorem State.putByte_lines (s : State) (pa : Dword) (v : Byte) : (s.putByte pa v).lines = s.lines := rfl
@[simp] theorem State.putByte_pend (s : State) (pa : Dword) (v : Byte) : (s.putByte pa v).pend = s.pend := rfl
@[simp] theorem State.putByte_ssv (s : State) (pa : Dword) (v : Byte) : (s.putByte pa v).ssv = s.ssv := rfl
@[simp] theorem State.putByte_again (s : State) (pa : Dword) (v : Byte) : (s.putByte pa v).again = s.again := rfl
@[simp] theorem State.putByte_pfx (s : State) (pa : Dword) (v : Byte) : (s.putByte pa v).pfx = s.pfx := rfl
@[simp] theorem State.putByte_free (s : State) (pa : Dword) (v : Byte) : (s.putByte pa v).free = s.free := rfl
@[simp] theorem State.putByte_cfg (s : State) (pa : Dword) (v : Byte) : (s.putByte pa v).cfg = s.cfg := rfl

/-! ## State.complete -/
@[simp] theorem State.complete_regs (s : State) (keepRf tf : Bool) : (s.complete keepRf tf).regs = s.regs := rfl
@[simp] theorem State.complete_nextEip (s : State) (keepRf tf : Bool) : (s.complete keepRf tf).nextEip = s.nextEip := rfl
@[simp] theorem State.complete_cpl (s : State) (keepRf tf : Bool) : (s.complete keepRf tf).cpl = s.cpl := rfl
@[simp] theorem State.complete_segs (s : State) (keepRf tf : Bool) : (s.complete keepRf tf).segs = s.segs := rfl
@[simp] theorem State.complete_ldtr (s : State) (keepRf tf : Bool) : (s.complete keepRf tf).ldtr = s.ldtr := rfl
@[simp] theorem State.complete_tr (s : State) (keepRf tf : Bool) : (s.complete keepRf tf).tr = s.tr := rfl
@[simp] theorem State.complete_gdtr (s : State) (keepRf tf : Bool) : (s.complete keepRf tf).gdtr = s.gdtr := rfl
@[simp] theorem State.complete_idtr (s : State) (keepRf tf : Bool) : (s.complete keepRf tf).idtr = s.idtr := rfl
@[simp] theorem State.complete_cr0 (s : State) (keepRf tf : Bool) : (s.complete keepRf tf).cr0 = s.cr0 := rfl
@[simp] theorem State.complete_cr2 (s : State) (keepRf tf : Bool) : (s.complete keepRf tf).cr2 = s.cr2 := rfl
@[simp] theorem State.complete_cr3 (s : State) (keepRf tf : Bool) : (s.complete keepRf tf).cr3 = s.cr3 := rfl
@[simp] theorem State.complete_dregs (s : State) (keepRf tf : Bool) : (s.complete keepRf tf).dregs = s.dregs := rfl
@[simp] theorem State.complete_tr6 (s : State) (keepRf tf : Bool) : (s.complete keepRf tf).tr6 = s.tr6 := rfl
@[simp] theorem State.complete_tr7 (s : State) (keepRf tf : Bool) : (s.complete keepRf tf).tr7 = s.tr7 := rfl
@[simp] theorem State.complete_tlb (s : State) (keepRf tf : Bool) : (s.complete keepRf tf).tlb = s.tlb := rfl
@[simp] theorem State.complete_icache (s : State) (keepRf tf : Bool) : (s.complete keepRf tf).icache = s.icache := rfl
@[simp] theorem State.complete_inhibit (s : State) (keepRf tf : Bool) : (s.complete keepRf tf).inhibit = s.inhibit := rfl
@[simp] theorem State.complete_held (s : State) (keepRf tf : Bool) : (s.complete keepRf tf).held = s.held := rfl
@[simp] theorem State.complete_nmiMasked (s : State) (keepRf tf : Bool) : (s.complete keepRf tf).nmiMasked = s.nmiMasked := rfl
@[simp] theorem State.complete_run (s : State) (keepRf tf : Bool) : (s.complete keepRf tf).run = s.run := rfl
@[simp] theorem State.complete_lines (s : State) (keepRf tf : Bool) : (s.complete keepRf tf).lines = s.lines := rfl
@[simp] theorem State.complete_ssv (s : State) (keepRf tf : Bool) : (s.complete keepRf tf).ssv = s.ssv := rfl
@[simp] theorem State.complete_stale (s : State) (keepRf tf : Bool) : (s.complete keepRf tf).stale = s.stale := rfl
@[simp] theorem State.complete_queue (s : State) (keepRf tf : Bool) : (s.complete keepRf tf).queue = s.queue := rfl
@[simp] theorem State.complete_flushed (s : State) (keepRf tf : Bool) : (s.complete keepRf tf).flushed = s.flushed := rfl
@[simp] theorem State.complete_pfx (s : State) (keepRf tf : Bool) : (s.complete keepRf tf).pfx = s.pfx := rfl
@[simp] theorem State.complete_mem (s : State) (keepRf tf : Bool) : (s.complete keepRf tf).mem = s.mem := rfl
@[simp] theorem State.complete_free (s : State) (keepRf tf : Bool) : (s.complete keepRf tf).free = s.free := rfl
@[simp] theorem State.complete_out (s : State) (keepRf tf : Bool) : (s.complete keepRf tf).out = s.out := rfl
@[simp] theorem State.complete_cfg (s : State) (keepRf tf : Bool) : (s.complete keepRf tf).cfg = s.cfg := rfl

/-! ## State.drew -/
@[simp] theorem State.drew_regs (s : State) : s.drew.regs = s.regs := rfl
@[simp] theorem State.drew_eip (s : State) : s.drew.eip = s.eip := rfl
@[simp] theorem State.drew_nextEip (s : State) : s.drew.nextEip = s.nextEip := rfl
@[simp] theorem State.drew_eflags (s : State) : s.drew.eflags = s.eflags := rfl
@[simp] theorem State.drew_cpl (s : State) : s.drew.cpl = s.cpl := rfl
@[simp] theorem State.drew_segs (s : State) : s.drew.segs = s.segs := rfl
@[simp] theorem State.drew_ldtr (s : State) : s.drew.ldtr = s.ldtr := rfl
@[simp] theorem State.drew_tr (s : State) : s.drew.tr = s.tr := rfl
@[simp] theorem State.drew_gdtr (s : State) : s.drew.gdtr = s.gdtr := rfl
@[simp] theorem State.drew_idtr (s : State) : s.drew.idtr = s.idtr := rfl
@[simp] theorem State.drew_cr0 (s : State) : s.drew.cr0 = s.cr0 := rfl
@[simp] theorem State.drew_cr2 (s : State) : s.drew.cr2 = s.cr2 := rfl
@[simp] theorem State.drew_cr3 (s : State) : s.drew.cr3 = s.cr3 := rfl
@[simp] theorem State.drew_dregs (s : State) : s.drew.dregs = s.dregs := rfl
@[simp] theorem State.drew_tr6 (s : State) : s.drew.tr6 = s.tr6 := rfl
@[simp] theorem State.drew_tr7 (s : State) : s.drew.tr7 = s.tr7 := rfl
@[simp] theorem State.drew_tlb (s : State) : s.drew.tlb = s.tlb := rfl
@[simp] theorem State.drew_icache (s : State) : s.drew.icache = s.icache := rfl
@[simp] theorem State.drew_inhibit (s : State) : s.drew.inhibit = s.inhibit := rfl
@[simp] theorem State.drew_held (s : State) : s.drew.held = s.held := rfl
@[simp] theorem State.drew_nmiMasked (s : State) : s.drew.nmiMasked = s.nmiMasked := rfl
@[simp] theorem State.drew_run (s : State) : s.drew.run = s.run := rfl
@[simp] theorem State.drew_lines (s : State) : s.drew.lines = s.lines := rfl
@[simp] theorem State.drew_pend (s : State) : s.drew.pend = s.pend := rfl
@[simp] theorem State.drew_ssv (s : State) : s.drew.ssv = s.ssv := rfl
@[simp] theorem State.drew_stale (s : State) : s.drew.stale = s.stale := rfl
@[simp] theorem State.drew_queue (s : State) : s.drew.queue = s.queue := rfl
@[simp] theorem State.drew_flushed (s : State) : s.drew.flushed = s.flushed := rfl
@[simp] theorem State.drew_again (s : State) : s.drew.again = s.again := rfl
@[simp] theorem State.drew_pfx (s : State) : s.drew.pfx = s.pfx := rfl
@[simp] theorem State.drew_mem (s : State) : s.drew.mem = s.mem := rfl
@[simp] theorem State.drew_out (s : State) : s.drew.out = s.out := rfl
@[simp] theorem State.drew_cfg (s : State) : s.drew.cfg = s.cfg := rfl

/-! ## State.emptied -/
@[simp] theorem State.emptied_regs (s : State) : s.emptied.regs = s.regs := rfl
@[simp] theorem State.emptied_eip (s : State) : s.emptied.eip = s.eip := rfl
@[simp] theorem State.emptied_nextEip (s : State) : s.emptied.nextEip = s.nextEip := rfl
@[simp] theorem State.emptied_eflags (s : State) : s.emptied.eflags = s.eflags := rfl
@[simp] theorem State.emptied_cpl (s : State) : s.emptied.cpl = s.cpl := rfl
@[simp] theorem State.emptied_segs (s : State) : s.emptied.segs = s.segs := rfl
@[simp] theorem State.emptied_ldtr (s : State) : s.emptied.ldtr = s.ldtr := rfl
@[simp] theorem State.emptied_tr (s : State) : s.emptied.tr = s.tr := rfl
@[simp] theorem State.emptied_gdtr (s : State) : s.emptied.gdtr = s.gdtr := rfl
@[simp] theorem State.emptied_idtr (s : State) : s.emptied.idtr = s.idtr := rfl
@[simp] theorem State.emptied_cr0 (s : State) : s.emptied.cr0 = s.cr0 := rfl
@[simp] theorem State.emptied_cr2 (s : State) : s.emptied.cr2 = s.cr2 := rfl
@[simp] theorem State.emptied_cr3 (s : State) : s.emptied.cr3 = s.cr3 := rfl
@[simp] theorem State.emptied_dregs (s : State) : s.emptied.dregs = s.dregs := rfl
@[simp] theorem State.emptied_tr6 (s : State) : s.emptied.tr6 = s.tr6 := rfl
@[simp] theorem State.emptied_tr7 (s : State) : s.emptied.tr7 = s.tr7 := rfl
@[simp] theorem State.emptied_tlb (s : State) : s.emptied.tlb = s.tlb := rfl
@[simp] theorem State.emptied_icache (s : State) : s.emptied.icache = s.icache := rfl
@[simp] theorem State.emptied_inhibit (s : State) : s.emptied.inhibit = s.inhibit := rfl
@[simp] theorem State.emptied_held (s : State) : s.emptied.held = s.held := rfl
@[simp] theorem State.emptied_nmiMasked (s : State) : s.emptied.nmiMasked = s.nmiMasked := rfl
@[simp] theorem State.emptied_run (s : State) : s.emptied.run = s.run := rfl
@[simp] theorem State.emptied_lines (s : State) : s.emptied.lines = s.lines := rfl
@[simp] theorem State.emptied_pend (s : State) : s.emptied.pend = s.pend := rfl
@[simp] theorem State.emptied_ssv (s : State) : s.emptied.ssv = s.ssv := rfl
@[simp] theorem State.emptied_pfx (s : State) : s.emptied.pfx = s.pfx := rfl
@[simp] theorem State.emptied_mem (s : State) : s.emptied.mem = s.mem := rfl
@[simp] theorem State.emptied_free (s : State) : s.emptied.free = s.free := rfl
@[simp] theorem State.emptied_out (s : State) : s.emptied.out = s.out := rfl
@[simp] theorem State.emptied_cfg (s : State) : s.emptied.cfg = s.cfg := rfl

/-! ## State.latch -/
@[simp] theorem State.latch_regs (s : State) (i : Instr) : (s.latch i).regs = s.regs := rfl
@[simp] theorem State.latch_eip (s : State) (i : Instr) : (s.latch i).eip = s.eip := rfl
@[simp] theorem State.latch_nextEip (s : State) (i : Instr) : (s.latch i).nextEip = s.nextEip := rfl
@[simp] theorem State.latch_eflags (s : State) (i : Instr) : (s.latch i).eflags = s.eflags := rfl
@[simp] theorem State.latch_cpl (s : State) (i : Instr) : (s.latch i).cpl = s.cpl := rfl
@[simp] theorem State.latch_segs (s : State) (i : Instr) : (s.latch i).segs = s.segs := rfl
@[simp] theorem State.latch_ldtr (s : State) (i : Instr) : (s.latch i).ldtr = s.ldtr := rfl
@[simp] theorem State.latch_tr (s : State) (i : Instr) : (s.latch i).tr = s.tr := rfl
@[simp] theorem State.latch_gdtr (s : State) (i : Instr) : (s.latch i).gdtr = s.gdtr := rfl
@[simp] theorem State.latch_idtr (s : State) (i : Instr) : (s.latch i).idtr = s.idtr := rfl
@[simp] theorem State.latch_cr0 (s : State) (i : Instr) : (s.latch i).cr0 = s.cr0 := rfl
@[simp] theorem State.latch_cr2 (s : State) (i : Instr) : (s.latch i).cr2 = s.cr2 := rfl
@[simp] theorem State.latch_cr3 (s : State) (i : Instr) : (s.latch i).cr3 = s.cr3 := rfl
@[simp] theorem State.latch_dregs (s : State) (i : Instr) : (s.latch i).dregs = s.dregs := rfl
@[simp] theorem State.latch_tr6 (s : State) (i : Instr) : (s.latch i).tr6 = s.tr6 := rfl
@[simp] theorem State.latch_tr7 (s : State) (i : Instr) : (s.latch i).tr7 = s.tr7 := rfl
@[simp] theorem State.latch_tlb (s : State) (i : Instr) : (s.latch i).tlb = s.tlb := rfl
@[simp] theorem State.latch_icache (s : State) (i : Instr) : (s.latch i).icache = s.icache := rfl
@[simp] theorem State.latch_inhibit (s : State) (i : Instr) : (s.latch i).inhibit = s.inhibit := rfl
@[simp] theorem State.latch_held (s : State) (i : Instr) : (s.latch i).held = s.held := rfl
@[simp] theorem State.latch_nmiMasked (s : State) (i : Instr) : (s.latch i).nmiMasked = s.nmiMasked := rfl
@[simp] theorem State.latch_run (s : State) (i : Instr) : (s.latch i).run = s.run := rfl
@[simp] theorem State.latch_lines (s : State) (i : Instr) : (s.latch i).lines = s.lines := rfl
@[simp] theorem State.latch_pend (s : State) (i : Instr) : (s.latch i).pend = s.pend := rfl
@[simp] theorem State.latch_ssv (s : State) (i : Instr) : (s.latch i).ssv = s.ssv := rfl
@[simp] theorem State.latch_stale (s : State) (i : Instr) : (s.latch i).stale = s.stale := rfl
@[simp] theorem State.latch_queue (s : State) (i : Instr) : (s.latch i).queue = s.queue := rfl
@[simp] theorem State.latch_flushed (s : State) (i : Instr) : (s.latch i).flushed = s.flushed := rfl
@[simp] theorem State.latch_again (s : State) (i : Instr) : (s.latch i).again = s.again := rfl
@[simp] theorem State.latch_mem (s : State) (i : Instr) : (s.latch i).mem = s.mem := rfl
@[simp] theorem State.latch_free (s : State) (i : Instr) : (s.latch i).free = s.free := rfl
@[simp] theorem State.latch_out (s : State) (i : Instr) : (s.latch i).out = s.out := rfl
@[simp] theorem State.latch_cfg (s : State) (i : Instr) : (s.latch i).cfg = s.cfg := rfl

/-! ## State.fetched -/
@[simp] theorem State.fetched_regs (s : State) (i : Instr) (len : Nat) : (s.fetched i len).regs = s.regs := rfl
@[simp] theorem State.fetched_eip (s : State) (i : Instr) (len : Nat) : (s.fetched i len).eip = s.eip := rfl
@[simp] theorem State.fetched_eflags (s : State) (i : Instr) (len : Nat) : (s.fetched i len).eflags = s.eflags := rfl
@[simp] theorem State.fetched_cpl (s : State) (i : Instr) (len : Nat) : (s.fetched i len).cpl = s.cpl := rfl
@[simp] theorem State.fetched_segs (s : State) (i : Instr) (len : Nat) : (s.fetched i len).segs = s.segs := rfl
@[simp] theorem State.fetched_ldtr (s : State) (i : Instr) (len : Nat) : (s.fetched i len).ldtr = s.ldtr := rfl
@[simp] theorem State.fetched_tr (s : State) (i : Instr) (len : Nat) : (s.fetched i len).tr = s.tr := rfl
@[simp] theorem State.fetched_gdtr (s : State) (i : Instr) (len : Nat) : (s.fetched i len).gdtr = s.gdtr := rfl
@[simp] theorem State.fetched_idtr (s : State) (i : Instr) (len : Nat) : (s.fetched i len).idtr = s.idtr := rfl
@[simp] theorem State.fetched_cr0 (s : State) (i : Instr) (len : Nat) : (s.fetched i len).cr0 = s.cr0 := rfl
@[simp] theorem State.fetched_cr2 (s : State) (i : Instr) (len : Nat) : (s.fetched i len).cr2 = s.cr2 := rfl
@[simp] theorem State.fetched_cr3 (s : State) (i : Instr) (len : Nat) : (s.fetched i len).cr3 = s.cr3 := rfl
@[simp] theorem State.fetched_dregs (s : State) (i : Instr) (len : Nat) : (s.fetched i len).dregs = s.dregs := rfl
@[simp] theorem State.fetched_tr6 (s : State) (i : Instr) (len : Nat) : (s.fetched i len).tr6 = s.tr6 := rfl
@[simp] theorem State.fetched_tr7 (s : State) (i : Instr) (len : Nat) : (s.fetched i len).tr7 = s.tr7 := rfl
@[simp] theorem State.fetched_tlb (s : State) (i : Instr) (len : Nat) : (s.fetched i len).tlb = s.tlb := rfl
@[simp] theorem State.fetched_icache (s : State) (i : Instr) (len : Nat) : (s.fetched i len).icache = s.icache := rfl
@[simp] theorem State.fetched_inhibit (s : State) (i : Instr) (len : Nat) : (s.fetched i len).inhibit = s.inhibit := rfl
@[simp] theorem State.fetched_held (s : State) (i : Instr) (len : Nat) : (s.fetched i len).held = s.held := rfl
@[simp] theorem State.fetched_nmiMasked (s : State) (i : Instr) (len : Nat) : (s.fetched i len).nmiMasked = s.nmiMasked := rfl
@[simp] theorem State.fetched_run (s : State) (i : Instr) (len : Nat) : (s.fetched i len).run = s.run := rfl
@[simp] theorem State.fetched_lines (s : State) (i : Instr) (len : Nat) : (s.fetched i len).lines = s.lines := rfl
@[simp] theorem State.fetched_pend (s : State) (i : Instr) (len : Nat) : (s.fetched i len).pend = s.pend := rfl
@[simp] theorem State.fetched_ssv (s : State) (i : Instr) (len : Nat) : (s.fetched i len).ssv = s.ssv := rfl
@[simp] theorem State.fetched_pfx (s : State) (i : Instr) (len : Nat) : (s.fetched i len).pfx = s.pfx := rfl
@[simp] theorem State.fetched_mem (s : State) (i : Instr) (len : Nat) : (s.fetched i len).mem = s.mem := rfl
@[simp] theorem State.fetched_free (s : State) (i : Instr) (len : Nat) : (s.fetched i len).free = s.free := rfl
@[simp] theorem State.fetched_out (s : State) (i : Instr) (len : Nat) : (s.fetched i len).out = s.out := rfl
@[simp] theorem State.fetched_cfg (s : State) (i : Instr) (len : Nat) : (s.fetched i len).cfg = s.cfg := rfl

/-! ## State.resumed -/
@[simp] theorem State.resumed_regs (s : State) (r : Repeat) : (s.resumed r).regs = s.regs := rfl
@[simp] theorem State.resumed_eip (s : State) (r : Repeat) : (s.resumed r).eip = s.eip := rfl
@[simp] theorem State.resumed_eflags (s : State) (r : Repeat) : (s.resumed r).eflags = s.eflags := rfl
@[simp] theorem State.resumed_cpl (s : State) (r : Repeat) : (s.resumed r).cpl = s.cpl := rfl
@[simp] theorem State.resumed_segs (s : State) (r : Repeat) : (s.resumed r).segs = s.segs := rfl
@[simp] theorem State.resumed_ldtr (s : State) (r : Repeat) : (s.resumed r).ldtr = s.ldtr := rfl
@[simp] theorem State.resumed_tr (s : State) (r : Repeat) : (s.resumed r).tr = s.tr := rfl
@[simp] theorem State.resumed_gdtr (s : State) (r : Repeat) : (s.resumed r).gdtr = s.gdtr := rfl
@[simp] theorem State.resumed_idtr (s : State) (r : Repeat) : (s.resumed r).idtr = s.idtr := rfl
@[simp] theorem State.resumed_cr0 (s : State) (r : Repeat) : (s.resumed r).cr0 = s.cr0 := rfl
@[simp] theorem State.resumed_cr2 (s : State) (r : Repeat) : (s.resumed r).cr2 = s.cr2 := rfl
@[simp] theorem State.resumed_cr3 (s : State) (r : Repeat) : (s.resumed r).cr3 = s.cr3 := rfl
@[simp] theorem State.resumed_dregs (s : State) (r : Repeat) : (s.resumed r).dregs = s.dregs := rfl
@[simp] theorem State.resumed_tr6 (s : State) (r : Repeat) : (s.resumed r).tr6 = s.tr6 := rfl
@[simp] theorem State.resumed_tr7 (s : State) (r : Repeat) : (s.resumed r).tr7 = s.tr7 := rfl
@[simp] theorem State.resumed_tlb (s : State) (r : Repeat) : (s.resumed r).tlb = s.tlb := rfl
@[simp] theorem State.resumed_icache (s : State) (r : Repeat) : (s.resumed r).icache = s.icache := rfl
@[simp] theorem State.resumed_inhibit (s : State) (r : Repeat) : (s.resumed r).inhibit = s.inhibit := rfl
@[simp] theorem State.resumed_held (s : State) (r : Repeat) : (s.resumed r).held = s.held := rfl
@[simp] theorem State.resumed_nmiMasked (s : State) (r : Repeat) : (s.resumed r).nmiMasked = s.nmiMasked := rfl
@[simp] theorem State.resumed_run (s : State) (r : Repeat) : (s.resumed r).run = s.run := rfl
@[simp] theorem State.resumed_lines (s : State) (r : Repeat) : (s.resumed r).lines = s.lines := rfl
@[simp] theorem State.resumed_pend (s : State) (r : Repeat) : (s.resumed r).pend = s.pend := rfl
@[simp] theorem State.resumed_ssv (s : State) (r : Repeat) : (s.resumed r).ssv = s.ssv := rfl
@[simp] theorem State.resumed_stale (s : State) (r : Repeat) : (s.resumed r).stale = s.stale := rfl
@[simp] theorem State.resumed_queue (s : State) (r : Repeat) : (s.resumed r).queue = s.queue := rfl
@[simp] theorem State.resumed_flushed (s : State) (r : Repeat) : (s.resumed r).flushed = s.flushed := rfl
@[simp] theorem State.resumed_again (s : State) (r : Repeat) : (s.resumed r).again = s.again := rfl
@[simp] theorem State.resumed_mem (s : State) (r : Repeat) : (s.resumed r).mem = s.mem := rfl
@[simp] theorem State.resumed_free (s : State) (r : Repeat) : (s.resumed r).free = s.free := rfl
@[simp] theorem State.resumed_out (s : State) (r : Repeat) : (s.resumed r).out = s.out := rfl
@[simp] theorem State.resumed_cfg (s : State) (r : Repeat) : (s.resumed r).cfg = s.cfg := rfl

/-! ## State.advance -/
@[simp] theorem State.advance_eip (s : State) (n : Nat) (r : Reg) : (s.advance n r).eip = s.eip := rfl
@[simp] theorem State.advance_nextEip (s : State) (n : Nat) (r : Reg) : (s.advance n r).nextEip = s.nextEip := rfl
@[simp] theorem State.advance_eflags (s : State) (n : Nat) (r : Reg) : (s.advance n r).eflags = s.eflags := rfl
@[simp] theorem State.advance_cpl (s : State) (n : Nat) (r : Reg) : (s.advance n r).cpl = s.cpl := rfl
@[simp] theorem State.advance_segs (s : State) (n : Nat) (r : Reg) : (s.advance n r).segs = s.segs := rfl
@[simp] theorem State.advance_ldtr (s : State) (n : Nat) (r : Reg) : (s.advance n r).ldtr = s.ldtr := rfl
@[simp] theorem State.advance_tr (s : State) (n : Nat) (r : Reg) : (s.advance n r).tr = s.tr := rfl
@[simp] theorem State.advance_gdtr (s : State) (n : Nat) (r : Reg) : (s.advance n r).gdtr = s.gdtr := rfl
@[simp] theorem State.advance_idtr (s : State) (n : Nat) (r : Reg) : (s.advance n r).idtr = s.idtr := rfl
@[simp] theorem State.advance_cr0 (s : State) (n : Nat) (r : Reg) : (s.advance n r).cr0 = s.cr0 := rfl
@[simp] theorem State.advance_cr2 (s : State) (n : Nat) (r : Reg) : (s.advance n r).cr2 = s.cr2 := rfl
@[simp] theorem State.advance_cr3 (s : State) (n : Nat) (r : Reg) : (s.advance n r).cr3 = s.cr3 := rfl
@[simp] theorem State.advance_dregs (s : State) (n : Nat) (r : Reg) : (s.advance n r).dregs = s.dregs := rfl
@[simp] theorem State.advance_tr6 (s : State) (n : Nat) (r : Reg) : (s.advance n r).tr6 = s.tr6 := rfl
@[simp] theorem State.advance_tr7 (s : State) (n : Nat) (r : Reg) : (s.advance n r).tr7 = s.tr7 := rfl
@[simp] theorem State.advance_tlb (s : State) (n : Nat) (r : Reg) : (s.advance n r).tlb = s.tlb := rfl
@[simp] theorem State.advance_icache (s : State) (n : Nat) (r : Reg) : (s.advance n r).icache = s.icache := rfl
@[simp] theorem State.advance_inhibit (s : State) (n : Nat) (r : Reg) : (s.advance n r).inhibit = s.inhibit := rfl
@[simp] theorem State.advance_held (s : State) (n : Nat) (r : Reg) : (s.advance n r).held = s.held := rfl
@[simp] theorem State.advance_nmiMasked (s : State) (n : Nat) (r : Reg) : (s.advance n r).nmiMasked = s.nmiMasked := rfl
@[simp] theorem State.advance_run (s : State) (n : Nat) (r : Reg) : (s.advance n r).run = s.run := rfl
@[simp] theorem State.advance_lines (s : State) (n : Nat) (r : Reg) : (s.advance n r).lines = s.lines := rfl
@[simp] theorem State.advance_pend (s : State) (n : Nat) (r : Reg) : (s.advance n r).pend = s.pend := rfl
@[simp] theorem State.advance_ssv (s : State) (n : Nat) (r : Reg) : (s.advance n r).ssv = s.ssv := rfl
@[simp] theorem State.advance_stale (s : State) (n : Nat) (r : Reg) : (s.advance n r).stale = s.stale := rfl
@[simp] theorem State.advance_queue (s : State) (n : Nat) (r : Reg) : (s.advance n r).queue = s.queue := rfl
@[simp] theorem State.advance_flushed (s : State) (n : Nat) (r : Reg) : (s.advance n r).flushed = s.flushed := rfl
@[simp] theorem State.advance_again (s : State) (n : Nat) (r : Reg) : (s.advance n r).again = s.again := rfl
@[simp] theorem State.advance_pfx (s : State) (n : Nat) (r : Reg) : (s.advance n r).pfx = s.pfx := rfl
@[simp] theorem State.advance_mem (s : State) (n : Nat) (r : Reg) : (s.advance n r).mem = s.mem := rfl
@[simp] theorem State.advance_free (s : State) (n : Nat) (r : Reg) : (s.advance n r).free = s.free := rfl
@[simp] theorem State.advance_out (s : State) (n : Nat) (r : Reg) : (s.advance n r).out = s.out := rfl
@[simp] theorem State.advance_cfg (s : State) (n : Nat) (r : Reg) : (s.advance n r).cfg = s.cfg := rfl

/-! ## State.countDown -/
@[simp] theorem State.countDown_eip (s : State) : s.countDown.eip = s.eip := rfl
@[simp] theorem State.countDown_nextEip (s : State) : s.countDown.nextEip = s.nextEip := rfl
@[simp] theorem State.countDown_eflags (s : State) : s.countDown.eflags = s.eflags := rfl
@[simp] theorem State.countDown_cpl (s : State) : s.countDown.cpl = s.cpl := rfl
@[simp] theorem State.countDown_segs (s : State) : s.countDown.segs = s.segs := rfl
@[simp] theorem State.countDown_ldtr (s : State) : s.countDown.ldtr = s.ldtr := rfl
@[simp] theorem State.countDown_tr (s : State) : s.countDown.tr = s.tr := rfl
@[simp] theorem State.countDown_gdtr (s : State) : s.countDown.gdtr = s.gdtr := rfl
@[simp] theorem State.countDown_idtr (s : State) : s.countDown.idtr = s.idtr := rfl
@[simp] theorem State.countDown_cr0 (s : State) : s.countDown.cr0 = s.cr0 := rfl
@[simp] theorem State.countDown_cr2 (s : State) : s.countDown.cr2 = s.cr2 := rfl
@[simp] theorem State.countDown_cr3 (s : State) : s.countDown.cr3 = s.cr3 := rfl
@[simp] theorem State.countDown_dregs (s : State) : s.countDown.dregs = s.dregs := rfl
@[simp] theorem State.countDown_tr6 (s : State) : s.countDown.tr6 = s.tr6 := rfl
@[simp] theorem State.countDown_tr7 (s : State) : s.countDown.tr7 = s.tr7 := rfl
@[simp] theorem State.countDown_tlb (s : State) : s.countDown.tlb = s.tlb := rfl
@[simp] theorem State.countDown_icache (s : State) : s.countDown.icache = s.icache := rfl
@[simp] theorem State.countDown_inhibit (s : State) : s.countDown.inhibit = s.inhibit := rfl
@[simp] theorem State.countDown_held (s : State) : s.countDown.held = s.held := rfl
@[simp] theorem State.countDown_nmiMasked (s : State) : s.countDown.nmiMasked = s.nmiMasked := rfl
@[simp] theorem State.countDown_run (s : State) : s.countDown.run = s.run := rfl
@[simp] theorem State.countDown_lines (s : State) : s.countDown.lines = s.lines := rfl
@[simp] theorem State.countDown_pend (s : State) : s.countDown.pend = s.pend := rfl
@[simp] theorem State.countDown_ssv (s : State) : s.countDown.ssv = s.ssv := rfl
@[simp] theorem State.countDown_stale (s : State) : s.countDown.stale = s.stale := rfl
@[simp] theorem State.countDown_queue (s : State) : s.countDown.queue = s.queue := rfl
@[simp] theorem State.countDown_flushed (s : State) : s.countDown.flushed = s.flushed := rfl
@[simp] theorem State.countDown_again (s : State) : s.countDown.again = s.again := rfl
@[simp] theorem State.countDown_pfx (s : State) : s.countDown.pfx = s.pfx := rfl
@[simp] theorem State.countDown_mem (s : State) : s.countDown.mem = s.mem := rfl
@[simp] theorem State.countDown_free (s : State) : s.countDown.free = s.free := rfl
@[simp] theorem State.countDown_out (s : State) : s.countDown.out = s.out := rfl
@[simp] theorem State.countDown_cfg (s : State) : s.countDown.cfg = s.cfg := rfl

/-! ## State.nullData -/
@[simp] theorem State.nullData_regs (s : State) : s.nullData.regs = s.regs := rfl
@[simp] theorem State.nullData_eip (s : State) : s.nullData.eip = s.eip := rfl
@[simp] theorem State.nullData_nextEip (s : State) : s.nullData.nextEip = s.nextEip := rfl
@[simp] theorem State.nullData_eflags (s : State) : s.nullData.eflags = s.eflags := rfl
@[simp] theorem State.nullData_cpl (s : State) : s.nullData.cpl = s.cpl := rfl
@[simp] theorem State.nullData_ldtr (s : State) : s.nullData.ldtr = s.ldtr := rfl
@[simp] theorem State.nullData_tr (s : State) : s.nullData.tr = s.tr := rfl
@[simp] theorem State.nullData_gdtr (s : State) : s.nullData.gdtr = s.gdtr := rfl
@[simp] theorem State.nullData_idtr (s : State) : s.nullData.idtr = s.idtr := rfl
@[simp] theorem State.nullData_cr0 (s : State) : s.nullData.cr0 = s.cr0 := rfl
@[simp] theorem State.nullData_cr2 (s : State) : s.nullData.cr2 = s.cr2 := rfl
@[simp] theorem State.nullData_cr3 (s : State) : s.nullData.cr3 = s.cr3 := rfl
@[simp] theorem State.nullData_dregs (s : State) : s.nullData.dregs = s.dregs := rfl
@[simp] theorem State.nullData_tr6 (s : State) : s.nullData.tr6 = s.tr6 := rfl
@[simp] theorem State.nullData_tr7 (s : State) : s.nullData.tr7 = s.tr7 := rfl
@[simp] theorem State.nullData_tlb (s : State) : s.nullData.tlb = s.tlb := rfl
@[simp] theorem State.nullData_icache (s : State) : s.nullData.icache = s.icache := rfl
@[simp] theorem State.nullData_inhibit (s : State) : s.nullData.inhibit = s.inhibit := rfl
@[simp] theorem State.nullData_held (s : State) : s.nullData.held = s.held := rfl
@[simp] theorem State.nullData_nmiMasked (s : State) : s.nullData.nmiMasked = s.nmiMasked := rfl
@[simp] theorem State.nullData_run (s : State) : s.nullData.run = s.run := rfl
@[simp] theorem State.nullData_lines (s : State) : s.nullData.lines = s.lines := rfl
@[simp] theorem State.nullData_pend (s : State) : s.nullData.pend = s.pend := rfl
@[simp] theorem State.nullData_ssv (s : State) : s.nullData.ssv = s.ssv := rfl
@[simp] theorem State.nullData_stale (s : State) : s.nullData.stale = s.stale := rfl
@[simp] theorem State.nullData_queue (s : State) : s.nullData.queue = s.queue := rfl
@[simp] theorem State.nullData_flushed (s : State) : s.nullData.flushed = s.flushed := rfl
@[simp] theorem State.nullData_again (s : State) : s.nullData.again = s.again := rfl
@[simp] theorem State.nullData_pfx (s : State) : s.nullData.pfx = s.pfx := rfl
@[simp] theorem State.nullData_mem (s : State) : s.nullData.mem = s.mem := rfl
@[simp] theorem State.nullData_free (s : State) : s.nullData.free = s.free := rfl
@[simp] theorem State.nullData_out (s : State) : s.nullData.out = s.out := rfl
@[simp] theorem State.nullData_cfg (s : State) : s.nullData.cfg = s.cfg := rfl

/-! ## State.entered -/
@[simp] theorem State.entered_regs (s : State) : s.entered.regs = s.regs := rfl
@[simp] theorem State.entered_nextEip (s : State) : s.entered.nextEip = s.nextEip := rfl
@[simp] theorem State.entered_eflags (s : State) : s.entered.eflags = s.eflags := rfl
@[simp] theorem State.entered_cpl (s : State) : s.entered.cpl = s.cpl := rfl
@[simp] theorem State.entered_segs (s : State) : s.entered.segs = s.segs := rfl
@[simp] theorem State.entered_ldtr (s : State) : s.entered.ldtr = s.ldtr := rfl
@[simp] theorem State.entered_tr (s : State) : s.entered.tr = s.tr := rfl
@[simp] theorem State.entered_gdtr (s : State) : s.entered.gdtr = s.gdtr := rfl
@[simp] theorem State.entered_idtr (s : State) : s.entered.idtr = s.idtr := rfl
@[simp] theorem State.entered_cr0 (s : State) : s.entered.cr0 = s.cr0 := rfl
@[simp] theorem State.entered_cr2 (s : State) : s.entered.cr2 = s.cr2 := rfl
@[simp] theorem State.entered_cr3 (s : State) : s.entered.cr3 = s.cr3 := rfl
@[simp] theorem State.entered_dregs (s : State) : s.entered.dregs = s.dregs := rfl
@[simp] theorem State.entered_tr6 (s : State) : s.entered.tr6 = s.tr6 := rfl
@[simp] theorem State.entered_tr7 (s : State) : s.entered.tr7 = s.tr7 := rfl
@[simp] theorem State.entered_tlb (s : State) : s.entered.tlb = s.tlb := rfl
@[simp] theorem State.entered_icache (s : State) : s.entered.icache = s.icache := rfl
@[simp] theorem State.entered_inhibit (s : State) : s.entered.inhibit = s.inhibit := rfl
@[simp] theorem State.entered_held (s : State) : s.entered.held = s.held := rfl
@[simp] theorem State.entered_nmiMasked (s : State) : s.entered.nmiMasked = s.nmiMasked := rfl
@[simp] theorem State.entered_run (s : State) : s.entered.run = s.run := rfl
@[simp] theorem State.entered_lines (s : State) : s.entered.lines = s.lines := rfl
@[simp] theorem State.entered_pend (s : State) : s.entered.pend = s.pend := rfl
@[simp] theorem State.entered_ssv (s : State) : s.entered.ssv = s.ssv := rfl
@[simp] theorem State.entered_stale (s : State) : s.entered.stale = s.stale := rfl
@[simp] theorem State.entered_queue (s : State) : s.entered.queue = s.queue := rfl
@[simp] theorem State.entered_flushed (s : State) : s.entered.flushed = s.flushed := rfl
@[simp] theorem State.entered_again (s : State) : s.entered.again = s.again := rfl
@[simp] theorem State.entered_pfx (s : State) : s.entered.pfx = s.pfx := rfl
@[simp] theorem State.entered_mem (s : State) : s.entered.mem = s.mem := rfl
@[simp] theorem State.entered_free (s : State) : s.entered.free = s.free := rfl
@[simp] theorem State.entered_out (s : State) : s.entered.out = s.out := rfl
@[simp] theorem State.entered_cfg (s : State) : s.entered.cfg = s.cfg := rfl

/-! ## State.invalidateOuter -/
@[simp] theorem State.invalidateOuter_regs (s : State) (level : BitVec 2) : (s.invalidateOuter level).regs = s.regs := rfl
@[simp] theorem State.invalidateOuter_eip (s : State) (level : BitVec 2) : (s.invalidateOuter level).eip = s.eip := rfl
@[simp] theorem State.invalidateOuter_nextEip (s : State) (level : BitVec 2) : (s.invalidateOuter level).nextEip = s.nextEip := rfl
@[simp] theorem State.invalidateOuter_eflags (s : State) (level : BitVec 2) : (s.invalidateOuter level).eflags = s.eflags := rfl
@[simp] theorem State.invalidateOuter_cpl (s : State) (level : BitVec 2) : (s.invalidateOuter level).cpl = s.cpl := rfl
@[simp] theorem State.invalidateOuter_ldtr (s : State) (level : BitVec 2) : (s.invalidateOuter level).ldtr = s.ldtr := rfl
@[simp] theorem State.invalidateOuter_tr (s : State) (level : BitVec 2) : (s.invalidateOuter level).tr = s.tr := rfl
@[simp] theorem State.invalidateOuter_gdtr (s : State) (level : BitVec 2) : (s.invalidateOuter level).gdtr = s.gdtr := rfl
@[simp] theorem State.invalidateOuter_idtr (s : State) (level : BitVec 2) : (s.invalidateOuter level).idtr = s.idtr := rfl
@[simp] theorem State.invalidateOuter_cr0 (s : State) (level : BitVec 2) : (s.invalidateOuter level).cr0 = s.cr0 := rfl
@[simp] theorem State.invalidateOuter_cr2 (s : State) (level : BitVec 2) : (s.invalidateOuter level).cr2 = s.cr2 := rfl
@[simp] theorem State.invalidateOuter_cr3 (s : State) (level : BitVec 2) : (s.invalidateOuter level).cr3 = s.cr3 := rfl
@[simp] theorem State.invalidateOuter_dregs (s : State) (level : BitVec 2) : (s.invalidateOuter level).dregs = s.dregs := rfl
@[simp] theorem State.invalidateOuter_tr6 (s : State) (level : BitVec 2) : (s.invalidateOuter level).tr6 = s.tr6 := rfl
@[simp] theorem State.invalidateOuter_tr7 (s : State) (level : BitVec 2) : (s.invalidateOuter level).tr7 = s.tr7 := rfl
@[simp] theorem State.invalidateOuter_tlb (s : State) (level : BitVec 2) : (s.invalidateOuter level).tlb = s.tlb := rfl
@[simp] theorem State.invalidateOuter_icache (s : State) (level : BitVec 2) : (s.invalidateOuter level).icache = s.icache := rfl
@[simp] theorem State.invalidateOuter_inhibit (s : State) (level : BitVec 2) : (s.invalidateOuter level).inhibit = s.inhibit := rfl
@[simp] theorem State.invalidateOuter_held (s : State) (level : BitVec 2) : (s.invalidateOuter level).held = s.held := rfl
@[simp] theorem State.invalidateOuter_nmiMasked (s : State) (level : BitVec 2) : (s.invalidateOuter level).nmiMasked = s.nmiMasked := rfl
@[simp] theorem State.invalidateOuter_run (s : State) (level : BitVec 2) : (s.invalidateOuter level).run = s.run := rfl
@[simp] theorem State.invalidateOuter_lines (s : State) (level : BitVec 2) : (s.invalidateOuter level).lines = s.lines := rfl
@[simp] theorem State.invalidateOuter_pend (s : State) (level : BitVec 2) : (s.invalidateOuter level).pend = s.pend := rfl
@[simp] theorem State.invalidateOuter_ssv (s : State) (level : BitVec 2) : (s.invalidateOuter level).ssv = s.ssv := rfl
@[simp] theorem State.invalidateOuter_stale (s : State) (level : BitVec 2) : (s.invalidateOuter level).stale = s.stale := rfl
@[simp] theorem State.invalidateOuter_queue (s : State) (level : BitVec 2) : (s.invalidateOuter level).queue = s.queue := rfl
@[simp] theorem State.invalidateOuter_flushed (s : State) (level : BitVec 2) : (s.invalidateOuter level).flushed = s.flushed := rfl
@[simp] theorem State.invalidateOuter_again (s : State) (level : BitVec 2) : (s.invalidateOuter level).again = s.again := rfl
@[simp] theorem State.invalidateOuter_pfx (s : State) (level : BitVec 2) : (s.invalidateOuter level).pfx = s.pfx := rfl
@[simp] theorem State.invalidateOuter_mem (s : State) (level : BitVec 2) : (s.invalidateOuter level).mem = s.mem := rfl
@[simp] theorem State.invalidateOuter_free (s : State) (level : BitVec 2) : (s.invalidateOuter level).free = s.free := rfl
@[simp] theorem State.invalidateOuter_out (s : State) (level : BitVec 2) : (s.invalidateOuter level).out = s.out := rfl
@[simp] theorem State.invalidateOuter_cfg (s : State) (level : BitVec 2) : (s.invalidateOuter level).cfg = s.cfg := rfl

/-! ## State.restoreFlags -/
@[simp] theorem State.restoreFlags_regs (s : State) (fl : Dword) (os32 : Bool) (level : BitVec 2) : (s.restoreFlags fl os32 level).regs = s.regs := rfl
@[simp] theorem State.restoreFlags_eip (s : State) (fl : Dword) (os32 : Bool) (level : BitVec 2) : (s.restoreFlags fl os32 level).eip = s.eip := rfl
@[simp] theorem State.restoreFlags_nextEip (s : State) (fl : Dword) (os32 : Bool) (level : BitVec 2) : (s.restoreFlags fl os32 level).nextEip = s.nextEip := rfl
@[simp] theorem State.restoreFlags_cpl (s : State) (fl : Dword) (os32 : Bool) (level : BitVec 2) : (s.restoreFlags fl os32 level).cpl = s.cpl := rfl
@[simp] theorem State.restoreFlags_segs (s : State) (fl : Dword) (os32 : Bool) (level : BitVec 2) : (s.restoreFlags fl os32 level).segs = s.segs := rfl
@[simp] theorem State.restoreFlags_ldtr (s : State) (fl : Dword) (os32 : Bool) (level : BitVec 2) : (s.restoreFlags fl os32 level).ldtr = s.ldtr := rfl
@[simp] theorem State.restoreFlags_tr (s : State) (fl : Dword) (os32 : Bool) (level : BitVec 2) : (s.restoreFlags fl os32 level).tr = s.tr := rfl
@[simp] theorem State.restoreFlags_gdtr (s : State) (fl : Dword) (os32 : Bool) (level : BitVec 2) : (s.restoreFlags fl os32 level).gdtr = s.gdtr := rfl
@[simp] theorem State.restoreFlags_idtr (s : State) (fl : Dword) (os32 : Bool) (level : BitVec 2) : (s.restoreFlags fl os32 level).idtr = s.idtr := rfl
@[simp] theorem State.restoreFlags_cr0 (s : State) (fl : Dword) (os32 : Bool) (level : BitVec 2) : (s.restoreFlags fl os32 level).cr0 = s.cr0 := rfl
@[simp] theorem State.restoreFlags_cr2 (s : State) (fl : Dword) (os32 : Bool) (level : BitVec 2) : (s.restoreFlags fl os32 level).cr2 = s.cr2 := rfl
@[simp] theorem State.restoreFlags_cr3 (s : State) (fl : Dword) (os32 : Bool) (level : BitVec 2) : (s.restoreFlags fl os32 level).cr3 = s.cr3 := rfl
@[simp] theorem State.restoreFlags_dregs (s : State) (fl : Dword) (os32 : Bool) (level : BitVec 2) : (s.restoreFlags fl os32 level).dregs = s.dregs := rfl
@[simp] theorem State.restoreFlags_tr6 (s : State) (fl : Dword) (os32 : Bool) (level : BitVec 2) : (s.restoreFlags fl os32 level).tr6 = s.tr6 := rfl
@[simp] theorem State.restoreFlags_tr7 (s : State) (fl : Dword) (os32 : Bool) (level : BitVec 2) : (s.restoreFlags fl os32 level).tr7 = s.tr7 := rfl
@[simp] theorem State.restoreFlags_tlb (s : State) (fl : Dword) (os32 : Bool) (level : BitVec 2) : (s.restoreFlags fl os32 level).tlb = s.tlb := rfl
@[simp] theorem State.restoreFlags_icache (s : State) (fl : Dword) (os32 : Bool) (level : BitVec 2) : (s.restoreFlags fl os32 level).icache = s.icache := rfl
@[simp] theorem State.restoreFlags_inhibit (s : State) (fl : Dword) (os32 : Bool) (level : BitVec 2) : (s.restoreFlags fl os32 level).inhibit = s.inhibit := rfl
@[simp] theorem State.restoreFlags_held (s : State) (fl : Dword) (os32 : Bool) (level : BitVec 2) : (s.restoreFlags fl os32 level).held = s.held := rfl
@[simp] theorem State.restoreFlags_nmiMasked (s : State) (fl : Dword) (os32 : Bool) (level : BitVec 2) : (s.restoreFlags fl os32 level).nmiMasked = s.nmiMasked := rfl
@[simp] theorem State.restoreFlags_run (s : State) (fl : Dword) (os32 : Bool) (level : BitVec 2) : (s.restoreFlags fl os32 level).run = s.run := rfl
@[simp] theorem State.restoreFlags_lines (s : State) (fl : Dword) (os32 : Bool) (level : BitVec 2) : (s.restoreFlags fl os32 level).lines = s.lines := rfl
@[simp] theorem State.restoreFlags_pend (s : State) (fl : Dword) (os32 : Bool) (level : BitVec 2) : (s.restoreFlags fl os32 level).pend = s.pend := rfl
@[simp] theorem State.restoreFlags_ssv (s : State) (fl : Dword) (os32 : Bool) (level : BitVec 2) : (s.restoreFlags fl os32 level).ssv = s.ssv := rfl
@[simp] theorem State.restoreFlags_stale (s : State) (fl : Dword) (os32 : Bool) (level : BitVec 2) : (s.restoreFlags fl os32 level).stale = s.stale := rfl
@[simp] theorem State.restoreFlags_queue (s : State) (fl : Dword) (os32 : Bool) (level : BitVec 2) : (s.restoreFlags fl os32 level).queue = s.queue := rfl
@[simp] theorem State.restoreFlags_flushed (s : State) (fl : Dword) (os32 : Bool) (level : BitVec 2) : (s.restoreFlags fl os32 level).flushed = s.flushed := rfl
@[simp] theorem State.restoreFlags_again (s : State) (fl : Dword) (os32 : Bool) (level : BitVec 2) : (s.restoreFlags fl os32 level).again = s.again := rfl
@[simp] theorem State.restoreFlags_pfx (s : State) (fl : Dword) (os32 : Bool) (level : BitVec 2) : (s.restoreFlags fl os32 level).pfx = s.pfx := rfl
@[simp] theorem State.restoreFlags_mem (s : State) (fl : Dword) (os32 : Bool) (level : BitVec 2) : (s.restoreFlags fl os32 level).mem = s.mem := rfl
@[simp] theorem State.restoreFlags_free (s : State) (fl : Dword) (os32 : Bool) (level : BitVec 2) : (s.restoreFlags fl os32 level).free = s.free := rfl
@[simp] theorem State.restoreFlags_out (s : State) (fl : Dword) (os32 : Bool) (level : BitVec 2) : (s.restoreFlags fl os32 level).out = s.out := rfl
@[simp] theorem State.restoreFlags_cfg (s : State) (fl : Dword) (os32 : Bool) (level : BitVec 2) : (s.restoreFlags fl os32 level).cfg = s.cfg := rfl

/-! ## State.shutDown -/
@[simp] theorem State.shutDown_regs (s : State) (ret : Dword) : (s.shutDown ret).regs = s.regs := rfl
@[simp] theorem State.shutDown_eflags (s : State) (ret : Dword) : (s.shutDown ret).eflags = s.eflags := rfl
@[simp] theorem State.shutDown_cpl (s : State) (ret : Dword) : (s.shutDown ret).cpl = s.cpl := rfl
@[simp] theorem State.shutDown_segs (s : State) (ret : Dword) : (s.shutDown ret).segs = s.segs := rfl
@[simp] theorem State.shutDown_ldtr (s : State) (ret : Dword) : (s.shutDown ret).ldtr = s.ldtr := rfl
@[simp] theorem State.shutDown_tr (s : State) (ret : Dword) : (s.shutDown ret).tr = s.tr := rfl
@[simp] theorem State.shutDown_gdtr (s : State) (ret : Dword) : (s.shutDown ret).gdtr = s.gdtr := rfl
@[simp] theorem State.shutDown_idtr (s : State) (ret : Dword) : (s.shutDown ret).idtr = s.idtr := rfl
@[simp] theorem State.shutDown_cr0 (s : State) (ret : Dword) : (s.shutDown ret).cr0 = s.cr0 := rfl
@[simp] theorem State.shutDown_cr2 (s : State) (ret : Dword) : (s.shutDown ret).cr2 = s.cr2 := rfl
@[simp] theorem State.shutDown_cr3 (s : State) (ret : Dword) : (s.shutDown ret).cr3 = s.cr3 := rfl
@[simp] theorem State.shutDown_dregs (s : State) (ret : Dword) : (s.shutDown ret).dregs = s.dregs := rfl
@[simp] theorem State.shutDown_tr6 (s : State) (ret : Dword) : (s.shutDown ret).tr6 = s.tr6 := rfl
@[simp] theorem State.shutDown_tr7 (s : State) (ret : Dword) : (s.shutDown ret).tr7 = s.tr7 := rfl
@[simp] theorem State.shutDown_tlb (s : State) (ret : Dword) : (s.shutDown ret).tlb = s.tlb := rfl
@[simp] theorem State.shutDown_icache (s : State) (ret : Dword) : (s.shutDown ret).icache = s.icache := rfl
@[simp] theorem State.shutDown_held (s : State) (ret : Dword) : (s.shutDown ret).held = s.held := rfl
@[simp] theorem State.shutDown_nmiMasked (s : State) (ret : Dword) : (s.shutDown ret).nmiMasked = s.nmiMasked := rfl
@[simp] theorem State.shutDown_lines (s : State) (ret : Dword) : (s.shutDown ret).lines = s.lines := rfl
@[simp] theorem State.shutDown_pend (s : State) (ret : Dword) : (s.shutDown ret).pend = s.pend := rfl
@[simp] theorem State.shutDown_ssv (s : State) (ret : Dword) : (s.shutDown ret).ssv = s.ssv := rfl
@[simp] theorem State.shutDown_pfx (s : State) (ret : Dword) : (s.shutDown ret).pfx = s.pfx := rfl
@[simp] theorem State.shutDown_mem (s : State) (ret : Dword) : (s.shutDown ret).mem = s.mem := rfl
@[simp] theorem State.shutDown_free (s : State) (ret : Dword) : (s.shutDown ret).free = s.free := rfl
@[simp] theorem State.shutDown_cfg (s : State) (ret : Dword) : (s.shutDown ret).cfg = s.cfg := rfl

/-! ## State.begun -/
@[simp] theorem State.begun_regs (s : State) : s.begun.regs = s.regs := rfl
@[simp] theorem State.begun_eip (s : State) : s.begun.eip = s.eip := rfl
@[simp] theorem State.begun_nextEip (s : State) : s.begun.nextEip = s.nextEip := rfl
@[simp] theorem State.begun_eflags (s : State) : s.begun.eflags = s.eflags := rfl
@[simp] theorem State.begun_cpl (s : State) : s.begun.cpl = s.cpl := rfl
@[simp] theorem State.begun_segs (s : State) : s.begun.segs = s.segs := rfl
@[simp] theorem State.begun_ldtr (s : State) : s.begun.ldtr = s.ldtr := rfl
@[simp] theorem State.begun_tr (s : State) : s.begun.tr = s.tr := rfl
@[simp] theorem State.begun_gdtr (s : State) : s.begun.gdtr = s.gdtr := rfl
@[simp] theorem State.begun_idtr (s : State) : s.begun.idtr = s.idtr := rfl
@[simp] theorem State.begun_cr0 (s : State) : s.begun.cr0 = s.cr0 := rfl
@[simp] theorem State.begun_cr2 (s : State) : s.begun.cr2 = s.cr2 := rfl
@[simp] theorem State.begun_cr3 (s : State) : s.begun.cr3 = s.cr3 := rfl
@[simp] theorem State.begun_dregs (s : State) : s.begun.dregs = s.dregs := rfl
@[simp] theorem State.begun_tr6 (s : State) : s.begun.tr6 = s.tr6 := rfl
@[simp] theorem State.begun_tr7 (s : State) : s.begun.tr7 = s.tr7 := rfl
@[simp] theorem State.begun_tlb (s : State) : s.begun.tlb = s.tlb := rfl
@[simp] theorem State.begun_icache (s : State) : s.begun.icache = s.icache := rfl
@[simp] theorem State.begun_nmiMasked (s : State) : s.begun.nmiMasked = s.nmiMasked := rfl
@[simp] theorem State.begun_run (s : State) : s.begun.run = s.run := rfl
@[simp] theorem State.begun_lines (s : State) : s.begun.lines = s.lines := rfl
@[simp] theorem State.begun_pend (s : State) : s.begun.pend = s.pend := rfl
@[simp] theorem State.begun_ssv (s : State) : s.begun.ssv = s.ssv := rfl
@[simp] theorem State.begun_stale (s : State) : s.begun.stale = s.stale := rfl
@[simp] theorem State.begun_queue (s : State) : s.begun.queue = s.queue := rfl
@[simp] theorem State.begun_flushed (s : State) : s.begun.flushed = s.flushed := rfl
@[simp] theorem State.begun_again (s : State) : s.begun.again = s.again := rfl
@[simp] theorem State.begun_mem (s : State) : s.begun.mem = s.mem := rfl
@[simp] theorem State.begun_free (s : State) : s.begun.free = s.free := rfl
@[simp] theorem State.begun_out (s : State) : s.begun.out = s.out := rfl
@[simp] theorem State.begun_cfg (s : State) : s.begun.cfg = s.cfg := rfl

/-! ## State.putCr0 -/
@[simp] theorem State.putCr0_regs (s : State) (v : Dword) (entry : BitVec 2) : (s.putCr0 v entry).regs = s.regs := rfl
@[simp] theorem State.putCr0_eip (s : State) (v : Dword) (entry : BitVec 2) : (s.putCr0 v entry).eip = s.eip := rfl
@[simp] theorem State.putCr0_nextEip (s : State) (v : Dword) (entry : BitVec 2) : (s.putCr0 v entry).nextEip = s.nextEip := rfl
@[simp] theorem State.putCr0_eflags (s : State) (v : Dword) (entry : BitVec 2) : (s.putCr0 v entry).eflags = s.eflags := rfl
@[simp] theorem State.putCr0_segs (s : State) (v : Dword) (entry : BitVec 2) : (s.putCr0 v entry).segs = s.segs := rfl
@[simp] theorem State.putCr0_ldtr (s : State) (v : Dword) (entry : BitVec 2) : (s.putCr0 v entry).ldtr = s.ldtr := rfl
@[simp] theorem State.putCr0_tr (s : State) (v : Dword) (entry : BitVec 2) : (s.putCr0 v entry).tr = s.tr := rfl
@[simp] theorem State.putCr0_gdtr (s : State) (v : Dword) (entry : BitVec 2) : (s.putCr0 v entry).gdtr = s.gdtr := rfl
@[simp] theorem State.putCr0_idtr (s : State) (v : Dword) (entry : BitVec 2) : (s.putCr0 v entry).idtr = s.idtr := rfl
@[simp] theorem State.putCr0_cr2 (s : State) (v : Dword) (entry : BitVec 2) : (s.putCr0 v entry).cr2 = s.cr2 := rfl
@[simp] theorem State.putCr0_cr3 (s : State) (v : Dword) (entry : BitVec 2) : (s.putCr0 v entry).cr3 = s.cr3 := rfl
@[simp] theorem State.putCr0_dregs (s : State) (v : Dword) (entry : BitVec 2) : (s.putCr0 v entry).dregs = s.dregs := rfl
@[simp] theorem State.putCr0_tr6 (s : State) (v : Dword) (entry : BitVec 2) : (s.putCr0 v entry).tr6 = s.tr6 := rfl
@[simp] theorem State.putCr0_tr7 (s : State) (v : Dword) (entry : BitVec 2) : (s.putCr0 v entry).tr7 = s.tr7 := rfl
@[simp] theorem State.putCr0_icache (s : State) (v : Dword) (entry : BitVec 2) : (s.putCr0 v entry).icache = s.icache := rfl
@[simp] theorem State.putCr0_inhibit (s : State) (v : Dword) (entry : BitVec 2) : (s.putCr0 v entry).inhibit = s.inhibit := rfl
@[simp] theorem State.putCr0_held (s : State) (v : Dword) (entry : BitVec 2) : (s.putCr0 v entry).held = s.held := rfl
@[simp] theorem State.putCr0_nmiMasked (s : State) (v : Dword) (entry : BitVec 2) : (s.putCr0 v entry).nmiMasked = s.nmiMasked := rfl
@[simp] theorem State.putCr0_run (s : State) (v : Dword) (entry : BitVec 2) : (s.putCr0 v entry).run = s.run := rfl
@[simp] theorem State.putCr0_lines (s : State) (v : Dword) (entry : BitVec 2) : (s.putCr0 v entry).lines = s.lines := rfl
@[simp] theorem State.putCr0_pend (s : State) (v : Dword) (entry : BitVec 2) : (s.putCr0 v entry).pend = s.pend := rfl
@[simp] theorem State.putCr0_ssv (s : State) (v : Dword) (entry : BitVec 2) : (s.putCr0 v entry).ssv = s.ssv := rfl
@[simp] theorem State.putCr0_stale (s : State) (v : Dword) (entry : BitVec 2) : (s.putCr0 v entry).stale = s.stale := rfl
@[simp] theorem State.putCr0_flushed (s : State) (v : Dword) (entry : BitVec 2) : (s.putCr0 v entry).flushed = s.flushed := rfl
@[simp] theorem State.putCr0_again (s : State) (v : Dword) (entry : BitVec 2) : (s.putCr0 v entry).again = s.again := rfl
@[simp] theorem State.putCr0_pfx (s : State) (v : Dword) (entry : BitVec 2) : (s.putCr0 v entry).pfx = s.pfx := rfl
@[simp] theorem State.putCr0_mem (s : State) (v : Dword) (entry : BitVec 2) : (s.putCr0 v entry).mem = s.mem := rfl
@[simp] theorem State.putCr0_out (s : State) (v : Dword) (entry : BitVec 2) : (s.putCr0 v entry).out = s.out := rfl
@[simp] theorem State.putCr0_cfg (s : State) (v : Dword) (entry : BitVec 2) : (s.putCr0 v entry).cfg = s.cfg := rfl

/-! ## State.reportTrap -/
@[simp] theorem State.reportTrap_regs (s : State) : s.reportTrap.regs = s.regs := rfl
@[simp] theorem State.reportTrap_eip (s : State) : s.reportTrap.eip = s.eip := rfl
@[simp] theorem State.reportTrap_nextEip (s : State) : s.reportTrap.nextEip = s.nextEip := rfl
@[simp] theorem State.reportTrap_eflags (s : State) : s.reportTrap.eflags = s.eflags := rfl
@[simp] theorem State.reportTrap_cpl (s : State) : s.reportTrap.cpl = s.cpl := rfl
@[simp] theorem State.reportTrap_segs (s : State) : s.reportTrap.segs = s.segs := rfl
@[simp] theorem State.reportTrap_ldtr (s : State) : s.reportTrap.ldtr = s.ldtr := rfl
@[simp] theorem State.reportTrap_tr (s : State) : s.reportTrap.tr = s.tr := rfl
@[simp] theorem State.reportTrap_gdtr (s : State) : s.reportTrap.gdtr = s.gdtr := rfl
@[simp] theorem State.reportTrap_idtr (s : State) : s.reportTrap.idtr = s.idtr := rfl
@[simp] theorem State.reportTrap_cr0 (s : State) : s.reportTrap.cr0 = s.cr0 := rfl
@[simp] theorem State.reportTrap_cr2 (s : State) : s.reportTrap.cr2 = s.cr2 := rfl
@[simp] theorem State.reportTrap_cr3 (s : State) : s.reportTrap.cr3 = s.cr3 := rfl
@[simp] theorem State.reportTrap_tr6 (s : State) : s.reportTrap.tr6 = s.tr6 := rfl
@[simp] theorem State.reportTrap_tr7 (s : State) : s.reportTrap.tr7 = s.tr7 := rfl
@[simp] theorem State.reportTrap_tlb (s : State) : s.reportTrap.tlb = s.tlb := rfl
@[simp] theorem State.reportTrap_icache (s : State) : s.reportTrap.icache = s.icache := rfl
@[simp] theorem State.reportTrap_inhibit (s : State) : s.reportTrap.inhibit = s.inhibit := rfl
@[simp] theorem State.reportTrap_held (s : State) : s.reportTrap.held = s.held := rfl
@[simp] theorem State.reportTrap_nmiMasked (s : State) : s.reportTrap.nmiMasked = s.nmiMasked := rfl
@[simp] theorem State.reportTrap_lines (s : State) : s.reportTrap.lines = s.lines := rfl
@[simp] theorem State.reportTrap_ssv (s : State) : s.reportTrap.ssv = s.ssv := rfl
@[simp] theorem State.reportTrap_stale (s : State) : s.reportTrap.stale = s.stale := rfl
@[simp] theorem State.reportTrap_queue (s : State) : s.reportTrap.queue = s.queue := rfl
@[simp] theorem State.reportTrap_flushed (s : State) : s.reportTrap.flushed = s.flushed := rfl
@[simp] theorem State.reportTrap_again (s : State) : s.reportTrap.again = s.again := rfl
@[simp] theorem State.reportTrap_pfx (s : State) : s.reportTrap.pfx = s.pfx := rfl
@[simp] theorem State.reportTrap_mem (s : State) : s.reportTrap.mem = s.mem := rfl
@[simp] theorem State.reportTrap_free (s : State) : s.reportTrap.free = s.free := rfl
@[simp] theorem State.reportTrap_out (s : State) : s.reportTrap.out = s.out := rfl
@[simp] theorem State.reportTrap_cfg (s : State) : s.reportTrap.cfg = s.cfg := rfl

/-! ## State.nmiTaken -/
@[simp] theorem State.nmiTaken_regs (s : State) : s.nmiTaken.regs = s.regs := rfl
@[simp] theorem State.nmiTaken_eip (s : State) : s.nmiTaken.eip = s.eip := rfl
@[simp] theorem State.nmiTaken_nextEip (s : State) : s.nmiTaken.nextEip = s.nextEip := rfl
@[simp] theorem State.nmiTaken_eflags (s : State) : s.nmiTaken.eflags = s.eflags := rfl
@[simp] theorem State.nmiTaken_cpl (s : State) : s.nmiTaken.cpl = s.cpl := rfl
@[simp] theorem State.nmiTaken_segs (s : State) : s.nmiTaken.segs = s.segs := rfl
@[simp] theorem State.nmiTaken_ldtr (s : State) : s.nmiTaken.ldtr = s.ldtr := rfl
@[simp] theorem State.nmiTaken_tr (s : State) : s.nmiTaken.tr = s.tr := rfl
@[simp] theorem State.nmiTaken_gdtr (s : State) : s.nmiTaken.gdtr = s.gdtr := rfl
@[simp] theorem State.nmiTaken_idtr (s : State) : s.nmiTaken.idtr = s.idtr := rfl
@[simp] theorem State.nmiTaken_cr0 (s : State) : s.nmiTaken.cr0 = s.cr0 := rfl
@[simp] theorem State.nmiTaken_cr2 (s : State) : s.nmiTaken.cr2 = s.cr2 := rfl
@[simp] theorem State.nmiTaken_cr3 (s : State) : s.nmiTaken.cr3 = s.cr3 := rfl
@[simp] theorem State.nmiTaken_dregs (s : State) : s.nmiTaken.dregs = s.dregs := rfl
@[simp] theorem State.nmiTaken_tr6 (s : State) : s.nmiTaken.tr6 = s.tr6 := rfl
@[simp] theorem State.nmiTaken_tr7 (s : State) : s.nmiTaken.tr7 = s.tr7 := rfl
@[simp] theorem State.nmiTaken_tlb (s : State) : s.nmiTaken.tlb = s.tlb := rfl
@[simp] theorem State.nmiTaken_icache (s : State) : s.nmiTaken.icache = s.icache := rfl
@[simp] theorem State.nmiTaken_inhibit (s : State) : s.nmiTaken.inhibit = s.inhibit := rfl
@[simp] theorem State.nmiTaken_held (s : State) : s.nmiTaken.held = s.held := rfl
@[simp] theorem State.nmiTaken_run (s : State) : s.nmiTaken.run = s.run := rfl
@[simp] theorem State.nmiTaken_pend (s : State) : s.nmiTaken.pend = s.pend := rfl
@[simp] theorem State.nmiTaken_ssv (s : State) : s.nmiTaken.ssv = s.ssv := rfl
@[simp] theorem State.nmiTaken_stale (s : State) : s.nmiTaken.stale = s.stale := rfl
@[simp] theorem State.nmiTaken_queue (s : State) : s.nmiTaken.queue = s.queue := rfl
@[simp] theorem State.nmiTaken_flushed (s : State) : s.nmiTaken.flushed = s.flushed := rfl
@[simp] theorem State.nmiTaken_again (s : State) : s.nmiTaken.again = s.again := rfl
@[simp] theorem State.nmiTaken_pfx (s : State) : s.nmiTaken.pfx = s.pfx := rfl
@[simp] theorem State.nmiTaken_mem (s : State) : s.nmiTaken.mem = s.mem := rfl
@[simp] theorem State.nmiTaken_free (s : State) : s.nmiTaken.free = s.free := rfl
@[simp] theorem State.nmiTaken_out (s : State) : s.nmiTaken.out = s.out := rfl
@[simp] theorem State.nmiTaken_cfg (s : State) : s.nmiTaken.cfg = s.cfg := rfl

/-! ## State.busStore -/
@[simp] theorem State.busStore_regs (s : State) (c : Dword × Byte) : (s.busStore c).regs = s.regs := rfl
@[simp] theorem State.busStore_eip (s : State) (c : Dword × Byte) : (s.busStore c).eip = s.eip := rfl
@[simp] theorem State.busStore_nextEip (s : State) (c : Dword × Byte) : (s.busStore c).nextEip = s.nextEip := rfl
@[simp] theorem State.busStore_eflags (s : State) (c : Dword × Byte) : (s.busStore c).eflags = s.eflags := rfl
@[simp] theorem State.busStore_cpl (s : State) (c : Dword × Byte) : (s.busStore c).cpl = s.cpl := rfl
@[simp] theorem State.busStore_segs (s : State) (c : Dword × Byte) : (s.busStore c).segs = s.segs := rfl
@[simp] theorem State.busStore_ldtr (s : State) (c : Dword × Byte) : (s.busStore c).ldtr = s.ldtr := rfl
@[simp] theorem State.busStore_tr (s : State) (c : Dword × Byte) : (s.busStore c).tr = s.tr := rfl
@[simp] theorem State.busStore_gdtr (s : State) (c : Dword × Byte) : (s.busStore c).gdtr = s.gdtr := rfl
@[simp] theorem State.busStore_idtr (s : State) (c : Dword × Byte) : (s.busStore c).idtr = s.idtr := rfl
@[simp] theorem State.busStore_cr0 (s : State) (c : Dword × Byte) : (s.busStore c).cr0 = s.cr0 := rfl
@[simp] theorem State.busStore_cr2 (s : State) (c : Dword × Byte) : (s.busStore c).cr2 = s.cr2 := rfl
@[simp] theorem State.busStore_cr3 (s : State) (c : Dword × Byte) : (s.busStore c).cr3 = s.cr3 := rfl
@[simp] theorem State.busStore_dregs (s : State) (c : Dword × Byte) : (s.busStore c).dregs = s.dregs := rfl
@[simp] theorem State.busStore_tr6 (s : State) (c : Dword × Byte) : (s.busStore c).tr6 = s.tr6 := rfl
@[simp] theorem State.busStore_tr7 (s : State) (c : Dword × Byte) : (s.busStore c).tr7 = s.tr7 := rfl
@[simp] theorem State.busStore_tlb (s : State) (c : Dword × Byte) : (s.busStore c).tlb = s.tlb := rfl
@[simp] theorem State.busStore_inhibit (s : State) (c : Dword × Byte) : (s.busStore c).inhibit = s.inhibit := rfl
@[simp] theorem State.busStore_held (s : State) (c : Dword × Byte) : (s.busStore c).held = s.held := rfl
@[simp] theorem State.busStore_nmiMasked (s : State) (c : Dword × Byte) : (s.busStore c).nmiMasked = s.nmiMasked := rfl
@[simp] theorem State.busStore_run (s : State) (c : Dword × Byte) : (s.busStore c).run = s.run := rfl
@[simp] theorem State.busStore_lines (s : State) (c : Dword × Byte) : (s.busStore c).lines = s.lines := rfl
@[simp] theorem State.busStore_pend (s : State) (c : Dword × Byte) : (s.busStore c).pend = s.pend := rfl
@[simp] theorem State.busStore_ssv (s : State) (c : Dword × Byte) : (s.busStore c).ssv = s.ssv := rfl
@[simp] theorem State.busStore_again (s : State) (c : Dword × Byte) : (s.busStore c).again = s.again := rfl
@[simp] theorem State.busStore_pfx (s : State) (c : Dword × Byte) : (s.busStore c).pfx = s.pfx := rfl
@[simp] theorem State.busStore_free (s : State) (c : Dword × Byte) : (s.busStore c).free = s.free := rfl
@[simp] theorem State.busStore_out (s : State) (c : Dword × Byte) : (s.busStore c).out = s.out := rfl
@[simp] theorem State.busStore_cfg (s : State) (c : Dword × Byte) : (s.busStore c).cfg = s.cfg := rfl

/-! ## The fields they write -/
@[simp] theorem State.setReg_regs (s : State) (k : Width) (r : Reg) (v : Val k) : (s.setReg k r v).regs = s.regs.write k r v := rfl
@[simp] theorem State.setSp_regs (s : State) (v : Dword) : (s.setSp v).regs = s.regs.setSp s.segs.ss.attr.db v := rfl
@[simp] theorem State.setStatus_eflags (s : State) (f : Status) : (s.setStatus f).eflags = withStatus s.eflags f := rfl
@[simp] theorem State.setSeg_segs (s : State) (k : Sreg) (r : SegReg) : (s.setSeg k r).segs = s.segs.set k r := rfl
@[simp] theorem State.jump_nextEip (s : State) (off : Dword) : (s.jump off).nextEip = off := rfl
@[simp] theorem State.jump_stale (s : State) (off : Dword) : (s.jump off).stale = [] := rfl
@[simp] theorem State.jump_queue (s : State) (off : Dword) : (s.jump off).queue = [] := rfl
@[simp] theorem State.jump_flushed (s : State) (off : Dword) : (s.jump off).flushed = [] := rfl
@[simp] theorem State.jump_again (s : State) (off : Dword) : (s.jump off).again = none := rfl
@[simp] theorem State.emptied_stale (s : State) : s.emptied.stale = [] := rfl
@[simp] theorem State.emptied_queue (s : State) : s.emptied.queue = [] := rfl
@[simp] theorem State.emptied_flushed (s : State) : s.emptied.flushed = [] := rfl
@[simp] theorem State.emptied_again (s : State) : s.emptied.again = none := rfl
@[simp] theorem State.putByte_queue (s : State) (pa : Dword) (v : Byte) : (s.putByte pa v).queue = if s.recorded pa then [] else s.queue := rfl
@[simp] theorem State.fetched_stale (s : State) (i : Instr) (len : Nat) : (s.fetched i len).stale = [] := rfl
@[simp] theorem State.fetched_flushed (s : State) (i : Instr) (len : Nat) : (s.fetched i len).flushed = [] := rfl
@[simp] theorem State.fetched_again (s : State) (i : Instr) (len : Nat) : (s.fetched i len).again = some ⟨i, s.pfx, len⟩ := rfl
@[simp] theorem State.resumed_nextEip (s : State) (r : Repeat) : (s.resumed r).nextEip = s.eip + BitVec.ofNat 32 r.len := rfl
@[simp] theorem State.resumed_pfx (s : State) (r : Repeat) : (s.resumed r).pfx = r.pfx := rfl
@[simp] theorem State.complete_again (s : State) (k tf : Bool) : (s.complete k tf).again = none := rfl
@[simp] theorem State.putByte_mem (s : State) (pa : Dword) (v : Byte) : (s.putByte pa v).mem = if s.kindAt pa = .ram then Mem.write s.mem pa.toNat v else s.mem := rfl
@[simp] theorem State.complete_eip (s : State) (k tf : Bool) : (s.complete k tf).eip = s.nextEip := rfl
@[simp] theorem State.drew_free (s : State) : s.drew.free = s.free + 1 := rfl
@[simp] theorem State.latch_pfx (s : State) (i : Instr) : (s.latch i).pfx = s.pfx.latch i := rfl
@[simp] theorem State.fetched_nextEip (s : State) (i : Instr) (len : Nat) : (s.fetched i len).nextEip = s.eip + BitVec.ofNat 32 len := rfl
@[simp] theorem State.entered_eip (s : State) : s.entered.eip = s.nextEip := rfl
@[simp] theorem State.shutDown_run (s : State) (ret : Dword) : (s.shutDown ret).run = .shutdown := rfl
@[simp] theorem State.shutDown_inhibit (s : State) (ret : Dword) : (s.shutDown ret).inhibit = .none := rfl
@[simp] theorem State.begun_held (s : State) : s.begun.held = s.inhibit := rfl
@[simp] theorem State.begun_inhibit (s : State) : s.begun.inhibit = .none := rfl
@[simp] theorem State.putCr0_cr0 (s : State) (v : Dword) (entry : BitVec 2) : (s.putCr0 v entry).cr0 = v := rfl

end Sys2Proof.Machine
end

