-- ==== Sys2Proof/Laws/Op.lean ====
section
/-!
SUPPORT. Laws/Op.lean: how an operation runs: the monad's own steps, free values, registers, flags, raising.
-/
namespace Sys2Proof.Machine

variable {α β : Type}

@[simp] theorem op_pure (a : α) (s : State) : (pure a : Op α) s = .ok a s := rfl

theorem op_bind (x : Op α) (f : α → Op β) (s : State) :
    (x >>= f) s = match x s with
      | .ok a t => f a t
      | .error e t => .error e t := by
  show EStateM.bind x f s = _
  unfold EStateM.bind
  cases x s <;> rfl

/-- An operation that completes is followed by the rest. -/
theorem op_bind_ok {x : Op α} {f : α → Op β} {s t : State} {a : α} (h : x s = .ok a t) :
    (x >>= f) s = f a t := by simp [op_bind, h]

/-- An operation that stops ends the whole. -/
theorem op_bind_error {x : Op α} {f : α → Op β} {s t : State} {e : Stop} (h : x s = .error e t) :
    (x >>= f) s = .error e t := by simp [op_bind, h]

/-- What completes as a whole completed in its first part. -/
theorem op_bind_eq_ok {x : Op α} {f : α → Op β} {s t : State} {b : β} (h : (x >>= f) s = .ok b t) :
    ∃ a u, x s = .ok a u ∧ f a u = .ok b t := by
  rw [op_bind] at h
  split at h
  · exact ⟨_, _, ‹_›, h⟩
  · cases h

@[simp] theorem op_get (s : State) : (get : Op State) s = .ok s s := rfl

@[simp] theorem op_modify (f : State → State) (s : State) : (modify f : Op Unit) s = .ok () (f s) := rfl

@[simp] theorem op_throw (e : Stop) (s : State) : (throw e : Op α) s = .error e s := rfl

@[simp] theorem op_get_bind (f : State → Op β) (s : State) : (get >>= f) s = f s s := rfl
@[simp] theorem op_modify_bind (g : State → State) (f : Unit → Op β) (s : State) :
    ((modify g : Op Unit) >>= f) s = f () (g s) := rfl
@[simp] theorem op_pure_bind (a : α) (f : α → Op β) (s : State) : ((pure a : Op α) >>= f) s = f a s := rfl

@[simp] theorem op_ite (c : Prop) [Decidable c] (x y : Op α) (s : State) :
    (if c then x else y) s = if c then x s else y s := by split <;> rfl

@[simp] theorem raise_run (v : Byte) (c : Option (BitVec 16)) (s : State) :
    (raise v c : Op α) s = .error (.exc ⟨v, c⟩) s := rfl

@[simp] theorem raiseDE_run (s : State) : (raiseDE : Op α) s = .error (.exc ⟨0, none⟩) s := rfl
@[simp] theorem raiseUD_run (s : State) : (raiseUD : Op α) s = .error (.exc ⟨6, none⟩) s := rfl
@[simp] theorem raiseNM_run (s : State) : (raiseNM : Op α) s = .error (.exc ⟨7, none⟩) s := rfl
@[simp] theorem raiseMF_run (s : State) : (raiseMF : Op α) s = .error (.exc ⟨16, none⟩) s := rfl
@[simp] theorem raiseGP_run (c : BitVec 16) (s : State) :
    (raiseGP c : Op α) s = .error (.exc ⟨13, some c⟩) s := rfl
@[simp] theorem raiseSS_run (c : BitVec 16) (s : State) :
    (raiseSS c : Op α) s = .error (.exc ⟨12, some c⟩) s := rfl
@[simp] theorem raiseNP_run (c : BitVec 16) (s : State) :
    (raiseNP c : Op α) s = .error (.exc ⟨11, some c⟩) s := rfl
@[simp] theorem raiseTS_run (c : BitVec 16) (s : State) :
    (raiseTS c : Op α) s = .error (.exc ⟨10, some c⟩) s := rfl

@[simp] theorem fresh_run (s : State) : fresh s = .ok s.free s.drew := rfl

@[simp] theorem fresh_bind (f : Nat → Op β) (s : State) : (fresh >>= f) s = f s.free s.drew := rfl

@[simp] theorem getReg_run (k : Width) (r : Reg) (s : State) : getReg k r s = .ok (s.reg k r) s := rfl
@[simp] theorem setReg_run (k : Width) (r : Reg) (v : Val k) (s : State) :
    setReg k r v s = .ok () (s.setReg k r v) := rfl
@[simp] theorem getAcc_run (k : Width) (s : State) : getAcc k s = .ok (s.reg k .eax) s := rfl
@[simp] theorem setAcc_run (k : Width) (v : Val k) (s : State) : setAcc k v s = .ok () (s.setReg k .eax v) := rfl
@[simp] theorem setStatus_run (f : Status) (s : State) : setStatus f s = .ok () (s.setStatus f) := rfl
@[simp] theorem undefStatus_run (s : State) : undefStatus s = .ok (undefAt s.free) s.drew := rfl
@[simp] theorem setFlagBit_run (n : Nat) (b : Bool) (s : State) :
    setFlagBit n b s = .ok () { s with eflags := withBit s.eflags n b } := rfl
@[simp] theorem setLogic_run {n : Nat} (r : BitVec n) (s : State) :
    setLogic r s = .ok () (s.drew.setStatus (logicStatus r (undefAt s.free).af)) := rfl
@[simp] theorem mulStatus_run (lost : Bool) (s : State) :
    mulStatus lost s = .ok () (s.drew.setStatus { undefAt s.free with cf := lost, of := lost }) := rfl
@[simp] theorem bitStatus_run (b : Bool) (s : State) :
    bitStatus b s = .ok () (s.drew.setStatus { undefAt s.free with cf := b }) := rfl
@[simp] theorem setPair_run (k : Width) (hi lo : Val k) (s : State) :
    setPair k hi lo s = .ok () ((s.setReg k .eax lo).setReg k (highReg k) hi) := rfl
@[simp] theorem flagsUndefined_run (s : State) :
    flagsUndefined s = .ok () (s.drew.setStatus (undefAt s.free)) := rfl
@[simp] theorem divideError_run (s : State) :
    (divideError : Op α) s = .error (.exc ⟨0, none⟩) (s.drew.setStatus (undefAt s.free)) := rfl
@[simp] theorem setQuotient_run (k : Width) (q r : Val k) (s : State) :
    setQuotient k q r s = .ok ()
      ((((s.setReg k .eax q).setReg k (highReg k) r).drew).setStatus (undefAt s.free)) := rfl

/-! ## Running a meaning -/

/-- A meaning whose operation completes answers the state its end makes; LOCK stands only before forms that may carry
it. -/
theorem runEnd_ok {lockable : Bool} {x : Op End} {s t : State} {e : End} (hl : s.pfx.lock = true → lockable = true)
    (h : x s = .ok e t) : runEnd lockable x s = .next (t.ended (bit s.eflags 8) e) := by
  have : checkLock lockable s = .ok () s := by
    simp only [checkLock, op_bind, op_get, op_ite]
    cases hp : s.pfx.lock <;> cases lockable <;> simp_all
  unfold runEnd
  rw [op_bind_ok this, h]
  rfl

/-- A meaning whose operation completes. -/
theorem run_ok {lockable : Bool} {x : Op Unit} {s t : State} (hl : s.pfx.lock = true → lockable = true)
    (h : x s = .ok () t) : run lockable x s = completes s t := by
  unfold run completes
  exact runEnd_ok (e := .done) hl (by rw [op_bind_ok h, op_pure])

/-- A meaning whose operation raises an exception: it is undone and the exception delivered. -/
theorem run_exc {lockable : Bool} {x : Op Unit} {s t : State} {e : Exn} (hl : s.pfx.lock = true → lockable = true)
    (h : x s = .error (.exc e) t) : run lockable x s = deliver (faultEvent e s.eip) (s.undone t e) := by
  have hc : checkLock lockable s = .ok () s := by
    simp only [checkLock, op_bind, op_get, op_ite]
    cases hp : s.pfx.lock <;> cases lockable <;> simp_all
  unfold run runEnd
  rw [op_bind_ok hc, op_bind_error h]
  rfl

/-- LOCK before a meaning that may not carry it. -/
theorem run_locked {x : Op Unit} {s : State} (hl : s.pfx.lock = true) : run false x s = faults s 6 none := by
  have hc : checkLock false s = .error (.exc ⟨6, none⟩) s := by simp [checkLock, op_bind, hl]
  unfold run runEnd
  rw [op_bind_error hc]
  rfl

/-- A stop that changed nothing undoes to the state itself. -/
@[simp] theorem rollback_self (s : State) : s.rollback s = s := rfl

end Sys2Proof.Machine
end

