-- ==== Sys2Proof/Laws/Memory.lean ====
section
/-!
SUPPORT. Laws/Memory.lean: the byte store keeps its canonical form, read after write, and what preparing and making an
access can do.
-/
namespace Sys2Proof.Machine

/-! ## The byte store -/

theorem Mem.wfFrom_mono {low low' : Nat} (h : low' ≤ low) : ∀ {m : List Host.Cell}, Mem.wfFrom low m = true →
    Mem.wfFrom low' m = true
  | [], _ => rfl
  | (k, v) :: t, hm => by
    simp only [Mem.wfFrom, Bool.and_eq_true, decide_eq_true_eq] at hm ⊢
    exact ⟨⟨⟨by omega, hm.1.1.2⟩, hm.1.2⟩, hm.2⟩

/-- Writing a byte keeps the canonical form. -/
theorem Mem.wfFrom_write {v : Byte} {a : Nat} (ha : a < 2 ^ 32) : ∀ {m : List Host.Cell} {low : Nat},
    Mem.wfFrom low m = true → low ≤ a → Mem.wfFrom low (Mem.write m a v) = true
  | [], low, _, hl => by
    by_cases hv : v = 0
    · simp only [Mem.write, if_pos hv, Mem.wfFrom]
    · simp only [Mem.write, if_neg hv, Mem.wfFrom, Bool.and_eq_true, decide_eq_true_eq, and_true]
      exact ⟨⟨hl, ha⟩, hv⟩
  | (k, x) :: t, low, hm, hl => by
    have h := hm
    simp only [Mem.wfFrom, Bool.and_eq_true, decide_eq_true_eq] at h
    obtain ⟨⟨⟨h1, h2⟩, h3⟩, h4⟩ := h
    by_cases hv : v = 0
    · subst hv
      by_cases hlt : a < k
      · simpa [Mem.write, hlt] using hm
      · by_cases he : a = k
        · subst he
          simpa [Mem.write] using Mem.wfFrom_mono (by omega) h4
        · have := Mem.wfFrom_write (v := 0) ha h4 (by omega)
          simp only [Mem.write, if_neg hlt, if_neg he, Mem.wfFrom, Bool.and_eq_true, decide_eq_true_eq]
          exact ⟨⟨⟨h1, h2⟩, h3⟩, this⟩
    · by_cases hlt : a < k
      · simp only [Mem.write, if_pos hlt, if_neg hv, Mem.wfFrom, Bool.and_eq_true, decide_eq_true_eq]
        exact ⟨⟨⟨hl, ha⟩, hv⟩, ⟨⟨⟨by omega, h2⟩, h3⟩, h4⟩⟩
      · by_cases he : a = k
        · subst he
          simp only [Mem.write, if_neg hlt, if_pos, if_neg hv, Mem.wfFrom, Bool.and_eq_true, decide_eq_true_eq]
          exact ⟨⟨⟨h1, h2⟩, hv⟩, h4⟩
        · have := Mem.wfFrom_write (v := v) ha h4 (by omega)
          simp only [Mem.write, if_neg hlt, if_neg he, Mem.wfFrom, Bool.and_eq_true, decide_eq_true_eq]
          exact ⟨⟨⟨h1, h2⟩, h3⟩, this⟩

/-- Every memory operation is a write of bytes; a write keeps the canonical form. -/
theorem Mem.wf_write {m : List Host.Cell} {a : Nat} {v : Byte} (ha : a < 2 ^ 32) (h : Mem.wf m = true) :
    Mem.wf (Mem.write m a v) = true := Mem.wfFrom_write ha h (Nat.zero_le a)

/-- Memory after reset has the canonical form. -/
theorem Mem.wf_reset : Mem.wf State.reset.mem = true := rfl

/-- An address below the first listed one reads as 0. -/
theorem Mem.read_below : ∀ {m : List Host.Cell} {low a : Nat}, Mem.wfFrom low m = true → a < low → Mem.read m a = 0
  | [], _, _, _, _ => rfl
  | (k, v) :: t, low, a, h, ha => by
    simp only [Mem.wfFrom, Bool.and_eq_true, decide_eq_true_eq] at h
    have : k ≠ a := by omega
    simp only [Mem.read, if_neg this]
    exact Mem.read_below h.2 (by omega)

/-- Read after write: the address written reads as the byte written, every other address as before. -/
theorem Mem.read_write {v : Byte} {a : Nat} (b : Nat) : ∀ {m : List Host.Cell} {low : Nat},
    Mem.wfFrom low m = true → Mem.read (Mem.write m a v) b = if b = a then v else Mem.read m b
  | [], low, _ => by
    by_cases hv : v = 0
    · simp only [Mem.write, if_pos hv, Mem.read]
      by_cases hb : b = a
      · rw [if_pos hb, hv]
      · rw [if_neg hb]
    · simp only [Mem.write, if_neg hv, Mem.read]
      by_cases hb : b = a
      · rw [if_pos hb, if_pos hb.symm]
      · rw [if_neg hb, if_neg fun e => hb e.symm]
  | (k, x) :: t, low, hm => by
    simp only [Mem.wfFrom, Bool.and_eq_true, decide_eq_true_eq] at hm
    obtain ⟨⟨⟨h1, h2⟩, h3⟩, h4⟩ := hm
    by_cases hlt : a < k
    · by_cases hv : v = 0
      · simp only [Mem.write, if_pos hlt, if_pos hv]
        by_cases hb : b = a
        · subst hb
          have : k ≠ b := by omega
          simp only [Mem.read, if_neg this, if_pos, hv]
          exact Mem.read_below h4 (by omega)
        · simp [hb]
      · simp only [Mem.write, if_pos hlt, if_neg hv, Mem.read]
        by_cases hb : b = a
        · simp [hb]
        · have : ¬ a = b := fun e => hb e.symm
          simp [hb, this]
    · by_cases he : a = k
      · subst he
        by_cases hv : v = 0
        · simp only [Mem.write, if_neg hlt, if_pos, if_pos hv]
          by_cases hb : b = a
          · subst hb
            simp [hv, Mem.read_below h4 (Nat.lt_succ_self b)]
          · have : ¬ a = b := fun e => hb e.symm
            simp [Mem.read, hb, this]
        · simp only [Mem.write, if_neg hlt, if_pos, if_neg hv, Mem.read]
          by_cases hb : b = a
          · simp [hb]
          · have : ¬ a = b := fun e => hb e.symm
            simp [hb, this]
      · simp only [Mem.write, if_neg hlt, if_neg he, Mem.read]
        rw [Mem.read_write b h4]
        by_cases hb : b = a
        · subst hb
          have : ¬ k = b := fun e => he e.symm
          simp [this]
        · simp [hb]

/-- Memories in canonical form that read alike are equal. -/
theorem Mem.ext : ∀ {m m' : List Host.Cell} {low : Nat}, Mem.wfFrom low m = true → Mem.wfFrom low m' = true →
    (∀ a, Mem.read m a = Mem.read m' a) → m = m'
  | [], [], _, _, _, _ => rfl
  | [], (k, v) :: t, _, _, h, e => by
    simp only [Mem.wfFrom, Bool.and_eq_true, decide_eq_true_eq] at h
    have := e k
    simp only [Mem.read, if_pos] at this
    exact absurd this.symm h.1.2
  | (k, v) :: t, [], _, h, _, e => by
    simp only [Mem.wfFrom, Bool.and_eq_true, decide_eq_true_eq] at h
    have := e k
    simp only [Mem.read, if_pos] at this
    exact absurd this h.1.2
  | (k, v) :: t, (k', v') :: t', low, h, h', e => by
    simp only [Mem.wfFrom, Bool.and_eq_true, decide_eq_true_eq] at h h'
    have hk : k = k' := by
      rcases Nat.lt_trichotomy k k' with hlt | he | hgt
      · have := e k
        have hne : ¬ k' = k := by omega
        simp only [Mem.read, if_pos, if_neg hne, Mem.read_below h'.2 (by omega : k < k' + 1)] at this
        exact absurd this h.1.2
      · exact he
      · have := e k'
        have hne : ¬ k = k' := by omega
        simp only [Mem.read, if_pos, if_neg hne, Mem.read_below h.2 (by omega : k' < k + 1)] at this
        exact absurd this.symm h'.1.2
    subst hk
    have hv : v = v' := by simpa [Mem.read] using e k
    subst hv
    have : t = t' := Mem.ext h.2 h'.2 fun a => by
      by_cases ha : k = a
      · subst ha
        rw [Mem.read_below h.2 (Nat.lt_succ_self k), Mem.read_below h'.2 (Nat.lt_succ_self k)]
      · have := e a
        simpa [Mem.read, ha] using this
    rw [this]

/-- Storing a byte keeps the canonical form. -/
theorem State.putByte_wf {s : State} (pa : Dword) (v : Byte) (h : Mem.wf s.mem = true) :
    Mem.wf (s.putByte pa v).mem = true := by
  rw [State.putByte_mem]
  split
  · exact Mem.wf_write pa.isLt h
  · exact h

/-- The byte stored in RAM is the byte held, every other byte is as it was; nothing else stores a byte. -/
theorem State.cell_putByte {s : State} (h : Mem.wf s.mem = true) (pa q : Dword) (v : Byte) :
    (s.putByte pa v).cell q = if q = pa ∧ s.kindAt pa = .ram then v else s.cell q := by
  unfold State.cell
  rw [State.putByte_mem]
  by_cases hk : s.kindAt pa = .ram
  · rw [if_pos hk, Mem.read_write q.toNat h]
    by_cases hq : q = pa
    · simp [hq, hk]
    · have : q.toNat ≠ pa.toNat := fun e => hq (BitVec.eq_of_toNat_eq e)
      simp [hq, this]
  · simp [hk]

/-- RAM holds what is written there. -/
theorem State.holds_ram {s : State} {pa : Dword} (h : s.kindAt pa = .ram) : s.holds pa = true := by
  simp [State.holds, h]

/-- Where memory holds a byte, that byte is read. -/
theorem State.phys_holds {s : State} {pa : Dword} (h : s.holds pa = true) : s.phys pa = s.cell pa := by
  simp [State.phys, h]

/-- Reads of memory leave no trace. -/
theorem State.noteReads_holds {s : State} {l : List Dword} (h : ∀ pa ∈ l, s.holds pa = true) : s.noteReads l = s := by
  have : l.all s.holds = true := List.all_eq_true.mpr h
  simp only [State.noteReads, this, if_true]

/-- With no map given every address is RAM. -/
theorem State.kindAt_plain {s : State} (h : s.cfg.physMap = []) (pa : Dword) : s.kindAt pa = .ram := by
  unfold State.kindAt
  rw [h]
  rfl

/-- With no map given a read gives the byte of memory. -/
theorem State.phys_plain {s : State} (h : s.cfg.physMap = []) (pa : Dword) : s.phys pa = s.cell pa :=
  State.phys_holds (State.holds_ram (State.kindAt_plain h pa))

/-- With no map given no read leaves a trace. -/
theorem State.noteReads_plain {s : State} (h : s.cfg.physMap = []) (l : List Dword) : s.noteReads l = s :=
  State.noteReads_holds fun pa _ => State.holds_ram (State.kindAt_plain h pa)

theorem State.bus_plain {s : State} (h : s.cfg.physMap = []) (pa : Dword) (n : Nat) : s.bus pa n = s :=
  State.noteReads_plain h _

/-! ## What an access may change -/

/-- Only what memory accesses touch differs: memory, the replaced bytes, the prefetch queue, the caches, the counter of
free values, the pending debug record, and what devices are told. -/
def Accessed (s t : State) : Prop :=
  t = { s with mem := t.mem, stale := t.stale, queue := t.queue, flushed := t.flushed, icache := t.icache, tlb := t.tlb,
               free := t.free, pend := t.pend, out := t.out }

theorem Accessed.refl (s : State) : Accessed s s := rfl

theorem Accessed.trans {s t u : State} (h : Accessed s t) (h' : Accessed t u) : Accessed s u := by
  unfold Accessed at *
  rw [h'] ; conv => lhs; rw [h]

theorem Accessed.regs {s t : State} (h : Accessed s t) : t.regs = s.regs := by rw [h]
theorem Accessed.eip {s t : State} (h : Accessed s t) : t.eip = s.eip := by rw [h]
theorem Accessed.nextEip {s t : State} (h : Accessed s t) : t.nextEip = s.nextEip := by rw [h]
theorem Accessed.eflags {s t : State} (h : Accessed s t) : t.eflags = s.eflags := by rw [h]
theorem Accessed.cpl {s t : State} (h : Accessed s t) : t.cpl = s.cpl := by rw [h]
theorem Accessed.segs {s t : State} (h : Accessed s t) : t.segs = s.segs := by rw [h]
theorem Accessed.ldtr {s t : State} (h : Accessed s t) : t.ldtr = s.ldtr := by rw [h]
theorem Accessed.tr {s t : State} (h : Accessed s t) : t.tr = s.tr := by rw [h]
theorem Accessed.gdtr {s t : State} (h : Accessed s t) : t.gdtr = s.gdtr := by rw [h]
theorem Accessed.idtr {s t : State} (h : Accessed s t) : t.idtr = s.idtr := by rw [h]
theorem Accessed.cr0 {s t : State} (h : Accessed s t) : t.cr0 = s.cr0 := by rw [h]
theorem Accessed.cr2 {s t : State} (h : Accessed s t) : t.cr2 = s.cr2 := by rw [h]
theorem Accessed.cr3 {s t : State} (h : Accessed s t) : t.cr3 = s.cr3 := by rw [h]
theorem Accessed.dregs {s t : State} (h : Accessed s t) : t.dregs = s.dregs := by rw [h]
theorem Accessed.tr6 {s t : State} (h : Accessed s t) : t.tr6 = s.tr6 := by rw [h]
theorem Accessed.tr7 {s t : State} (h : Accessed s t) : t.tr7 = s.tr7 := by rw [h]
theorem Accessed.inhibit {s t : State} (h : Accessed s t) : t.inhibit = s.inhibit := by rw [h]
theorem Accessed.nmiMasked {s t : State} (h : Accessed s t) : t.nmiMasked = s.nmiMasked := by rw [h]
theorem Accessed.run {s t : State} (h : Accessed s t) : t.run = s.run := by rw [h]
theorem Accessed.lines {s t : State} (h : Accessed s t) : t.lines = s.lines := by rw [h]
theorem Accessed.ssv {s t : State} (h : Accessed s t) : t.ssv = s.ssv := by rw [h]
theorem Accessed.pfx {s t : State} (h : Accessed s t) : t.pfx = s.pfx := by rw [h]
theorem Accessed.held {s t : State} (h : Accessed s t) : t.held = s.held := by rw [h]
theorem Accessed.again {s t : State} (h : Accessed s t) : t.again = s.again := by rw [h]
theorem Accessed.cfg {s t : State} (h : Accessed s t) : t.cfg = s.cfg := by rw [h]

theorem Accessed.putByte (s : State) (pa : Dword) (v : Byte) : Accessed s (s.putByte pa v) := rfl
theorem Accessed.watch (s : State) (lin : Dword) (n : Nat) (w : Bool) : Accessed s (s.watch lin n w) := rfl
theorem Accessed.noteReads (s : State) (l : List Dword) : Accessed s (s.noteReads l) := rfl
theorem Accessed.bus (s : State) (pa : Dword) (n : Nat) : Accessed s (s.bus pa n) := rfl
theorem Accessed.drew (s : State) : Accessed s s.drew := rfl

theorem Accessed.busStore (s : State) (c : Dword × Byte) : Accessed s (s.busStore c) := rfl

theorem Accessed.busStores : ∀ (l : List (Dword × Byte)) (s : State), Accessed s (l.foldl State.busStore s)
  | [], s => .refl s
  | c :: l, s => (Accessed.busStore s c).trans (.busStores l _)

theorem Accessed.putPhys32 (s : State) (pa v : Dword) : Accessed s (s.putPhys32 pa v) :=
  (((Accessed.putByte s _ _).trans (.putByte _ _ _)).trans (.putByte _ _ _)).trans (.putByte _ _ _)

theorem Accessed.orPhys32 (s : State) (pa v : Dword) : Accessed s (s.orPhys32 pa v) := by
  simp only [State.orPhys32]
  split
  · exact .bus s pa 4
  · exact (Accessed.bus s pa 4).trans (.putPhys32 _ pa _)

theorem Accessed.store (r : Ref) (v : Nat) : ∀ (n i : Nat) (s : State), Accessed s (r.store v n i s)
  | 0, _, s => .refl s
  | n + 1, i, s => (Accessed.putByte s _ _).trans (Accessed.store r v n (i + 1) _)

/-- A prepared page's translation always happens. -/
theorem touch_ok (p : Piece) (w : Bool) (s : State) : ∃ t, touch p w s = .ok () t ∧ Accessed s t := by
  unfold touch
  simp only [op_bind, op_get, op_ite]
  by_cases hpg : s.pg
  · simp only [hpg, if_true]
    cases p.fill with
    | none => exact ⟨_, rfl, rfl⟩
    | some x =>
      obtain ⟨pdeAddr, pteAddr, u, w'⟩ := x
      refine ⟨_, rfl, ?_⟩
      refine Accessed.trans (Accessed.drew s) ?_
      refine Accessed.trans (Accessed.orPhys32 _ pdeAddr (if (w && Config.pdeDirty s.free) = true then 0x60 else 0x20)) ?_
      refine Accessed.trans (Accessed.orPhys32 _ pteAddr (if w = true then 0x60 else 0x20)) ?_
      rfl
  · simp only [hpg]
    exact ⟨_, rfl, .refl s⟩

theorem touchRef_ok (r : Ref) (w : Bool) (s : State) : ∃ t, touchRef r w s = .ok () t ∧ Accessed s t := by
  obtain ⟨t, ht, ha⟩ := touch_ok r.lo w s
  unfold touchRef
  rw [op_bind_ok ht]
  cases r.hi with
  | none => exact ⟨t, rfl, ha⟩
  | some p =>
    obtain ⟨u, hu, hb⟩ := touch_ok p w t
    exact ⟨u, hu, ha.trans hb⟩

/-- Making the translations of a prepared access never stops. -/
@[simp] theorem touchRef_run (r : Ref) (w : Bool) (s : State) : touchRef r w s = .ok () (r.touched w s) := by
  obtain ⟨t, ht, -⟩ := touchRef_ok r w s
  simp only [Ref.touched, ht, endState]

theorem Accessed.touched (r : Ref) (w : Bool) (s : State) : Accessed s (r.touched w s) := by
  obtain ⟨t, ht, ha⟩ := touchRef_ok r w s
  simpa only [Ref.touched, ht, endState] using ha

theorem Accessed.seen (r : Ref) (s : State) : Accessed s (r.seen s) :=
  ((Accessed.touched r false s).trans (.watch _ _ _ _)).trans (.noteReads _ _)

theorem Accessed.stored (r : Ref) (v : Nat) (s : State) : Accessed s (r.stored v s) :=
  ((Accessed.touched r true s).trans (.store r v r.n 0 _)).trans (.watch _ _ _ _)

theorem Accessed.storedAll : ∀ (l : List (Ref × Nat)) (s : State), Accessed s (storedAll l s)
  | [], s => .refl s
  | (r, v) :: l, s => (Accessed.stored r v s).trans (Accessed.storedAll l _)

/-- The record of data breakpoints does not change what is read. -/
@[simp] theorem Ref.load_watch (r : Ref) (s : State) (lin : Dword) (k : Nat) (w : Bool) : ∀ n i : Nat,
    r.load (s.watch lin k w) n i = r.load s n i
  | 0, _ => rfl
  | n + 1, i => by
    simp only [Ref.load, Ref.load_watch r s lin k w n (i + 1)]
    rfl

/-- Making a prepared read always answers. -/
@[simp] theorem readRef_run (r : Ref) (s : State) : readRef r s = .ok (r.value s) (r.seen s) := by
  simp only [readRef, op_bind, touchRef_run, op_modify, loadRef, Ref.value, Ref.seen, Ref.load_watch]

/-- Making a prepared write always answers. -/
@[simp] theorem writeRef_run (r : Ref) (v : Nat) (s : State) : writeRef r v s = .ok () (r.stored v s) := by
  simp only [writeRef, op_bind, touchRef_run, op_modify, Ref.stored]

@[simp] theorem writeAll_run : ∀ (l : List (Ref × Nat)) (s : State), writeAll l s = .ok () (storedAll l s)
  | [], _ => rfl
  | (r, v) :: l, s => by simp only [writeAll, op_bind, writeRef_run, writeAll_run l, Machine.storedAll]

@[simp] theorem readPlace_run (k : Width) (p : Place) (s : State) :
    readPlace k p s = .ok (p.value k s) (p.seen s) := by
  cases p with
  | reg r => rfl
  | mem r => simp only [readPlace, op_bind, readRef_run, op_pure, Place.value, Place.seen]

@[simp] theorem writePlace_run (k : Width) (p : Place) (v : Val k) (s : State) :
    writePlace k p v s = .ok () (p.put k v s) := by
  cases p with
  | reg r => rfl
  | mem r => simp only [writePlace, writeRef_run, Place.put]

theorem Accessed.placeSeen (p : Place) (s : State) : Accessed s (p.seen s) := by
  cases p with
  | reg r => exact .refl s
  | mem r => exact .seen r s

/-! ## Preparing an access -/

/-- Preparing an access may drop a TLB entry, use free values, and, where page tables do not lie in memory, tell
devices; nothing else. -/
def Prepared (s t : State) : Prop := t = { s with tlb := t.tlb, free := t.free, out := t.out }

theorem Prepared.refl (s : State) : Prepared s s := rfl

theorem Prepared.trans {s t u : State} (h : Prepared s t) (h' : Prepared t u) : Prepared s u := by
  unfold Prepared at *
  rw [h'] ; conv => lhs; rw [h]

theorem Prepared.accessed {s t : State} (h : Prepared s t) : Accessed s t := by rw [h]; rfl

theorem Prepared.mem {s t : State} (h : Prepared s t) : t.mem = s.mem := by rw [h]

theorem probeWalk_ok {la fa : Dword} {w u : Bool} {s t : State} {p : Piece} (h : probeWalk la fa w u s = .ok p t) :
    Prepared s t := by
  simp only [probeWalk] at h
  split at h
  · cases h
  · cases h
  · cases h; rfl

theorem probePage_ok {la fa : Dword} {w u : Bool} {s t : State} {p : Piece} (h : probePage la fa w u s = .ok p t) :
    Prepared s t := by
  unfold probePage at h
  simp only [op_get_bind, op_ite, op_pure] at h
  split at h
  · cases h; exact .refl s
  · cases hw : s.tlb.ways (la.extractLsb' 12 20) with
    | nil =>
      simp only [hw] at h
      exact probeWalk_ok h
    | cons k l =>
      cases l with
      | cons _ _ => simp only [hw] at h; cases h
      | nil =>
        simp only [hw, fresh_bind, op_ite, op_pure, op_modify_bind] at h
        split at h
        · split at h
          · cases h; rfl
          · refine Prepared.trans ?_ (probeWalk_ok h)
            rfl
        · refine Prepared.trans ?_ (probeWalk_ok h)
          rfl

theorem probe_ok {lin : Dword} {n : Nat} {w u : Bool} {s t : State} {r : Ref} (h : probe lin n w u s = .ok r t) :
    Prepared s t := by
  unfold probe at h
  simp only [op_ite, op_get_bind, fresh_bind] at h
  split at h
  · obtain ⟨a, t1, h1, h⟩ := op_bind_eq_ok h
    cases h
    exact probePage_ok h1
  · split at h
    · obtain ⟨a, t1, h1, h⟩ := op_bind_eq_ok h
      obtain ⟨b, t2, h2, h⟩ := op_bind_eq_ok h
      cases h
      exact (probePage_ok h1).trans (probePage_ok h2)
    · split at h <;>
      · obtain ⟨a, t1, h1, h⟩ := op_bind_eq_ok h
        obtain ⟨b, t2, h2, h⟩ := op_bind_eq_ok h
        cases h
        exact Prepared.trans (show Prepared s s.drew from rfl) ((probePage_ok h1).trans (probePage_ok h2))

/-- An access over two pages with paging on: each page is checked, in one order or the other by a free value
(22_paging.md R224, R226). -/
theorem probe_two {lin : Dword} {n : Nat} {w u : Bool} {s : State} (hp : s.pg = true)
    (hn : (lin + BitVec.ofNat 32 (n - 1)).extractLsb' 12 20 ≠ lin.extractLsb' 12 20) :
    let last := lin + BitVec.ofNat 32 (n - 1)
    let upper := probePage last (last.extractLsb' 12 20 ++ 0#12) w u
    let lower := probePage lin lin w u
    probe lin n w u s = if Config.upperPageFirst s.free
      then (do let hi ← upper; let lo ← lower; return (⟨lin, n, lo, some hi⟩ : Ref)) s.drew
      else (do let lo ← lower; let hi ← upper; return (⟨lin, n, lo, some hi⟩ : Ref)) s.drew := by
  unfold probe
  simp [hn, hp]

/-- The check of an access changes nothing. -/
theorem checkVia_ok {r : SegReg} {k : Bool} {c : BitVec 16} {off : Dword} {n : Nat} {w : Bool} {s t : State} {a : Unit}
    (h : checkVia r k c off n w s = .ok a t) : t = s := by
  unfold checkVia at h
  rw [op_get_bind] at h
  cases hc : r.check s.prot off.toNat n w with
  | ok => rw [hc] at h; cases h; rfl
  | nullSelector => rw [hc] at h; cases h
  | violation =>
    rw [hc] at h
    cases k <;> cases h

theorem prepareVia_ok {r : SegReg} {k : Bool} {c : BitVec 16} {off : Dword} {n : Nat} {w u : Bool} {s t : State}
    {x : Ref} (h : prepareVia r k c off n w u s = .ok x t) : Prepared s t := by
  obtain ⟨_, u, h1, h2⟩ := op_bind_eq_ok h
  cases checkVia_ok h1
  exact probe_ok h2

theorem prepare_ok {k : Sreg} {off : Dword} {n : Nat} {w : Bool} {s t : State} {x : Ref}
    (h : prepare k off n w s = .ok x t) : Prepared s t := prepareVia_ok (show prepareVia _ _ _ _ _ _ _ s = _ from h)

/-- Finding an r/m operand changes no register, no flag and no byte of memory. -/
theorem locate_ok {k : Width} {rm : RM} {w : Bool} {s t : State} {p : Place} (h : locate k rm w s = .ok p t) :
    Prepared s t := by
  cases rm with
  | reg r => cases h; exact .refl s
  | mem m =>
    simp only [locate, op_get_bind] at h
    obtain ⟨r, u, h1, h⟩ := op_bind_eq_ok h
    cases h
    exact prepare_ok h1

@[simp] theorem locate_reg (k : Width) (r : Reg) (w : Bool) (s : State) :
    locate k (.reg r) w s = .ok (.reg r) s := rfl

/-- Reading an r/m operand. -/
theorem readRM_ok {k : Width} {rm : RM} {s t : State} {p : Place} (h : locate k rm false s = .ok p t) :
    readRM k rm s = .ok (p.value k t) (p.seen t) := by
  simp only [readRM]
  rw [op_bind_ok h, readPlace_run]

/-- Writing an r/m operand. -/
theorem writeRM_ok {k : Width} {rm : RM} {v : Val k} {s t : State} {p : Place} (h : locate k rm true s = .ok p t) :
    writeRM k rm v s = .ok () (p.put k v t) := by
  simp only [writeRM]
  rw [op_bind_ok h, writePlace_run]

/-- Updating an r/m operand. -/
theorem updateRM_ok {k : Width} {rm : RM} {f : Val k → Op (Val k)} {s t u : State} {p : Place} {v : Val k}
    (h : locate k rm true s = .ok p t) (hf : f (p.value k t) (p.seen t) = .ok v u) :
    updateRM k rm f s = .ok () (p.put k v u) := by
  simp only [updateRM]
  rw [op_bind_ok h, op_bind_ok (readPlace_run k p t), op_bind_ok hf, writePlace_run]

@[simp] theorem readRefs_run : ∀ (l : List Ref) (s : State), readRefs l s = .ok (readAllAt l s).1 (readAllAt l s).2
  | [], _ => rfl
  | r :: l, s => by simp only [readRefs, op_bind, readRef_run, readRefs_run l, op_pure, readAllAt]

theorem Accessed.readAllAt : ∀ (l : List Ref) (s : State), Accessed s (readAllAt l s).2
  | [], s => .refl s
  | r :: l, s => (Accessed.seen r s).trans (Accessed.readAllAt l _)

/-- Both parts of an operand prepared, both are read, the first first. -/
theorem readParts_ok {lo hi : Op Ref} {s t1 t2 : State} {x y : Ref} (h1 : lo s = .ok x t1) (h2 : hi t1 = .ok y t2) :
    readParts lo hi s = .ok (x.value t2, y.value (x.seen t2)) (y.seen (x.seen t2)) := by
  simp only [readParts]
  rw [op_bind_ok h1, op_bind_ok h2, op_bind_ok (readRef_run x t2), op_bind_ok (readRef_run y _), op_pure]

/-- A memory read of the instruction. -/
theorem memRead_ok {k : Sreg} {off : Dword} {n : Nat} {s t : State} {r : Ref} (h : prepare k off n false s = .ok r t) :
    memRead k off n s = .ok (r.value t) (r.seen t) := by
  simp only [memRead]
  rw [op_bind_ok h, readRef_run]

/-- A memory write of the instruction. -/
theorem memWrite_ok {k : Sreg} {off : Dword} {n v : Nat} {s t : State} {r : Ref}
    (h : prepare k off n true s = .ok r t) : memWrite k off n v s = .ok () (r.stored v t) := by
  simp only [memWrite]
  rw [op_bind_ok h, writeRef_run]

/-! ## Other bus masters -/

/-- What other bus masters store keeps the canonical form of memory. -/
theorem State.busStores_wf : ∀ (l : List (Dword × Byte)) {s : State}, Mem.wf s.mem = true →
    Mem.wf (l.foldl State.busStore s).mem = true
  | [], _, h => h
  | c :: l, s, h => State.busStores_wf l (s := s.busStore c) (State.putByte_wf c.1 c.2 h)

theorem State.busStores_pend : ∀ (l : List (Dword × Byte)) (s : State), (l.foldl State.busStore s).pend = s.pend
  | [], _ => rfl
  | c :: l, s => State.busStores_pend l (s.busStore c)

theorem State.masters_wf {s : State} (h : Mem.wf s.mem = true) : Mem.wf s.masters.mem = true :=
  State.busStores_wf _ h

/-- With nothing stored by another bus master the boundary begins at the state itself. -/
theorem State.masters_none {s : State} (h : s.lines.stores = []) : s.masters = s := by
  have hl : ({ s.lines with stores := [] } : Lines) = s.lines := by rw [← h]
  simp only [State.masters, h, hl, List.foldl_nil]

/-- All that other bus masters' stores can change; none is left to come. -/
theorem State.masters_frame (s : State) :
    let t := s.masters
    Accessed { s with lines := t.lines } t ∧ t.lines = { s.lines with stores := [] } ∧ t.pend = s.pend := by
  refine ⟨?_, rfl, ?_⟩
  · have h := Accessed.busStores s.lines.stores s
    simp only [Accessed, State.masters] at h ⊢
    rw [h]
  · exact State.busStores_pend _ s

end Sys2Proof.Machine
end

