-- ==== Sys2Proof/Certificates/Slice0/Obligations.lean ====
section
/-!
DEFINITION. Obligations.lean: the statements about the model, from the numbered rules of spec/. A statement of what an
instruction does answers the whole next state, so that it is its frame as well: completes s t says that the instruction
begun at s completes with t, where t is s with the updates named and nothing else. Memory operands stand as prepared
accesses (Place, Ref), whose own statements (O9 to O11) say which bytes they read and write.
-/
open Sys2Proof Sys2Proof.Machine

/-! ## Reset, the step, decoding -/

/-- The reset values the spec gives (R34, R36, R45, R48 to R51, R59, R63, R71 to R76 of 10_state.md; R881, R884), for
every part, memory and input lines, the attributes of the segment registers that R49 fixes among them: 16-bit, byte
granular, present, DPL 0, readable and writable, expand-up; the registers the spec leaves undefined are assumption log
2's, the bits A and AVL log 42's, and not stated. RESET comes before everything else in a step and leaves memory and
parameters as they were (R25, R880). -/
def Obligations.ResetValues : Prop :=
  (∀ (cfg : Config.Params) (mem : List Host.Cell) (lines : Lines) (free : Nat) (out : List HostEvent),
    let s := State.atReset cfg mem lines free out
    s.eip = 0xFFF0 ∧ s.eflags = 2 ∧ s.regs.eax = cfg.selfTestResult ∧
    s.regs.edx.extractLsb' 0 16 = 0x03#8 ++ cfg.resetRevision ∧
    s.segs.cs.sel = 0xF000 ∧ s.segs.cs.base = 0xFFFF0000 ∧ s.segs.cs.limit = 0xFFFF ∧
    (∀ k, k ≠ Sreg.cs → (s.segs.get k).sel = 0 ∧ (s.segs.get k).base = 0 ∧ (s.segs.get k).limit = 0xFFFF) ∧
    (∀ k, let a := (s.segs.get k).attr
      a.db = false ∧ a.g = false ∧ a.p = true ∧ a.dpl = 0 ∧ a.e = false ∧ a.c = false ∧ a.rw = true) ∧
    s.cpl = 0 ∧ s.idtr = ⟨0, 0x3FF⟩ ∧ s.pe = false ∧ s.pg = false ∧
    s.cr0 = (if cfg.coprocessorPresent then 0x7FFFFFF2 else 0x7FFFFFE0) ∧ s.dregs.dr7 = 0 ∧
    s.ldtr.null = true ∧ s.tr.sel = 0 ∧ s.tr.limit = 0 ∧ s.tlb.counter = 0 ∧
    (∀ i : Fin 32, s.tlb.entries[i].v = false) ∧ (∀ i : Fin 32, s.icache.lines[i].valid = 0) ∧
    s.icache.enabled = (cfg.icacheResetEnabled && cfg.part.hasIcache) ∧ s.inhibit = .none ∧ s.nmiMasked = false ∧
    s.run = .running ∧ s.pend = .none ∧ s.queue = [] ∧ s.ssv.enabled = false) ∧
  (∀ s : State, s.lines.reset = true → ∃ t, step s = .next t ∧ t.eip = 0xFFF0 ∧ t.pe = false ∧ t.eflags = 2 ∧
    t.segs.cs.base = 0xFFFF0000 ∧ t.run = .running ∧ t.mem = s.mem ∧ t.cfg = s.cfg)

/-- The invariant holds right after reset, on every part and for every memory in canonical form. -/
def Obligations.ResetInvariant : Prop :=
  State.reset.Inv ∧ ∀ (cfg : Config.Params) (mem : List Host.Cell) (lines : Lines) (free : Nat) (out : List HostEvent),
    Mem.wf mem = true → (State.atReset cfg mem lines free out).Inv

/-- Every step keeps the invariant, from every state that has it: canonical memory, the stuck bits of EFLAGS (R37), CR0
with PG only beside PE and its bits 30:4 fixed (R56), CR3's low bits 0 (R58), virtual-8086 mode only in protected mode
at CPL 3 (R820), CPL 0 in real mode and in SuperState V (R48, R750). -/
def Obligations.StepKeepsInvariant : Prop :=
  ∀ s t : State, s.Inv → step s = .next t → t.Inv


/-- With no event due at the boundary, the step runs the instruction fetched at CS:EIP: it is exec of that instruction
at the state the fetch left, with nextEip behind its bytes, what its predecessor's stores replaced gone, up to sixteen
bytes behind it fetched ahead, the interrupt shadow it stands in held until it ends, and no prefix and no held shadow
left afterwards (R25, R35, R71, R137, R290). A repeated string instruction that goes on runs with its prefixes, without
another fetch. A fetch that faults, and an instruction longer than fifteen bytes that is no undefined opcode, deliver
their exception with the EIP of the instruction (R290). Fetching ahead changes only memory, as page tables are marked,
the caches, what devices are told and the counter of free values, and nothing at all with paging and cache off and no
device in the map. That the bytes ahead are fetched right behind the fetch of the instruction, and never within it, is
the model's choice where R140 leaves the moment open, assumption log 9; that the instruction in progress is held in a
field of State, so that a repeated one is not fetched again, is the model's choice, assumption logs 13 and 40; and so is
how many bytes are fetched of a pattern whose #UD R290 gives no place among the fetches, assumption log 55. -/
def Obligations.StepRunsInstruction : Prop :=
  (∀ (s : State), s.lines.reset = false → s.run = .running → s.boundary.due = .nothing →
    let b := { s.boundary with held := s.boundary.inhibit, inhibit := .none, pfx := .none }
    let ends := fun o : Host.Outcome State Fault Refusal => match o with
      | .next t => Host.Outcome.next { t with pfx := .none, held := .none }
      | .fault f => .fault f
      | .refused r => .refused r
    (∀ r : Repeat, b.again = some r → step s = ends (exec r.instr (b.resumed r))) ∧
    (∀ (u : State) (i : Instr) (len : Nat), b.again = none → fetch b = .ok (i, len) u →
      (len ≤ maxLength ∨ i.undecodable s.cfg.part.hasSsv = true → step s = ends (exec i (u.fetched i len).prefetched)) ∧
      (maxLength < len → i.undecodable s.cfg.part.hasSsv = false →
        step s = ends (deliver (faultEvent ⟨13, some 0⟩ b.eip) (b.rollback u)))) ∧
    (∀ (x : Exn) (u : State), b.again = none → fetch b = .error (.exc x) u →
      step s = ends (deliver (faultEvent x b.eip) (b.rollback u)))) ∧
  (∀ (s : State) (i : Instr) (len : Nat) (r : Repeat),
    s.fetched i len = { s with
      nextEip := s.eip + BitVec.ofNat 32 len
      stale := []
      queue := if s.flushed = [] then s.queue else []
      flushed := []
      again := some ⟨i, s.pfx, len⟩ } ∧
    s.resumed r = { s with nextEip := s.eip + BitVec.ofNat 32 r.len, pfx := r.pfx } ∧
    (let t := s.prefetched
     t = { s with mem := t.mem, stale := t.stale, queue := t.queue, flushed := t.flushed, icache := t.icache,
                  tlb := t.tlb, free := t.free, out := t.out }) ∧
    (s.pg = false → s.caches = false → s.cfg.physMap = [] → s.prefetched = s))

/-- Paging off and no cache to fill, the old bytes gone: when the bytes of memory at CS:EIP decode, under the sizes of
CS, to one instruction that is no prefix and ends with the last of them, that instruction is what the fetch answers, and
the fetch changes nothing (R181, R262, R263, R290). A byte that stands in the queue behind a MOV to CR3 is fetched where
it was translated before (R139); a store to a byte that stands there, or in the cache, empties the queue (R69, R136).
Another bus master's store of a byte does the same, invalidates the cache's entry, changes no other byte and tells no
device; those since the last boundary come first at a boundary, in their order (R136; that they come there is the
model's choice, assumption log 34). After a store of either kind one free value says whether the next instruction's
bytes are read as they were before it (R137, D17, U3). What the instruction cache gives: for RAM and ROM the byte memory
holds; a byte fetched with the cache in use is in the cache then, and fetching it again gives the same byte, a device's
too, and changes nothing (R135, R136). -/
def Obligations.FetchDecodesBytes : Prop :=
  (∀ (s : State) (i : Instr) (n : Nat),
    s.pg = false → s.caches = false → s.stale = [] → s.queue = [] → s.flushed = [] → (s.prot && s.segs.cs.null) = false →
    n ≤ maxLength → s.eip.toNat + n ≤ s.segs.cs.limit.toNat + 1 → i.isPrefix = false →
    (∀ j, j < n → s.holds (s.segs.cs.base + (s.eip + BitVec.ofNat 32 j)) = true) →
    decode ⟨s.os32, s.as32⟩ ((List.range n).map fun j => s.phys (s.segs.cs.base + (s.eip + BitVec.ofNat 32 j)))
      = some (i, []) →
    fetch s = .ok (i, n) s) ∧
  (∀ (s : State) (off pa : Dword), (s.prot && s.segs.cs.null) = false → off.toNat ≤ s.segs.cs.limit.toNat →
    s.queue.find? (fun c => c.1 == s.segs.cs.base + off) = some (s.segs.cs.base + off, pa) → s.caches = false →
    s.holds pa = true → fetchByte false off s = .ok (s.phys pa) s) ∧
  (∀ (s : State) (pa : Dword) (v : Byte), (s.putByte pa v).queue =
    if (∃ c ∈ s.queue, c.2 = pa) ∨ s.icache.hit pa = true then [] else s.queue) ∧
  (∀ (s : State) (c : Dword × Byte), Mem.wf s.mem = true →
    let t := s.busStore c
    let at_ := fun x : Host.Cell => x.1 == c.1.toNat
    t = { s with mem := t.mem, stale := t.stale, queue := t.queue, flushed := t.flushed, icache := t.icache } ∧
    t.queue = (if (∃ x ∈ s.queue, x.2 = c.1) ∨ s.icache.hit c.1 = true then [] else s.queue) ∧
    t.icache.hit c.1 = false ∧ t.cell c.1 = (if s.kindAt c.1 = .ram then c.2 else s.cell c.1) ∧
    (∀ q, q ≠ c.1 → t.cell q = s.cell q) ∧
    (s.kindAt c.1 = .ram → s.cell c.1 ≠ c.2 → s.stale.find? at_ = none →
      t.stale.find? at_ = some (c.1.toNat, s.cell c.1))) ∧
  (∀ (s : State), s.boundary = s.masters.boundary ∧ (s.lines.stores = [] → s.masters = s) ∧
    ∀ c l, s.lines.stores = c :: l →
      s.masters = State.masters { s.busStore c with lines := { s.lines with stores := l } }) ∧
  (∀ (s : State), s.stale ≠ [] ∨ s.flushed ≠ [] →
    let old := Config.staleFetch s.free
    fetch s = fetchInstr old (2 ^ 32) s.eip 0
      { s.drew with queue := if old = true ∧ s.flushed ≠ [] then s.flushed else s.queue }) ∧
  (∀ (s t : State) (off pa : Dword), fetchAddress off s = .ok pa t →
    fetchByte false off s = .ok (t.codeFetch pa).1 (t.codeFetch pa).2 ∧
    fetchByte true off s = match t.stale.find? (fun x => x.1 == pa.toNat) with
      | some x => .ok x.2 t
      | none => .ok (t.codeFetch pa).1 (t.codeFetch pa).2) ∧
  (∀ (s : State) (pa : Dword),
    let x := s.codeFetch pa
    (s.holds pa = true → x.1 = s.cell pa) ∧
    (s.caches = true → x.2.icache.hit pa = true ∧ x.2.codeFetch pa = x) ∧
    x.2.mem = s.mem ∧ x.2.regs = s.regs ∧ x.2.cfg = s.cfg)

/-- Decode and encode agree: every well-formed instruction, with every operand at every value its encoding admits, is
what its bytes decode to, whatever bytes follow (R250 to R288). -/
def Obligations.DecodeEncode : Prop :=
  ∀ (z : Sizes) (i : Instr) (rest : List Byte), i.wf z = true → decode z (encode i ++ rest) = some (i, rest)

/-- Whatever bytes decode, they decode to a well-formed instruction; and but for SETcc, whose REG field the decoder
ignores (D47), the bytes are exactly that instruction's encoding followed by the rest (R250 to R301). -/
def Obligations.DecodeSound : Prop :=
  ∀ (z : Sizes) (i : Instr) (bytes rest : List Byte), decode z bytes = some (i, rest) →
    i.wf z = true ∧ ((∀ k rm, i ≠ setccInstr k rm) → bytes = encode i ++ rest)

/-- A few words of the opcode map, written out from R285 to R287: 01 /r, 83 /r ib, 8B /r with a SIB byte, 0F BA /5 ib,
EA, D6. -/
def Obligations.DecodeWords : Prop :=
  decode ⟨true, true⟩ [0x01, 0xC8] = some (.add (.rmReg true (.reg .eax) .ecx), []) ∧
  decode ⟨true, true⟩ [0x83, 0xC0, 0xFF] = some (.add (.rmSext (.reg .eax) 0xFF), []) ∧
  decode ⟨true, true⟩ [0x8B, 0x44, 0xB3, 0x10] =
    some (.mov (.regRm true .eax (.mem (.sib 2 .esi .ebx (.d8 0x10)))), []) ∧
  decode ⟨false, false⟩ [0x0F, 0xBA, 0x2F, 0x07] = some (.bts (.rmImm (.mem (.base16 .bx .none)) 7), []) ∧
  decode ⟨false, false⟩ [0xEA, 0x34, 0x12, 0x00, 0xF0] = some (.jmpFar (.ptr (.w 0x1234) 0xF000), []) ∧
  decode ⟨true, true⟩ [0xD6] = some (.undefined (.op 0xD6), [])

/-! ## Accesses -/

/-- A reference with paging off that its segment allows is prepared without changing the state, and its byte i is the
physical byte at base + offset + i, modulo 2^32 (R100, R105, R180, D14). One its segment does not allow raises #GP(0)
through a null selector or through a segment other than SS, and #SS(0) through SS, before anything changes (R180, R690,
R691). What the check is: in a segment that does not expand down, every byte's offset is at most the limit; in one that
does, above the limit and at most FFFFh or FFFFFFFFh; a write needs a writable data segment, a read anything but
execute-only code (R168, R180). -/
def Obligations.SegmentedReference : Prop :=
  ((∀ (s : State) (k : Sreg) (off : Dword) (n : Nat) (w : Bool),
    s.pg = false → 0 < n → n ≤ 4096 → (s.segs.get k).check s.prot off.toNat n w = .ok →
    ∃ r : Ref, prepare k off n w s = .ok r s ∧ r.n = n ∧ r.lin = (s.segs.get k).base + off ∧
      ∀ i, i < n → r.pa i = (s.segs.get k).base + off + BitVec.ofNat 32 i) ∧
  (∀ (s : State) (k : Sreg) (off : Dword) (n : Nat) (w : Bool),
    ((s.segs.get k).check s.prot off.toNat n w = .nullSelector →
      prepare k off n w s = .error (.exc ⟨13, some 0⟩) s) ∧
    ((s.segs.get k).check s.prot off.toNat n w = .violation →
      prepare k off n w s = .error (.exc ⟨if k = .ss then 12 else 13, some 0⟩) s))) ∧
  (∀ (r : SegReg) (prot : Bool) (off n : Nat) (w : Bool), 0 < n → (prot && r.null) = false →
    (r.check prot off n w = .ok ↔
      (if w then r.attr.e = false ∧ r.attr.rw = true else r.attr.e = false ∨ r.attr.rw = true) ∧
      ∀ i, i < n → if r.attr.e = false ∧ r.attr.c = true
        then r.limit.toNat < off + i ∧ off + i ≤ (if r.attr.db then 0xFFFFFFFF else 0xFFFF)
        else off + i ≤ r.limit.toNat))

/-- A page of an access that no TLB entry serves: a present page that allows it translates, by the entries walked, whose
U and W bits are ANDed; otherwise #PF with the address in CR2 and the code U, W, P (R210, R211, R220). An access by the
executing instruction that its segment allows is made at user level exactly at CPL 3 (R210). Where its first and last
byte lie in two pages both are translated before it is made, in an order that is a free value, and a fault of the upper
page reports that page's first byte (R224, R226). A page that one entry serves: whether the entry is used or
dropped is a free value; used, it answers without a walk when it allows the access and, for a write, its D is set; an
entry that would fault, a write to a clean entry, and a dropped entry walk the tables (R228, R230, R232). Making the
translation of a page whose tables were walked sets the accessed bits of both entries and, on a write, the dirty bit of
the page-table entry, as far as they lie in RAM; no other bit of the two entries but bit 6, and no byte outside them,
changes; the TLB then holds the
translation, and its counter counts the reference (R228, R230, R231). Bit 6 of the directory entry is open (assumption
log 10) and not stated. -/
def Obligations.PageTranslation : Prop :=
  ((∀ (s : State) (la fa : Dword) (w u : Bool), s.pg = true →
    let page := la.extractLsb' 12 20
    let pdeAddr : Dword := s.cr3.extractLsb' 12 20 ++ la.extractLsb' 22 10 ++ 0#2
    let pde := s.phys32 pdeAddr
    let pteAddr : Dword := pde.extractLsb' 12 20 ++ la.extractLsb' 12 10 ++ 0#2
    let pte := s.phys32 pteAddr
    let present := bit pde 0 && bit pte 0
    let allowed := !u || (bit pde 2 && bit pte 2 && (!w || (bit pde 1 && bit pte 1)))
    let read := s.noteReads (s.walkReads la)
    (if present && allowed then
      probeWalk la fa w u s = .ok ⟨page, pte.extractLsb' 12 20,
        some (pdeAddr, pteAddr, bit pde 2 && bit pte 2, bit pde 1 && bit pte 1)⟩ read
    else
      probeWalk la fa w u s = .error
        (.exc ⟨14, some (0#13 ++ BitVec.ofBool (s.cpl == 3) ++ BitVec.ofBool w ++ BitVec.ofBool present)⟩)
        { read with cr2 := fa }) ∧
    (s.tlb.ways page = [] → probePage la fa w u s = probeWalk la fa w u s) ∧
    (∀ k, s.tlb.ways page = [k] →
      let e := s.tlb.entries[tlbIndex page k]
      let serves := (!u || (e.u && (!w || e.w))) && (!w || e.d)
      probePage la fa w u s =
        if Config.tlbKeep s.free = true then
          (if serves then .ok ⟨page, e.pa, none⟩ s.drew else probeWalk la fa w u s.drew)
        else probeWalk la fa w u { s.drew with tlb := s.tlb.put page k { e with v := false } })) ∧
  (∀ (s : State) (la pa : BitVec 20) (write : Bool), s.pg = true →
    touch ⟨la, pa, none⟩ write s = .ok () { s with tlb := { s.tlb with counter := s.tlb.counter + 1 } })) ∧
  (∀ (s : State) (k : Sreg) (off : Dword) (n : Nat) (w : Bool), (s.segs.get k).check s.prot off.toNat n w = .ok →
    prepare k off n w s = probe ((s.segs.get k).base + off) n w (s.cpl == 3) s) ∧
  (∀ (s : State) (lin : Dword) (n : Nat) (w u : Bool), s.pg = true →
    let last := lin + BitVec.ofNat 32 (n - 1)
    let upper : Dword := last.extractLsb' 12 20 ++ 0#12
    let up := Config.upperPageFirst s.free
    let page := fun high : Bool => if high then probePage last upper w u else probePage lin lin w u
    (last.extractLsb' 12 20 = lin.extractLsb' 12 20 → ∀ x p t,
      (probePage lin lin w u s = .error x t → probe lin n w u s = .error x t) ∧
      (probePage lin lin w u s = .ok p t → probe lin n w u s = .ok ⟨lin, n, p, none⟩ t)) ∧
    (last.extractLsb' 12 20 ≠ lin.extractLsb' 12 20 → ∀ x p q t t',
      (page up s.drew = .error x t → probe lin n w u s = .error x t) ∧
      (page up s.drew = .ok p t →
        (page (!up) t = .error x t' → probe lin n w u s = .error x t') ∧
        (page (!up) t = .ok q t' →
          probe lin n w u s = .ok ⟨lin, n, if up then q else p, some (if up then p else q)⟩ t')))) ∧
  (∀ (r : Ref) (i : Nat),
    let la := r.lin + BitVec.ofNat 32 i
    r.pa i = (if la.extractLsb' 12 20 = r.lo.la then r.lo.pa else match r.hi with
      | some p => p.pa
      | none => r.lo.pa) ++ la.extractLsb' 0 12) ∧
  (∀ (s : State) (la pa : BitVec 20) (pdeAddr pteAddr : Dword) (u w write : Bool),
    s.pg = true → Mem.wf s.mem = true → pdeAddr.extractLsb' 0 2 = 0 → pteAddr.extractLsb' 0 2 = 0 →
    (∀ i, i < 4 → s.kindAt (pdeAddr + BitVec.ofNat 32 i) = .ram ∧ s.kindAt (pteAddr + BitVec.ofNat 32 i) = .ram) →
    ∃ t, touch ⟨la, pa, some (pdeAddr, pteAddr, u, w)⟩ write s = .ok () t ∧
      bit (t.phys32 pdeAddr) 5 = true ∧ bit (t.phys32 pteAddr) 5 = true ∧
      (write = true → bit (t.phys32 pteAddr) 6 = true) ∧
      (∀ q : Dword, q.extractLsb' 2 30 ≠ pdeAddr.extractLsb' 2 30 → q.extractLsb' 2 30 ≠ pteAddr.extractLsb' 2 30 →
        t.cell q = s.cell q) ∧
      (∀ b, b ≠ 5 → b ≠ 6 → bit (t.phys32 pteAddr) b = bit (s.phys32 pteAddr) b ∧
        bit (t.phys32 pdeAddr) b = bit (s.phys32 pdeAddr) b) ∧
      (∃ way, let e := t.tlb.entries[tlbIndex la way]
        e.v = true ∧ e.tag = la ∧ e.pa = pa ∧ e.u = u ∧ e.w = w ∧ (write = true → e.d = true)) ∧
      t.tlb.counter = s.tlb.counter + 1 ∧ t.regs = s.regs ∧ t.eflags = s.eflags ∧ t.segs = s.segs)

/-- With paging off a prepared read gives its n bytes, the least significant first, and leaves everything but the record
of data breakpoints and, outside memory, what devices are told; a prepared write puts the bytes of the value at those of
its n addresses that are RAM, drops them at ROM and where nothing responds, and leaves every other byte, and every
register, as they were (R100 to R102). Each access adds to the record the data breakpoints, enabled or not, whose 1, 2
or 4 aligned bytes it touches: RW 01 by a write, RW 11 by a read or a write (R833, R835); that LEN 10 matches nothing is
D80, and that an access that wraps at the top does not match at the bottom is the model's choice, assumption log 50.
Nothing is said of the order in which a device hears of the bytes (assumption log 56). -/
def Obligations.AccessUnpaged : Prop :=
  ∀ (s : State) (r : Ref) (v : Nat), s.pg = false → Mem.wf s.mem = true →
    (∀ i j, i < r.n → j < r.n → r.pa i = r.pa j → i = j) →
    (∃ p f o, r.seen s = { s with pend := p, free := f, out := o }) ∧
    ((∀ i, i < r.n → s.holds (r.pa i) = true) → ∃ p, r.seen s = { s with pend := p }) ∧
    (∀ i, i < r.n → BitVec.ofNat 8 (r.value s / 256 ^ i) = s.phys (r.pa i)) ∧ r.value s < 256 ^ r.n ∧
    (∀ q, s.kindAt q = .ram ∨ s.kindAt q = .rom → s.phys q = s.cell q) ∧
    (∀ i, i < r.n → (r.stored v s).cell (r.pa i) =
      if s.kindAt (r.pa i) = .ram then BitVec.ofNat 8 (v / 256 ^ i) else s.cell (r.pa i)) ∧
    (∀ q, (∀ i, i < r.n → q ≠ r.pa i) → (r.stored v s).cell q = s.cell q) ∧
    (r.stored v s).regs = s.regs ∧ (r.stored v s).eflags = s.eflags ∧ (r.stored v s).segs = s.segs ∧
    (r.stored v s).tlb = s.tlb ∧ (r.stored v s).free = s.free ∧
    (let hit := fun (i : Nat) (w : Bool) =>
       let kind := s.dregs.dr7.extractLsb' (16 + 4 * i) 2
       let size := [1, 2, 0, 4].getD (s.dregs.dr7.extractLsb' (18 + 4 * i) 2).toNat 0
       let a := ([s.dregs.dr0, s.dregs.dr1, s.dregs.dr2, s.dregs.dr3].getD i 0).toNat
       let start := a - a % size
       decide (size ≠ 0 ∧ (kind = 3 ∨ (kind = 1 ∧ w = true)) ∧ start < r.lin.toNat + r.n ∧ r.lin.toNat < start + size)
     ∀ w, let p := if w then (r.stored v s).pend else (r.seen s).pend
       p.bs = s.pend.bs ∧ p.bt = s.pend.bt ∧
       ∀ i, i < 4 → p.hits.getLsbD i = (s.pend.hits.getLsbD i || hit i w))


/-! ## Prefixes and LOCK -/

/-- Each prefix is latched for the instruction it stands before and changes nothing else; the last segment override and
the last repeat prefix count (R252, R253, D27). -/
def Obligations.PrefixesLatch : Prop :=
  ∀ s : State,
    exec .segEs s = .next { s with pfx := { s.pfx with seg := some .es } } ∧
    exec .segCs s = .next { s with pfx := { s.pfx with seg := some .cs } } ∧
    exec .segSs s = .next { s with pfx := { s.pfx with seg := some .ss } } ∧
    exec .segDs s = .next { s with pfx := { s.pfx with seg := some .ds } } ∧
    exec .segFs s = .next { s with pfx := { s.pfx with seg := some .fs } } ∧
    exec .segGs s = .next { s with pfx := { s.pfx with seg := some .gs } } ∧
    exec .opsize s = .next { s with pfx := { s.pfx with opsize := true } } ∧
    exec .adrsize s = .next { s with pfx := { s.pfx with adrsize := true } } ∧
    exec .lock s = .next { s with pfx := { s.pfx with lock := true } } ∧
    exec .repne s = .next { s with pfx := { s.pfx with rep := some false } } ∧
    exec .rep s = .next { s with pfx := { s.pfx with rep := some true } }

/-- LOCK before anything but a memory-writing form of the fifteen lockable instructions raises #UD, with the state as
before the instruction (R258, R672, R681). -/
def Obligations.LockIllegal : Prop :=
  ∀ (i : Instr) (s : State), i.isPrefix = false → i.mayLock = false → s.pfx.lock = true →
    exec i s = faults s 6 none

/-! ## Arithmetic -/

/-- ADD, ADC, SUB, SBB in every form: the result at the destination, the six status flags of the sum or difference, and
nothing else (R380 to R385); CMP: the flags of the difference, nothing stored (R386). -/
def Obligations.AddSubResult : Prop :=
  (∀ (f : AluForm) (s t : State) (p : Place) (a b : Val (f.width s)),
    (s.pfx.lock = true → f.lockable = true) → f.reads s true p a b t →
    let c := s.status.cf
    let one : Val (f.width s) := BitVec.ofNat _ (carryNat c)
    exec (.add f) s = completes s (p.put _ (a + b) (t.setStatus (addStatus a b false))) ∧
    exec (.adc f) s = completes s (p.put _ (a + b + one) (t.setStatus (addStatus a b c))) ∧
    exec (.sub f) s = completes s (p.put _ (a - b) (t.setStatus (subStatus a b false))) ∧
    exec (.sbb f) s = completes s (p.put _ (a - b - one) (t.setStatus (subStatus a b c)))) ∧
  (∀ (f : AluForm) (s t : State) (p : Place) (a b : Val (f.width s)),
    s.pfx.lock = false → f.reads s false p a b t →
    exec (.cmp f) s = completes s (t.setStatus (subStatus a b false)))

/-- What the flags of a sum and of a difference are: CF the carry or borrow out, AF that of the low four bits, OF that
the signed result does not fit (the signs of the operands and the result say so), SF, ZF and PF of the result (R38,
R380). -/
def Obligations.ArithmeticFlags : Prop :=
  ∀ (n : Nat) (a b : BitVec n) (c : Bool), 8 ≤ n →
    let r := a + b + BitVec.ofNat n (carryNat c)
    let d := a - b - BitVec.ofNat n (carryNat c)
    (addStatus a b c).cf = BitVec.carry n a b c ∧
    (addStatus a b c).af = (a ^^^ b ^^^ r).getLsbD 4 ∧
    (addStatus a b c).of = (a.msb == b.msb && r.msb != a.msb) ∧
    (addStatus a b c).sf = r.getLsbD (n - 1) ∧ ((addStatus a b c).zf = true ↔ r.toNat = 0) ∧
    (subStatus a b c).cf = decide (a.toNat < b.toNat + c.toNat) ∧
    (subStatus a b c).af = (a ^^^ b ^^^ d).getLsbD 4 ∧
    (subStatus a b c).of = (a.msb != b.msb && d.msb != a.msb) ∧
    (subStatus a b c).sf = d.getLsbD (n - 1) ∧ ((subStatus a b c).zf = true ↔ d.toNat = 0) ∧
    ((addStatus a b c).pf = true ↔ ((List.range 8).filter fun i => r.getLsbD i).length % 2 = 0) ∧
    ((subStatus a b c).pf = true ↔ ((List.range 8).filter fun i => d.getLsbD i).length % 2 = 0)

/-- Writing the status flags writes EFLAGS bits 0, 2, 4, 6, 7, 11 and no other (R36). Writing a register operand: a byte
or word write leaves the rest of the 32-bit register, and every other register, as it was; byte registers 4 to 7 are AH,
CH, DH, BH (R31, R32). -/
def Obligations.StatusAndRegisterWrites : Prop :=
  (∀ (s : State) (f : Status), (s.setStatus f).status = f ∧
    ∀ i, i ≠ 0 → i ≠ 2 → i ≠ 4 → i ≠ 6 → i ≠ 7 → i ≠ 11 → bit (s.setStatus f).eflags i = bit s.eflags i) ∧
  (∀ (s : State) (k : Width) (r q : Reg) (v : Val k),
    (s.setReg k r v).reg k r = v ∧
    (k ≠ .b → q ≠ r → (s.setReg k r v).reg .d q = s.reg .d q) ∧
    (k = .w → (s.setReg k r v).reg .d r >>> 16 = s.reg .d r >>> 16) ∧
    (k = .b → q ≠ r.byteHome → (s.setReg k r v).reg .d q = s.reg .d q) ∧
    (k = .b → ∀ i, ¬ ((if r.byteHigh then 8 else 0) ≤ i ∧ i < (if r.byteHigh then 16 else 8)) →
      bit ((s.setReg k r v).reg .d r.byteHome) i = bit (s.reg .d r.byteHome) i))

/-- INC and DEC leave CF; NEG is 0 minus the operand; NOT changes no flag (R387, R388, R389, R424). -/
def Obligations.IncDecNegNot : Prop :=
  (∀ (f : IncForm) (s t : State) (p : Place) (a : Val (f.width s)),
    (s.pfx.lock = true → f.lockable = true) → s.operand (f.width s) f.rm true p a t →
    exec (.inc f) s =
      completes s (p.put _ (a + 1) (t.setStatus { addStatus a (1 : BitVec _) false with cf := s.status.cf })) ∧
    exec (.dec f) s =
      completes s (p.put _ (a - 1) (t.setStatus { subStatus a (1 : BitVec _) false with cf := s.status.cf }))) ∧
  (∀ (wide : Bool) (rm : RM) (s t : State) (p : Place) (a : Val (s.width wide)),
    (s.pfx.lock = true → rm.isReg = false) → s.operand (s.width wide) rm true p a t →
    exec (.neg wide rm) s = completes s (p.put _ (0 - a) (t.setStatus (subStatus 0 a false))) ∧
    exec (.not_ wide rm) s = completes s (p.put _ (~~~ a) t))

/-- MUL and IMUL: the product at twice the width, or cut to the width with CF and OF saying that it did not fit; the
other status flags are free values (R390 to R392, U1). -/
def Obligations.MultiplyResult : Prop :=
  (∀ (wide : Bool) (rm : RM) (s t : State) (p : Place) (b : Val (s.width wide)),
    s.pfx.lock = false → s.operand (s.width wide) rm false p b t →
    let k := s.width wide
    let m := (s.reg k .eax).toNat * b.toNat
    let z := (s.reg k .eax).toInt * b.toInt
    let lost := decide (z ≠ (BitVec.ofInt k.bits z).toInt)
    exec (.mul wide rm) s = completes s
      ((((t.setReg k .eax (BitVec.ofNat _ m)).setReg k (highReg k) (BitVec.ofNat _ (m / 2 ^ k.bits))).drew).setStatus
        { undefAt t.free with cf := decide (2 ^ k.bits ≤ m), of := decide (2 ^ k.bits ≤ m) }) ∧
    exec (.imul (.one wide rm)) s = completes s
      ((((t.setReg k .eax (BitVec.ofInt _ z)).setReg k (highReg k) (BitVec.ofInt _ (z / 2 ^ k.bits))).drew).setStatus
        { undefAt t.free with cf := lost, of := lost })) ∧
  (∀ (r : Reg) (rm : RM) (s t : State) (p : Place) (b : Val s.ow) (i : Imm) (i8 : BitVec 8),
    s.pfx.lock = false → s.operand s.ow rm false p b t →
    let result := fun x y : Val s.ow =>
      let z := x.toInt * y.toInt
      let lost := decide (z ≠ (BitVec.ofInt s.ow.bits z).toInt)
      completes s (((t.setReg s.ow r (BitVec.ofInt _ z)).drew).setStatus
        { undefAt t.free with cf := lost, of := lost })
    exec (.imul (.two r rm)) s = result (s.reg s.ow r) b ∧
    exec (.imul (.three r rm i)) s = result b (i.val s.ow) ∧
    exec (.imul (.threeSext r rm i8)) s = result b (sextByte i8 s.ow))

/-- DIV and IDIV: quotient and remainder of the double-width dividend, truncated toward 0; a divisor of 0 or a quotient
that does not fit is #DE, with every register as before; the status flags are free values behind a result, and behind a
#DE either as before the instruction, as R731(e) says, or free values, as R672(d) allows: a parameter, the model's
choice for two rules that differ, assumption log 53 (R394, R395, R675, U1). -/
def Obligations.DivideResult : Prop :=
  ∀ (wide : Bool) (rm : RM) (s t : State) (p : Place) (d : Val (s.width wide)),
    s.pfx.lock = false → s.operand (s.width wide) rm false p d t →
    let k := s.width wide
    let un := (s.reg k (highReg k)).toNat * 2 ^ k.bits + (s.reg k .eax).toNat
    let sn : Int := (s.reg k (highReg k)).toInt * 2 ^ k.bits + (s.reg k .eax).toNat
    let divided := fun q r : Val k =>
      completes s ((((t.setReg k .eax q).setReg k (highReg k) r).drew).setStatus (undefAt t.free))
    let error := deliver (faultEvent ⟨0, none⟩ s.eip) (if s.cfg.divideErrorKeepsFlags then (s.rollback t).drew
      else ((s.rollback t).drew).setStatus (undefAt t.free))
    exec (.div wide rm) s = (if d.toNat = 0 ∨ 2 ^ k.bits ≤ un / d.toNat then error
      else divided (BitVec.ofNat _ (un / d.toNat)) (BitVec.ofNat _ (un % d.toNat))) ∧
    exec (.idiv wide rm) s =
      (if d.toInt ≠ 0 ∧ -2 ^ (k.bits - 1) ≤ sn.tdiv d.toInt ∧ sn.tdiv d.toInt < 2 ^ (k.bits - 1)
       then divided (BitVec.ofInt _ (sn.tdiv d.toInt)) (BitVec.ofInt _ (sn.tmod d.toInt)) else error)

/-- DAA, DAS, AAA, AAS, AAD, and AAM with a divisor that is not 0: AL, AH and the flags the rules define; the rest of
EAX stays; the flags they leave undefined are free values (R396 to R401, D36 to D38). AAM with a divisor of 0 is #DE,
with every register as before, and its flags as before or free, by the parameter of DIV's (R400, D38, R675). Where AAS
adjusts nothing, AL stays, as R399's operation says, or its upper half is cleared, as D37 says: a parameter, the model's
choice for two sentences of the spec that differ, assumption log 53. -/
def Obligations.DecimalAdjust : Prop :=
  (∀ (s : State) (i : BitVec 8), s.pfx.lock = false →
    let al : BitVec 8 := s.reg .b .eax
    let ah : BitVec 8 := s.reg .b .esp
    let u := undefAt s.free
    let low : Bool := decide (9 < al.toNat % 16) || s.status.af
    let high : Bool := decide (0x99 < al.toNat) || s.status.cf
    let plus : BitVec 8 := al + (if low then 6 else 0) + (if high then 0x60 else 0)
    let minus : BitVec 8 := al - (if low then 6 else 0) - (if high then 0x60 else 0)
    let put := fun (l h : BitVec 8) (f : Status) =>
      completes s (((s.drew.setReg .b .eax l).setReg .b .esp h).setStatus f)
    exec .daa s = put plus ah { u with af := low, cf := high, sf := plus.msb, zf := plus == 0, pf := parity8 plus } ∧
    exec .das s =
      put minus ah { u with af := low, cf := high, sf := minus.msb, zf := minus == 0, pf := parity8 minus } ∧
    exec .aaa s = put ((al + (if low then 6 else 0)) &&& 0x0F) (ah + (if low then 1 else 0))
      { u with af := low, cf := low } ∧
    exec .aas s = put (if low then (al - 6) &&& 0x0F else if s.cfg.aasKeepsAl then al else al &&& 0x0F) (ah - (if low then 1 else 0))
      { u with af := low, cf := low } ∧
    exec (.aad i) s = put (al + i * ah) 0
      { u with sf := (al + i * ah).msb, zf := al + i * ah == 0, pf := parity8 (al + i * ah) } ∧
    (i ≠ 0 → exec (.aam i) s = put (al % i) (al / i)
      { u with sf := (al % i).msb, zf := al % i == 0, pf := parity8 (al % i) })) ∧
  (∀ s : State, s.pfx.lock = false →
    ∃ f : Status, f.sf = s.status.sf ∧ f.zf = s.status.zf ∧ f.pf = s.status.pf ∧
      exec (.aam 0) s = deliver (faultEvent ⟨0, none⟩ s.eip)
        (if s.cfg.divideErrorKeepsFlags then s.drew else s.drew.setStatus f))

/-! ## Logic, shifts, bits -/

/-- AND, OR, XOR in every form: the result at the destination, CF and OF cleared, SF, ZF and PF of the result, AF a free
value (R420 to R423). TEST in every form, aliases among them: the flags of the AND; nothing is stored (R425). -/
def Obligations.LogicResult : Prop :=
  (∀ (f : AluForm) (s t : State) (p : Place) (a b : Val (f.width s)),
    (s.pfx.lock = true → f.lockable = true) → f.reads s true p a b t →
    exec (.and_ f) s = completes s (p.put _ (a &&& b) (t.logic (a &&& b))) ∧
    exec (.or_ f) s = completes s (p.put _ (a ||| b) (t.logic (a ||| b))) ∧
    exec (.xor_ f) s = completes s (p.put _ (a ^^^ b) (t.logic (a ^^^ b)))) ∧
  (∀ (s t : State) (p : Place) (rm : RM) (r : Reg) (wide isAlias : Bool) (i : Imm) (i8 : BitVec 8),
    s.pfx.lock = false →
    (∀ a, s.operand (s.width wide) rm false p a t →
      exec (.test (.rmReg wide rm r)) s = completes s (t.logic (a &&& s.reg (s.width wide) r))) ∧
    (∀ a : BitVec 8, s.operand .b rm false p a t →
      exec (.test (.rmImm8 isAlias rm i8)) s = completes s (t.logic (a &&& i8))) ∧
    (∀ a, s.operand s.ow rm false p a t →
      exec (.test (.rmImm isAlias rm i)) s = completes s (t.logic (a &&& i.val s.ow))) ∧
    (let al : BitVec 8 := s.reg .b .eax
     exec (.test (.alImm i8)) s = completes s (s.logic (al &&& i8))) ∧
    exec (.test (.axImm i)) s = completes s (s.logic (s.reg s.ow .eax &&& i.val s.ow)))

/-- Repeating the one-bit steps of R441 rotates and shifts as a whole: by the count modulo the width for ROL and ROR,
modulo one more than the width through CF for RCL and RCR, and by the count for SHL, SHR and SAR, CF being the last bit
out (R443 to R450). -/
def Obligations.ShiftsAsAWhole : Prop :=
  ∀ (n : Nat) (x : BitVec n) (cf : Bool) (c : Nat), 1 < n →
    (shiftBy rolStep c (x, cf)).1 = x.rotateLeft (c % n) ∧
    (shiftBy rorStep c (x, cf)).1 = x.rotateRight (c % n) ∧
    (let r := shiftBy rclStep c (x, cf)
     (BitVec.ofBool r.2 ++ r.1 : BitVec (1 + n)) = (BitVec.ofBool cf ++ x : BitVec (1 + n)).rotateLeft (c % (n + 1))) ∧
    (let r := shiftBy rcrStep c (x, cf)
     (BitVec.ofBool r.2 ++ r.1 : BitVec (1 + n)) = (BitVec.ofBool cf ++ x : BitVec (1 + n)).rotateRight (c % (n + 1))) ∧
    (shiftBy shlStep c (x, cf)).1 = x <<< c ∧ (shiftBy shrStep c (x, cf)).1 = x >>> c ∧
    (shiftBy sarStep c (x, cf)).1 = x.sshiftRight c ∧
    (0 < c → c ≤ n → (shiftBy shlStep c (x, cf)).2 = x.getLsbD (n - c)) ∧
    (0 < c → (shiftBy shrStep c (x, cf)).2 = x.getLsbD (c - 1)) ∧
    (0 < c → c ≤ n → (shiftBy sarStep c (x, cf)).2 = x.getLsbD (c - 1)) ∧
    (0 < c → (shiftBy rolStep c (x, cf)).2 = (x.rotateLeft (c % n)).getLsbD 0) ∧
    (0 < c → (shiftBy rorStep c (x, cf)).2 = (x.rotateRight (c % n)).msb)

/-- ROL, ROR, RCL, RCR in every form: a count of 0 writes the operand back and changes no flag; otherwise CF is the last
step's, OF of a single step says whether the sign bit differs from CF and is a free value else, and the other flags stay
(R441 to R446, D39, D40). SHL (SAL, and its alias), SHR, SAR: CF is the last bit out, SF, ZF and PF of the result, AF a
free value, OF of a single step the change of sign, the old sign bit, or 0, and a free value else (R447 to R450). -/
def Obligations.ShiftRotateResult : Prop :=
  (∀ (wide : Bool) (rm : RM) (n : ShiftCount) (s t : State) (p : Place) (a : Val (s.width wide)),
    s.pfx.lock = false → s.operand (s.width wide) rm true p a t →
    let c := shiftCount s n
    let result := fun (r : Val (s.width wide)) (cf : Bool) =>
      if c = 0 then completes s (p.put _ a t)
      else completes s (p.put _ r (t.drew.setStatus
        { s.status with cf := cf, of := if c = 1 then r.msb != cf else (undefAt t.free).of }))
    let r1 := shiftBy rolStep c (a, s.status.cf)
    let r2 := shiftBy rorStep c (a, s.status.cf)
    let r3 := shiftBy rclStep c (a, s.status.cf)
    let r4 := shiftBy rcrStep c (a, s.status.cf)
    exec (.rol wide rm n) s = result r1.1 r1.2 ∧ exec (.ror wide rm n) s = result r2.1 r2.2 ∧
    exec (.rcl wide rm n) s = result r3.1 r3.2 ∧ exec (.rcr wide rm n) s = result r4.1 r4.2) ∧
  (∀ (al wide : Bool) (rm : RM) (n : ShiftCount) (s t : State) (p : Place) (a : Val (s.width wide)),
    s.pfx.lock = false → s.operand (s.width wide) rm true p a t →
    let c := shiftCount s n
    let result := fun (x : Val (s.width wide) × Bool) (of : Bool) =>
      if c = 0 then completes s (p.put _ a t)
      else completes s (p.put _ x.1 (t.drew.setStatus
        { cf := x.2, pf := parity8 x.1, af := (undefAt t.free).af, zf := x.1 == 0, sf := x.1.msb,
          of := if c = 1 then of else (undefAt t.free).of }))
    exec (.shl al wide rm n) s = result (shiftBy shlStep c (a, s.status.cf)) (a.msb != (a <<< 1).msb) ∧
    exec (.shr wide rm n) s = result (shiftBy shrStep c (a, s.status.cf)) a.msb ∧
    exec (.sar wide rm n) s = result (shiftBy sarStep c (a, s.status.cf)) false)

/-- SHLD and SHRD: the operand shifted by the count, bits of the register shifted in, CF the last bit out, for counts 1
to the width; result and flags free values beyond it (a 16-bit operand); a count of 0 writes the operand back and
changes no flag (R451, R452, D39, D41, U4). -/
def Obligations.DoubleShiftResult : Prop :=
  ∀ (rm : RM) (r : Reg) (n : DoubleCount) (s t : State) (p : Place) (a : Val s.ow),
    s.pfx.lock = false → s.operand s.ow rm true p a t →
    let c := doubleCount s n
    let b := s.reg s.ow r
    let w := s.ow.bits
    let result := fun (x : Val s.ow) (cf : Bool) =>
      if c = 0 then completes s (p.put _ a t)
      else if c ≤ w then completes s (p.put _ x (t.drew.setStatus
        { undefAt t.free with cf := cf, pf := parity8 x, zf := x == 0, sf := x.msb }))
      else completes s (p.put s.ow ((Config.undefDword (t.free + 1)).setWidth s.ow.bits)
        (t.drew.drew.setStatus (undefAt t.free)))
    exec (.shld rm r n) s = result (a <<< c ||| b >>> (w - c)) (a.getLsbD (w - c)) ∧
    exec (.shrd rm r n) s = result (a >>> c ||| b <<< (w - c)) (a.getLsbD (c - 1))

/-- BT, BTS, BTR, BTC: CF is the selected bit, the other status flags free values; BTS sets it, BTR clears it, BTC
complements it, BT writes nothing (R471 to R476, U1). Where the bit is: in a register, the index modulo the width; in
memory with a register index, bit i of the unit at EA + width/8 · floor(index / width), the index signed (R471, R472,
D42). BSF and BSR: the number of the lowest or highest bit that is 1, ZF cleared; a source of 0 sets ZF and leaves the
destination; the other status flags are free values (R477, R478, U1). -/
def Obligations.BitResult : Prop :=
  (((∀ (f : BitForm) (s t : State) (p : Place) (pos : Nat),
    s.pfx.lock = false → bitSelect s.ow false f s = .ok (p, pos) t →
    let v := p.value s.ow t
    exec (.bt f) s = completes s ((p.seen t).drew.setStatus
      { undefAt (p.seen t).free with cf := v.getLsbD pos })) ∧
  (∀ (f : BitForm) (s t : State) (p : Place) (pos : Nat),
    (s.pfx.lock = true → f.lockable = true) → bitSelect s.ow true f s = .ok (p, pos) t →
    let v := p.value s.ow t
    let m : Val s.ow := 1 <<< pos
    let result := fun x : Val s.ow =>
      let u := p.put s.ow x (p.seen t)
      completes s (u.drew.setStatus { undefAt u.free with cf := v.getLsbD pos })
    exec (.bts f) s = result (v ||| m) ∧ exec (.btr f) s = result (v &&& ~~~ m) ∧
    exec (.btc f) s = result (v ^^^ m))) ∧
  ((∀ (s : State) (k : Width) (w : Bool) (r i : Reg),
    bitSelect k w (.rmReg (.reg r) i) s = .ok (.reg r, (s.reg k i).toNat % k.bits) s) ∧
  (∀ (s t : State) (k : Width) (w : Bool) (m : MemOp) (i : Reg) (r : Ref),
    let idx := (s.reg k i).toInt
    let ea := m.ea s.regs + BitVec.ofInt 32 (idx / k.bits * k.bytes)
    prepare (s.segFor m.defaultSeg) (if m.is32 then ea else ea &&& 0xFFFF) k.bytes w s = .ok r t →
    bitSelect k w (.rmReg (.mem m) i) s = .ok (.mem r, (idx % k.bits).toNat) t) ∧
  (∀ (s t : State) (k : Width) (w : Bool) (rm : RM) (i : BitVec 8) (p : Place),
    locate k rm w s = .ok p t → bitSelect k w (.rmImm rm i) s = .ok (p, i.toNat % k.bits) t))) ∧
  (∀ (r : Reg) (rm : RM) (s t : State) (p : Place) (v : Val s.ow),
    s.pfx.lock = false → s.operand s.ow rm false p v t →
    let u := t.drew.setStatus { undefAt t.free with zf := v == 0 }
    (v = 0 → exec (.bsf r rm) s = completes s u ∧ exec (.bsr r rm) s = completes s u) ∧
    (∀ i, i < s.ow.bits → v.getLsbD i = true →
      ((∀ j, j < i → v.getLsbD j = false) →
        exec (.bsf r rm) s = completes s (u.setReg s.ow r (BitVec.ofNat _ i))) ∧
      ((∀ j, i < j → v.getLsbD j = false) →
        exec (.bsr r rm) s = completes s (u.setReg s.ow r (BitVec.ofNat _ i)))))

/-! ## Data movement -/

/-- MOV in every general form: the source at the destination, no flag changed (R320 to R324). MOVZX and MOVSX: the byte
or word source extended to the operand size (R325, R326). -/
def Obligations.MovResult : Prop :=
  (∀ (s t : State) (p : Place) (x : Ref) (rm : RM) (r : Reg) (wide : Bool) (off i : Imm) (i8 : BitVec 8),
    s.pfx.lock = false →
    let k := s.width wide
    (locate k rm true s = .ok p t → exec (.mov (.rmReg wide rm r)) s = completes s (p.put k (s.reg k r) t)) ∧
    (∀ a, s.operand k rm false p a t → exec (.mov (.regRm wide r rm)) s = completes s (t.setReg k r a)) ∧
    (prepare (s.segFor .ds) off.zext k.bytes false s = .ok x t →
      exec (.mov (.accMoff wide off)) s = completes s ((x.seen t).setReg k .eax (BitVec.ofNat _ (x.value t)))) ∧
    (prepare (s.segFor .ds) off.zext k.bytes true s = .ok x t →
      exec (.mov (.moffAcc wide off)) s = completes s (x.stored (s.reg k .eax).toNat t)) ∧
    exec (.mov (.regImm8 r i8)) s = completes s (s.setReg .b r i8) ∧
    exec (.mov (.regImm r i)) s = completes s (s.setReg s.ow r (i.val s.ow)) ∧
    (locate .b rm true s = .ok p t → exec (.mov (.rmImm8 rm i8)) s = completes s (p.put .b i8 t)) ∧
    (locate s.ow rm true s = .ok p t → exec (.mov (.rmImm rm i)) s = completes s (p.put s.ow (i.val s.ow) t))) ∧
  (∀ (wide : Bool) (r : Reg) (rm : RM) (s t : State) (p : Place) (v : Val (extendFrom wide)),
    s.pfx.lock = false → s.operand (extendFrom wide) rm false p v t →
    exec (.movzx wide r rm) s = completes s (t.setReg s.ow r (BitVec.ofNat _ v.toNat)) ∧
    exec (.movsx wide r rm) s = completes s (t.setReg s.ow r (BitVec.ofInt _ v.toInt)))

/-- XCHG in every form exchanges its operands, with memory in either role of a write; NOP changes nothing (R337,
R338). -/
def Obligations.ExchangeResult : Prop :=
  (∀ (wide : Bool) (rm : RM) (r : Reg) (s t : State) (p : Place) (a : Val (s.width wide)),
    (s.pfx.lock = true → rm.isReg = false) → s.operand (s.width wide) rm true p a t →
    exec (.xchg (.rmReg wide rm r)) s = completes s ((p.put (s.width wide) (s.reg _ r) t).setReg (s.width wide) r a)) ∧
  (∀ (r : Reg) (s : State), s.pfx.lock = false →
    exec (.xchg (.acc r)) s = completes s ((s.setReg s.ow .eax (s.reg s.ow r)).setReg s.ow r (s.reg s.ow .eax)) ∧
    exec .nop s = completes s s)

/-- CBW, CWDE, CWD, CDQ: which of them opcodes 98 and 99 are by the operand size; the sign extension they write; every
other register bit, and every flag, as it was; under LOCK #UD (R339 to R342). -/
def Obligations.ConvertAccumulator : Prop :=
  (∀ (as32 : Bool) (rest : List Byte),
    decode ⟨false, as32⟩ (0x98 :: rest) = some (.cbw, rest) ∧ decode ⟨true, as32⟩ (0x98 :: rest) = some (.cwde, rest) ∧
    decode ⟨false, as32⟩ (0x99 :: rest) = some (.cwd, rest) ∧
    decode ⟨true, as32⟩ (0x99 :: rest) = some (.cdq, rest)) ∧
  (∀ s : State, s.pfx.lock = false →
    let eax := s.regs.eax
    let edx := s.regs.edx
    exec .cbw s = completes s { s with regs := { s.regs with
      eax := eax.extractLsb' 16 16 ++ (eax.extractLsb' 0 8).signExtend 16 } } ∧
    exec .cwde s = completes s { s with regs := { s.regs with eax := (eax.extractLsb' 0 16).signExtend 32 } } ∧
    exec .cwd s = completes s { s with regs := { s.regs with
      edx := edx.extractLsb' 16 16 ++ (if eax.getLsbD 15 then 0xFFFF#16 else 0#16) } } ∧
    exec .cdq s = completes s { s with regs := { s.regs with
      edx := if eax.getLsbD 31 then 0xFFFFFFFF#32 else 0#32 } }) ∧
  (∀ s : State, s.pfx.lock = true → ∀ i, i = .cbw ∨ i = .cwde ∨ i = .cwd ∨ i = .cdq → exec i s = faults s 6 none)

/-- PUSH in every form stores the operand below the stack pointer, which moves down by its size; a memory operand and
the stack are both checked before it is read; PUSHF the flags as they stand; PUSH sreg the selector, the upper word of a
doubleword a free value (R327 to R332, R581, R588, U5). POP moves the stack pointer up before the destination's address
is formed, so that an address formed from (E)SP uses the new value, and checks stack and destination before the stack is
read; POPF writes the flags the level may write; POP sreg loads the register and, for SS, starts the interrupt shadow
(R330, R331, R336, R582, R589, R592, D34, D52). That both operands are checked before the first is read, where R327 and
R330 only write the read first, is read from the last sentence of 22_paging.md R224: the model's reading, assumption log
37. -/
def Obligations.StackResult : Prop :=
  (∀ (s t : State) (x : Ref), s.pfx.lock = false →
    let n := s.ow.bytes
    (prepare .ss (s.below n) n true s = .ok x t →
      let pushed := fun v : Nat => completes s ((x.stored v t).setSp (s.below n))
      (∀ r : Reg, exec (.push (.reg r)) s = pushed (s.reg s.ow r).toNat) ∧
      (∀ i : Imm, exec (.push (.imm i)) s = pushed (i.val s.ow).toNat) ∧
      (∀ i : BitVec 8, exec (.push (.imm8 i)) s = pushed (sextByte i s.ow).toNat) ∧
      (s.v86 = false ∨ s.iopl = 3 → exec .pushf s = pushed (s.eflags.toNat % 256 ^ n))) ∧
    (∀ (rm : RM) (p : Place) (u : State), locate s.ow rm false s = .ok p u → prepare .ss (s.below n) n true u = .ok x t →
      exec (.push (.rmOp rm)) s = completes s ((x.stored (p.value s.ow t).toNat (p.seen t)).setSp (s.below n))) ∧
    (∀ k : Sreg, prepare .ss (s.below n) n true (if s.os32 then s.drew else s) = .ok x t →
      let sel := (s.segs.get k).sel
      let v : Nat := if s.os32 then ((Config.undefDword s.free).extractLsb' 16 16 ++ sel : BitVec 32).toNat
        else sel.toNat
      exec (.pushSreg k) s = completes s ((x.stored v t).setSp (s.below n)))) ∧
  (∀ (s t : State) (x : Ref), s.pfx.lock = false →
    let n := s.ow.bytes
    prepare .ss s.sp n false s = .ok x t →
    let v := x.value t
    let u := (x.seen t).setSp (s.above n)
    (∀ r : Reg, exec (.pop (.reg r)) s = completes s (u.setReg s.ow r (BitVec.ofNat _ v))) ∧
    (∀ (rm : RM) (p : Place) (u' : State), locate s.ow rm true (t.setSp (s.above n)) = .ok p u' →
      exec (.pop (.rmOp rm)) s = completes s (p.put s.ow (BitVec.ofNat _ (x.value u')) (x.seen u'))) ∧
    (s.v86 = false ∨ s.iopl = 3 →
      let mask : Dword := 0x4DD5 ||| (if s.level.toNat ≤ s.iopl.toNat then 0x200 else 0)
        ||| (if s.level = 0 then 0x3000 else 0)
      exec .popf s = completes s
        { u with eflags := (s.eflags &&& ~~~ mask) ||| (BitVec.ofNat 32 v &&& mask) }) ∧
    (∀ (k : Sreg) (u' : State), k ≠ .cs → loadSeg k (BitVec.ofNat 16 v) u = .ok () u' →
      exec (.popSreg k) s = completes s (u'.shadowed k)))

/-- PUSHA stores the eight registers, (E)SP as it was at the beginning; POPA loads seven and discards the item of (E)SP;
every item is checked before anything is stored or loaded (R334, R335). Several pushes prepared together: each item goes
right below the one before it, nothing is stored, and the stack pointer ends below the last (R332, R114). The reads of a
return: all are checked, each at its distance above the stack pointer, before the first is made (R336): the
model's reading of the last sentence of 22_paging.md R224, assumption log 37. -/
def Obligations.PushAllPopAll : Prop :=
  ((∀ (s t : State) (l : List (Ref × Nat)) (sp : Dword), s.pfx.lock = false →
    let item := fun r : Reg => (s.ow.bytes, (s.reg s.ow r).toNat)
    preparePushes s.segs.ss 0 s.user s.sp [item .eax, item .ecx, item .edx, item .ebx, item .esp, item .ebp, item .esi,
      item .edi] s = .ok (l, sp) t →
    exec .pusha s = completes s ((storedAll l t).setSp sp)) ∧
  (∀ (s t : State) (l : List Ref), s.pfx.lock = false → preparePops s.ow.bytes 8 s.sp s = .ok l t →
    let v := fun i => BitVec.ofNat s.ow.bits ((readAllAt l t).1.getD i 0)
    exec .popa s = completes s
      (((((((((readAllAt l t).2.setReg s.ow .edi (v 0)).setReg s.ow .esi (v 1)).setReg s.ow .ebp (v 2)).setReg s.ow .ebx
        (v 4)).setReg s.ow .edx (v 5)).setReg s.ow .ecx (v 6)).setReg s.ow .eax (v 7)).setSp
          (s.above (8 * s.ow.bytes))))) ∧
  (∀ (ss : SegReg) (code : BitVec 16) (user : Bool) (sp spEnd : Dword) (items : List (Nat × Nat)) (s t : State)
    (l : List (Ref × Nat)), items ≠ [] → preparePushes ss code user sp items s = .ok (l, spEnd) t →
    let bytes := fun i => ((items.take i).map Prod.fst).sum
    l.map Prod.snd = items.map Prod.snd ∧ t.mem = s.mem ∧ t.regs = s.regs ∧
    spEnd = spAdd ss.attr.db sp (0 - BitVec.ofNat 32 (bytes items.length)) ∧
    ∀ i (h : i < l.length),
      l[i].1.lin = ss.base + spAdd ss.attr.db sp (0 - BitVec.ofNat 32 (bytes (i + 1))) ∧
      ∀ h' : i < items.length, l[i].1.n = items[i].1) ∧
  (∀ (sp : Dword) (n : Nat) (ks : List Nat) (s t : State) (l : List Ref), prepareStack sp n ks s = .ok l t →
    stackReads sp n ks s = .ok (readAllAt l t).1 (readAllAt l t).2 ∧ l.length = ks.length ∧ t.mem = s.mem ∧
    t.regs = s.regs ∧ ∀ i (h : i < l.length) (h' : i < ks.length),
      l[i].lin = s.segs.ss.base + spAdd s.segs.ss.attr.db sp (BitVec.ofNat 32 ks[i]) ∧ l[i].n = n)

/-- LEA writes the effective address cut or extended to the operand size and touches no memory; XLATB loads AL from
(E)BX plus AL (R643, R645); LEA of a register is #UD (R275). The effective address of every form: with AS = 16 the sum
of base, index and displacement modulo 2^16, the displacement none, a sign-extended byte or a word; with AS = 32 base
plus index shifted by the scale plus displacement, modulo 2^32, the displacement none, a sign-extended byte or a
doubleword, an index of 100 being none (R270 to R273, D30). Its default segment: SS when BP, EBP or ESP is the base,
else DS (R271 to R273). -/
def Obligations.AddressResult : Prop :=
  (∀ (s : State) (r q : Reg) (m : MemOp), s.pfx.lock = false →
    exec (.lea r (.mem m)) s = completes s (s.setReg s.ow r ((m.ea s.regs).setWidth _)) ∧
    exec (.lea r (.reg q)) s = faults s 6 none ∧
    (∀ (x : Ref) (t : State),
      let al : BitVec 8 := s.reg .b .eax
      let ea := (s.reg s.aw .ebx).setWidth 32 + al.setWidth 32
      prepare (s.segFor .ds) (if s.as32 then ea else ea &&& 0xFFFF) 1 false s = .ok x t →
      exec .xlatb s = completes s ((x.seen t).setReg .b .eax (BitVec.ofNat 8 (x.value t))))) ∧
  (∀ (g : Regs) (d : Disp16) (d16 : BitVec 16),
    let k := match d with
      | .none => 0
      | .d8 v => (v.signExtend 16).toNat
      | .d16 v => v.toNat
    let sum := fun a b : Dword => BitVec.ofNat 32 ((a.toNat + b.toNat + k) % 65536)
    (MemOp.base16 .bxsi d).ea g = sum g.ebx g.esi ∧ (MemOp.base16 .bxdi d).ea g = sum g.ebx g.edi ∧
    (MemOp.base16 .bpsi d).ea g = sum g.ebp g.esi ∧ (MemOp.base16 .bpdi d).ea g = sum g.ebp g.edi ∧
    (MemOp.base16 .si d).ea g = sum g.esi 0 ∧ (MemOp.base16 .di d).ea g = sum g.edi 0 ∧
    (MemOp.base16 .bp d).ea g = sum g.ebp 0 ∧ (MemOp.base16 .bx d).ea g = sum g.ebx 0 ∧
    (MemOp.abs16 d16).ea g = BitVec.ofNat 32 d16.toNat ∧ (MemOp.abs16 d16).defaultSeg = .ds ∧
    ∀ b, (MemOp.base16 b d).defaultSeg = if b = .bpsi ∨ b = .bpdi ∨ b = .bp then .ss else .ds) ∧
  (∀ (g : Regs) (b i : Reg) (sc : BitVec 2) (d : Disp32) (d32 : Dword),
    let k : Dword := match d with
      | .none => 0
      | .d8 v => v.signExtend 32
      | .d32 v => v
    let scaled := g.get i * BitVec.ofNat 32 (2 ^ sc.toNat)
    let seg := if b = .esp ∨ b = .ebp then Sreg.ss else .ds
    (MemOp.abs32 d32).ea g = d32 ∧ (MemOp.base32 b d).ea g = g.get b + k ∧
    (i ≠ .esp → (MemOp.sib sc i b d).ea g = g.get b + scaled + k ∧ (MemOp.sibAbs sc i d32).ea g = scaled + d32) ∧
    (MemOp.sib sc .esp b d).ea g = g.get b + k ∧ (MemOp.sibAbs sc .esp d32).ea g = d32 ∧
    (MemOp.abs32 d32).defaultSeg = .ds ∧ (MemOp.base32 b d).defaultSeg = seg ∧
    (MemOp.sib sc i b d).defaultSeg = seg ∧ (MemOp.sibAbs sc i d32).defaultSeg = .ds)

/-- ENTER builds the frame and LEAVE takes it down: the old frame pointer stored, the display copied, pointer by
pointer, from below (E)BP to below the new frame, the new frame pointer stored for a level above 0, (E)BP at the frame,
with EBP itself counted down by the copies on a 32-bit stack, the stack pointer below the locals (R641, R642, D60). What
a 32-bit operand on a 16-bit stack makes of the upper half, EBP and the frame pointer stored being SP with zeros above
it, is the model's choice, assumption log 48: R641 and D60 leave it open. BOUND: an index inside both bounds, read as
signed numbers, completes and changes no register; one outside raises exception 5; a register operand is #UD (R640,
R275, D59). That both bounds are checked before either is read is the model's reading of the last sentence of
22_paging.md R224, assumption log 37. -/
def Obligations.FrameResult : Prop :=
  ((∀ (size : BitVec 16) (level : BitVec 8) (s t1 t2 : State) (first : Ref) (display : List FrameStep)
      (bpEnd sp : Dword),
    s.pfx.lock = false →
    let n := s.ow.bytes
    let big := s.segs.ss.attr.db
    let frame := s.below n
    let lv := level.toNat % 32
    let bp : Dword := if big then s.regs.ebp else s.regs.ebp &&& 0xFFFF
    let old := FrameStep.store first (s.reg s.ow .ebp).toNat
    let built := fun (u : State) (sp : Dword) => completes s
      (((if big then u.setReg .d .ebp bpEnd else u).setReg s.ow .ebp (frame.setWidth _)).setSp
        (spAdd big sp (0 - size.setWidth 32)))
    prepare .ss frame n true s = .ok first t1 →
    prepareDisplay big n (lv - 1) bp frame t1 = .ok (display, bpEnd, sp) t2 →
    (let moved := 0 - BitVec.ofNat 32 (n * (lv - 1))
     bpEnd = spAdd big bp moved ∧ sp = spAdd big frame moved ∧ display.length = lv - 1 ∧
     ∀ i, i < lv - 1 → ∃ src dst : Ref, display[i]? = some (.copy src dst) ∧ src.n = n ∧ dst.n = n ∧
       src.lin = s.segs.ss.base + spAdd big bp (0 - BitVec.ofNat 32 ((i + 1) * n)) ∧
       dst.lin = s.segs.ss.base + spAdd big frame (0 - BitVec.ofNat 32 ((i + 1) * n))) ∧
    (lv = 0 → exec (.enter size level) s = built (framed [old] t2) frame) ∧
    (∀ (last : Ref) (t3 : State),
      let top := spAdd big sp (0 - BitVec.ofNat 32 n)
      lv ≠ 0 → prepare .ss top n true t2 = .ok last t3 →
      exec (.enter size level) s =
        built (framed (old :: display ++ [FrameStep.store last (frame.toNat % 256 ^ n)]) t3) top)) ∧
  (∀ (s t : State) (x : Ref), s.pfx.lock = false →
    let n := s.ow.bytes
    let bp : Dword := if s.segs.ss.attr.db then s.regs.ebp else s.regs.ebp &&& 0xFFFF
    prepare .ss bp n false s = .ok x t →
    exec .leave s = completes s (((x.seen t).setSp (spAdd s.segs.ss.attr.db bp (BitVec.ofNat 32 n))).setReg s.ow .ebp
      (BitVec.ofNat _ (x.value t))))) ∧
  (∀ (r q : Reg) (m : MemOp) (s t1 t2 : State) (lo hi : Ref), s.pfx.lock = false →
    let n := s.ow.bytes
    let seg := s.segFor m.defaultSeg
    exec (.bound r (.reg q)) s = faults s 6 none ∧
    (prepare seg (m.ea s.regs) n false s = .ok lo t1 →
      prepare seg (eaAdd m.is32 (m.ea s.regs) (BitVec.ofNat 32 n)) n false t1 = .ok hi t2 →
      let low := (BitVec.ofNat s.ow.bits (lo.value t2)).toInt
      let high := (BitVec.ofNat s.ow.bits (hi.value (lo.seen t2))).toInt
      let i := (s.reg s.ow r).toInt
      exec (.bound r (.mem m)) s = if low ≤ i ∧ i ≤ high then completes s (hi.seen (lo.seen t2))
        else deliver (faultEvent ⟨5, none⟩ s.eip) (s.rollback (hi.seen (lo.seen t2)))))

/-! ## Input, output, strings -/

/-- Whether a port may be used: always in real mode, and in protected mode at CPL ≤ IOPL; else, and always in
virtual-8086 mode, when the bits of the permission map of a 32-bit TSS allow it, read at TSS + map base + port/8; else
#GP(0). (R360, R361, R363). That a TSS too short for the word at 66h that locates the map is #GP(0) too is the model's
choice, assumption log 51: R363 has no test there and R182 speaks of #TS. The map is read with paging off here. -/
def Obligations.IoPermission : Prop :=
  ∀ (s : State) (port : BitVec 16) (n : Nat), 0 < n → n ≤ 4 →
    let limit := s.tr.limit.toNat
    let refused := fun u : State => EStateM.Result.error (Stop.exc ⟨13, some 0⟩) u
    (s.pe = false → ioCheck port n s = .ok () s) ∧
    (s.prot = true → s.cpl.toNat ≤ s.iopl.toNat → ioCheck port n s = .ok () s) ∧
    (s.pe = true → (s.vm = true ∨ s.iopl.toNat < s.cpl.toNat) → s.tr.attr.e = false ∨ limit < 0x67 →
      ioCheck port n s = refused s) ∧
    (s.pe = true → (s.vm = true ∨ s.iopl.toNat < s.cpl.toNat) → s.tr.attr.e = true → 0x67 ≤ limit → s.pg = false →
      let u := s.bus (s.tr.base + 0x66) 2
      let base := (s.phys (s.tr.base + 0x67) ++ s.phys (s.tr.base + 0x66)).toNat
      let at_ := base + port.toNat / 8
      let place := s.tr.base + BitVec.ofNat 32 at_
      let map := u.phys (place + 1) ++ u.phys place
      ioCheck port n s =
        if limit < at_ + 1 then refused u
        else if ∀ j, j < n → map.getLsbD (port.toNat % 8 + j) = false then .ok () (u.bus place 2)
        else refused (u.bus place 2))

/-- IN and OUT of an immediate port or DX, once the port may be used: the accumulator receives what the port gives, a
free value, or goes out; no flag changes (R365, R366, R107, D13). One element of INS and OUTS, byte or operand-size,
without a repeat prefix: every check first, then the port, then the index moves by the element's size, up or down by DF
(R367 to R369, R490, D35). -/
def Obligations.PortResult : Prop :=
  (∀ (f : PortForm) (s t : State), s.pfx.lock = false →
    let k := (s.portOf f).1
    let port := (s.portOf f).2
    ioCheck port k.bytes s = .ok () t →
    exec (.in_ f) s = completes s ((t.portRead k port).2.setReg k .eax (t.portRead k port).1) ∧
    exec (.out f) s = completes s (t.portWrite k port (s.reg k .eax))) ∧
  (∀ (s t1 t2 : State) (x : Ref), s.pfx.lock = false → s.pfx.rep = none →
    let port : BitVec 16 := s.reg .w .edx
    (∀ k i j, (k = .b ∧ i = .insb ∧ j = .outsb) ∨ (k = s.ow ∧ i = .insv ∧ j = .outsv) →
      ioCheck port k.bytes s = .ok () t1 →
      (prepare .es (s.index .edi) k.bytes true t1 = .ok x t2 →
        let r := t2.portRead k port
        exec i s = completes s ((x.stored r.1.toNat r.2).advance k.bytes .edi)) ∧
      (prepare (s.segFor .ds) (s.index .esi) k.bytes false t1 = .ok x t2 →
        exec j s = completes s
          (((x.seen t2).portWrite k port (BitVec.ofNat _ (x.value t2))).advance k.bytes .esi))))

/-- One element of MOVS, STOS, LODS, CMPS, SCAS, byte or operand-size, without a repeat prefix: the element at DS:(E)SI,
the segment overridable, and at ES:(E)DI; the index registers move by the element's size; only CMPS and SCAS write the
status flags, of source or accumulator minus destination (R490, R492 to R496). That MOVS and CMPS check both places
before they read the first is the model's reading of 20_memory.md R114 and 22_paging.md R224, assumption log 37. -/
def Obligations.StringElement : Prop :=
  ∀ (s t1 t2 : State) (x y : Ref), s.pfx.lock = false → s.pfx.rep = none →
    ∀ k movs cmps stos lods scas,
      (k = .b ∧ movs = .movsb ∧ cmps = .cmpsb ∧ stos = .stosb ∧ lods = .lodsb ∧ scas = .scasb) ∨
      (k = s.ow ∧ movs = .movsv ∧ cmps = .cmpsv ∧ stos = .stosv ∧ lods = .lodsv ∧ scas = .scasv) →
      let acc := s.reg k .eax
      let v : Val k := BitVec.ofNat _ (x.value t2)
      (prepare (s.segFor .ds) (s.index .esi) k.bytes false s = .ok x t1 →
        (prepare .es (s.index .edi) k.bytes true t1 = .ok y t2 →
          exec movs s = completes s (((y.stored v.toNat (x.seen t2)).advance k.bytes .esi).advance k.bytes .edi)) ∧
        (prepare .es (s.index .edi) k.bytes false t1 = .ok y t2 →
          let w : Val k := BitVec.ofNat _ (y.value (x.seen t2))
          exec cmps s = completes s ((((y.seen (x.seen t2)).setStatus (subStatus v w false)).advance k.bytes
            .esi).advance k.bytes .edi)) ∧
        exec lods s = completes s (((x.seen t1).setReg k .eax (BitVec.ofNat _ (x.value t1))).advance k.bytes .esi)) ∧
      (prepare .es (s.index .edi) k.bytes true s = .ok y t1 →
        exec stos s = completes s ((y.stored acc.toNat t1).advance k.bytes .edi)) ∧
      (prepare .es (s.index .edi) k.bytes false s = .ok y t1 →
        exec scas s = completes s (((y.seen t1).setStatus (subStatus acc (BitVec.ofNat _ (y.value t1)) false)).advance
          k.bytes .edi))

/-- A repeated string instruction is one element a step: with (E)CX = 0 it completes and nothing happens; otherwise one
element, (E)CX less one, and it is done when (E)CX is 0 or, for CMPS and SCAS, ZF is not as the prefix wants; until then
EIP stays at the instruction, RF stays, a single step is recorded, and the interrupt shadow it began in stays (R510,
R511, R512, R843, R71, D43; that a step is one element, RF's stay and the shadow's are the model's reading, assumption
log 40), and the instruction stays the one in progress, with which the next step goes on. -/
def Obligations.RepeatStep : Prop :=
  ∀ (i : Instr) (s t : State) (compares : Bool) (elem : Op Unit) (whileEqual : Bool),
    stringOf s i = some (compares, elem) → s.pfx.lock = false → s.pfx.rep = some whileEqual →
    (s.countZero = true → exec i s = completes s s) ∧
    (s.countZero = false → elem s = .ok () t →
      let u := t.countDown
      exec i s = if u.countZero ∨ (compares = true ∧ u.status.zf ≠ whileEqual) then completes s u
        else .next { ({ u with nextEip := u.eip }.complete true (bit s.eflags 8)) with
            inhibit := u.held, again := u.again })

/-! ## Control transfer -/

/-- The sixteen conditional jumps: taken exactly when the condition on the flags holds, to next EIP plus displacement,
cut to 16 bits when OS = 16; a target beyond the CS limit is #GP(0) with nothing changed; a jump not taken changes
nothing (R520 to R524, D45). SETcc writes 1 or 0 to the byte operand by the same sixteen conditions and changes no flag
(R522, R539). LOOP, LOOPE, LOOPNE count (E)CX, chosen by the address size, down by one and jump while it is not 0 and ZF
is as wanted; JCXZ jumps when it is 0; a target beyond the CS limit is #GP(0) with (E)CX as before (R525 to R528,
D44). -/
def Obligations.ConditionResult : Prop :=
  ((∀ (s : State) (short : BitVec 8) (near : Imm), s.pfx.lock = false →
    let f := s.status
    let lt := f.sf != f.of
    let jumps := fun (f : JccForm → Instr) (c : Bool) (g : JccForm) (rel : Dword) =>
      let target := if s.os32 then s.nextEip + rel else (s.nextEip + rel) &&& 0xFFFF
      exec (f g) s = if c = false then completes s s
        else if target.toNat ≤ s.segs.cs.limit.toNat then completes s (s.jump target) else faults s 13 (some 0)
    ∀ i c, (i, c) ∈ [(Instr.jo, f.of), (.jno, !f.of), (.jb, f.cf), (.jnb, !f.cf), (.jz, f.zf), (.jnz, !f.zf),
      (.jbe, f.cf || f.zf), (.jnbe, !f.cf && !f.zf), (.js, f.sf), (.jns, !f.sf), (.jp, f.pf), (.jnp, !f.pf),
      (.jl, lt), (.jnl, !lt), (.jle, f.zf || lt), (.jnle, !f.zf && !lt)] →
      jumps i c (.short short) (short.signExtend 32) ∧ jumps i c (.near near) near.sext) ∧
  (∀ (s t : State) (rm : RM) (p : Place), s.pfx.lock = false → locate .b rm true s = .ok p t →
    let f := s.status
    let lt := f.sf != f.of
    ∀ i c, (i, c) ∈ [(Instr.seto, f.of), (.setno, !f.of), (.setb, f.cf), (.setnb, !f.cf), (.setz, f.zf),
      (.setnz, !f.zf), (.setbe, f.cf || f.zf), (.setnbe, !f.cf && !f.zf), (.sets, f.sf), (.setns, !f.sf),
      (.setp, f.pf), (.setnp, !f.pf), (.setl, lt), (.setnl, !lt), (.setle, f.zf || lt), (.setnle, !f.zf && !lt)] →
      exec (i rm) s = completes s (p.put .b (if c then 1 else 0) t))) ∧
  (∀ (s : State) (rel : BitVec 8), s.pfx.lock = false →
    let target := s.relTarget (rel.signExtend 32)
    let n := s.reg s.aw .ecx
    let goes := fun (taken : Bool) (t : State) => if taken = false then completes s t
      else if target.toNat ≤ s.segs.cs.limit.toNat then completes s (t.jump target) else faults s 13 (some 0)
    let counted := s.setReg s.aw .ecx (n - 1)
    exec (.loop rel) s = goes (n != 1) counted ∧
    exec (.loope rel) s = goes (n != 1 && s.status.zf) counted ∧
    exec (.loopne rel) s = goes (n != 1 && !s.status.zf) counted ∧
    exec (.jcxz rel) s = goes (n == 0) s)

/-- The near JMP, CALL and RET: a target within the CS limit is jumped to, CALL pushing the next EIP below the stack
pointer, RET popping it and releasing the bytes its operand names; a target beyond the limit is #GP(0) with nothing
changed or pushed (R521, R529, R530, R533, R534, R537, D46). -/
def Obligations.NearTransfer : Prop :=
  ∀ (s t : State) (x : Ref) (short : BitVec 8) (rel : Imm) (rm : RM) (p : Place) (a : Val s.ow)
    (k : Option (BitVec 16)), s.pfx.lock = false →
    let n := s.ow.bytes
    let limit := s.segs.cs.limit.toNat
    let near := s.relTarget rel.sext
    let ret := s.nextEip.toNat % 256 ^ n
    exec (.jmpNear (.short short)) s = (if (s.relTarget (short.signExtend 32)).toNat ≤ limit
      then completes s (s.jump (s.relTarget (short.signExtend 32))) else faults s 13 (some 0)) ∧
    exec (.jmpNear (.near rel)) s =
      (if near.toNat ≤ limit then completes s (s.jump near) else faults s 13 (some 0)) ∧
    (limit < near.toNat → exec (.callNear (.rel rel)) s = faults s 13 (some 0)) ∧
    (near.toNat ≤ limit → prepare .ss (s.below n) n true s = .ok x t →
      exec (.callNear (.rel rel)) s = completes s (((x.stored ret t).setSp (s.below n)).jump near)) ∧
    (∀ u, s.operand s.ow rm false p a u →
      let refused := deliver (faultEvent ⟨13, some 0⟩ s.eip) (s.rollback u)
      exec (.jmpNear (.rmOp rm)) s = (if a.toNat ≤ limit then completes s (u.jump (a.setWidth 32)) else refused) ∧
      (limit < a.toNat → exec (.callNear (.rmOp rm)) s = refused) ∧
      (a.toNat ≤ limit → prepare .ss (s.below n) n true u = .ok x t →
        exec (.callNear (.rmOp rm)) s = completes s (((x.stored ret t).setSp (s.below n)).jump (a.setWidth 32)))) ∧
    (prepare .ss (s.above 0) n false s = .ok x t →
      let target := BitVec.ofNat 32 (x.value t)
      let released := BitVec.ofNat 32 n + (match k with | none => 0 | some b => b.setWidth 32)
      exec (.retNear k) s = if target.toNat ≤ limit
        then completes s (((x.seen t).setSp (spAdd s.segs.ss.attr.db s.sp released)).jump target)
        else deliver (faultEvent ⟨13, some 0⟩ s.eip) (s.rollback (x.seen t)))

/-- Far JMP, CALL and RET outside protected mode: CS gets the selector and 16 times it as its base, EIP the offset,
which must lie within the CS limit, else #GP(0); CALL pushes CS and the next EIP, the upper word of a 32-bit selector
item a free value (R152, R153, R531, R532, R535, R538, R760, R765, R771, U5). The pointer: the two parts of a direct
one; in memory the offset, and the selector right behind it; a register is #UD (R275, R531, R532). That both parts of a
pointer, and both items of a RET, are checked before either is read is the model's reading of the last sentence of
22_paging.md R224, assumption log 37. -/
def Obligations.FarTransferReal : Prop :=
  (∀ (f : FarForm) (s t : State) (sel : BitVec 16) (off : Dword), s.pfx.lock = false → s.prot = false →
    let n := s.ow.bytes
    let limit := s.segs.cs.limit.toNat
    let refused := fun u : State => deliver (faultEvent ⟨13, some 0⟩ s.eip) (s.rollback u)
    let enters := fun (u : State) (sel : BitVec 16) (off : Dword) =>
      (u.setSeg .cs (s.realCs sel)).jump off
    (farPointer s f s = .ok (sel, off) t → limit < off.toNat →
      exec (.jmpFar f) s = refused t ∧ exec (.callFar f) s = refused t) ∧
    (farPointer s f s = .ok (sel, off) t → off.toNat ≤ limit →
      exec (.jmpFar f) s = completes s (enters t sel off) ∧
      (∀ l sp t',
        let t1 := if s.os32 then t.drew else t
        let cs : Nat := if s.os32 then ((Config.undefDword t.free).extractLsb' 16 16 ++ s.segs.cs.sel : BitVec 32).toNat
          else s.segs.cs.sel.toNat
        preparePushes s.segs.ss 0 s.user s.sp [(n, cs), (n, s.nextEip.toNat % 256 ^ n)] t1 = .ok (l, sp) t' →
        exec (.callFar f) s = completes s (enters ((storedAll l t').setSp sp) sel off))) ∧
    (∀ (ip cs : Nat) (t : State) (k : Option (BitVec 16)), stackReads s.sp n [0, n] s = .ok [ip, cs] t →
      exec (.retFar k) s = if (BitVec.ofNat 32 ip).toNat ≤ limit
        then completes s (enters (t.setSp (spAdd s.segs.ss.attr.db s.sp
            (BitVec.ofNat 32 (2 * n) + (match k with | none => 0 | some b => b.setWidth 32))))
          (BitVec.ofNat 16 cs) (BitVec.ofNat 32 ip))
        else refused t)) ∧
  (∀ (s t1 t2 : State) (off : Imm) (sel : BitVec 16) (m : MemOp) (r : Reg) (x y : Ref),
    farPointer s (.ptr off sel) s = .ok (sel, off.zext) s ∧
    farPointer s (.rmOp (.reg r)) s = .error (.exc ⟨6, none⟩) s ∧
    (prepare (s.segFor m.defaultSeg) (m.ea s.regs) s.ow.bytes false s = .ok x t1 →
      prepare (s.segFor m.defaultSeg) (eaAdd m.is32 (m.ea s.regs) (BitVec.ofNat 32 s.ow.bytes)) 2 false t1
        = .ok y t2 →
      farPointer s (.rmOp (.mem m)) s
        = .ok (BitVec.ofNat 16 (y.value (x.seen t2)), BitVec.ofNat 32 (x.value t2)) (y.seen (x.seen t2))))

/-- A far JMP in protected mode to a code segment: conforming code at or inside the level, other code at exactly the
level with RPL at most it, present, the offset within its limit; its accessed bit is set, CS gets the selector with RPL
= CPL and the descriptor, CPL stays. A null selector is #GP(0), one that names nothing, no code or gate or TSS, or a
segment of another privilege #GP(selector), a segment not present #NP(selector), an offset beyond the limit #GP(0), for
JMP and CALL alike (R758, R761, R766, D73). Through a call gate: the gate's privilege and presence, then its code
segment's; JMP and a CALL without a change of level enter its offset (R759, R762, R766); a CALL to an inner level
changes to the stack the TSS names, tests it, and leaves on it SS, (E)SP, the parameters in their order, CS and the next
EIP (R767, R781, D75); that the pages of the new stack are tested before the gate's offset and before the parameters are
read is the model's choice, assumption log 45. To a TSS or through a task gate: the tests of privilege and place, then
the task switch, whose end is the instruction's (R763, R764). A far RET takes a code selector with RPL at or outside the
level (R771, R772); at the same level EIP and CS come from the stack; to an outer level (E)SP and SS too, tested before
anything changes, and the data segment registers the outer level may not use become null (R773, R774, D76). That the
items of a return, the parts of a pointer and the parameters are each checked together before the first is read is the
model's reading of 22_paging.md R224, assumption log 37. -/
def Obligations.FarTransferProtected : Prop :=
  (∀ (f : FarForm) (s t u v : State) (sel : BitVec 16) (off : Dword) (d : Desc),
    s.pfx.lock = false → s.prot = true → farPointer s f s = .ok (sel, off) t →
    let refused := fun (v : Byte) (code : BitVec 16) (w : State) =>
      let o := deliver (faultEvent ⟨v, some code⟩ s.eip) (s.rollback w)
      exec (.jmpFar f) s = o ∧ exec (.callFar f) s = o
    let may := if d.isConforming then d.dpl.toNat ≤ s.cpl.toNat else d.dpl = s.cpl ∧ (rpl sel).toNat ≤ s.cpl.toNat
    (isNull sel = true → refused 13 0 t) ∧
    (isNull sel = false → descFetch sel t = .ok none u → refused 13 (sel &&& 0xFFFC) u) ∧
    (isNull sel = false → descFetch sel t = .ok (some d) u →
      (d.isCode = false → d.type ∉ [1#5, 3#5, 4#5, 5#5, 9#5, 11#5, 12#5] → refused 13 (sel &&& 0xFFFC) u) ∧
      (d.isCode = true → ¬ may → refused 13 (sel &&& 0xFFFC) u) ∧
      (d.isCode = true → may → d.p = false → refused 11 (sel &&& 0xFFFC) u) ∧
      (d.isCode = true → may → d.p = true → d.limit.toNat < off.toNat → refused 13 0 u) ∧
      (d.isCode = true → may → d.p = true → off.toNat ≤ d.limit.toNat → setAccessed d u = .ok () v →
        exec (.jmpFar f) s = completes s
          (({ v.setSeg .cs (d.toReg ((sel &&& 0xFFFC) ||| s.cpl.setWidth 16)) with cpl := s.cpl }).jump off)))) ∧
  ((∀ (f : FarForm) (s t u v w : State) (sel : BitVec 16) (off : Dword) (d : Desc) (l : List (Ref × Nat)) (sp : Dword),
    s.pfx.lock = false → s.prot = true → farPointer s f s = .ok (sel, off) t → isNull sel = false →
    descFetch sel t = .ok (some d) u → d.isCode = true →
    (if d.isConforming then d.dpl.toNat ≤ s.cpl.toNat else d.dpl = s.cpl ∧ (rpl sel).toNat ≤ s.cpl.toNat) →
    d.p = true → off.toNat ≤ d.limit.toNat →
    preparePushes s.segs.ss 0 s.user s.sp
      [(u.csItem s.ow.bytes).1, (s.ow.bytes, s.nextEip.toNat % 256 ^ s.ow.bytes)] (u.csItem s.ow.bytes).2
        = .ok (l, sp) v →
    setAccessed d v = .ok () w →
    exec (.callFar f) s = completes s (((storedAll l w).setSp sp).enterCS sel d s.cpl off)) ∧
  (∀ (s t u v : State) (a b : Nat) (d : Desc) (k : Option (BitVec 16)),
    s.pfx.lock = false → s.prot = true →
    let n := s.ow.bytes
    stackReads s.sp n [0, n] s = .ok [a, b] t →
    let ip := BitVec.ofNat 32 a
    let cs := BitVec.ofNat 16 b
    returnTarget cs t = .ok d u → rpl cs = s.cpl →
    (d.limit.toNat < ip.toNat →
      exec (.retFar k) s = deliver (faultEvent ⟨13, some 0⟩ s.eip) (s.rollback u)) ∧
    (ip.toNat ≤ d.limit.toNat →
      setAccessed d (u.setSp (spAdd s.segs.ss.attr.db s.sp
        (BitVec.ofNat 32 (2 * n) + (match k with | none => 0 | some b => b.setWidth 32)))) = .ok () v →
      exec (.retFar k) s = completes s (v.enterCS cs d s.cpl ip))) ∧
  (∀ (s u : State) (sel : BitVec 16) (d : Desc),
    (isNull sel = true → returnTarget sel s = .error (.exc ⟨13, some 0⟩) s) ∧
    (isNull sel = false → (rpl sel).toNat < s.cpl.toNat →
      returnTarget sel s = .error (.exc ⟨13, some (sel &&& 0xFFFC)⟩) s) ∧
    (isNull sel = false → s.cpl.toNat ≤ (rpl sel).toNat → descFetch sel s = .ok (some d) u →
      let fits := d.isCode = true ∧ if d.isConforming then d.dpl.toNat ≤ (rpl sel).toNat else d.dpl = rpl sel
      (¬ fits → returnTarget sel s = .error (.exc ⟨13, some (sel &&& 0xFFFC)⟩) u) ∧
      (fits → d.p = false → returnTarget sel s = .error (.exc ⟨11, some (sel &&& 0xFFFC)⟩) u) ∧
      (fits → d.p = true → returnTarget sel s = .ok d u)))) ∧
  ((∀ (s u : State) (sel : BitVec 16) (g d : Desc) (isCall : Bool),
    let target := g.lo.extractLsb' 16 16
    let wide := bit g.hi 11
    let off : Dword := (if wide then g.hi.extractLsb' 16 16 else 0#16) ++ g.lo.extractLsb' 0 16
    let gp := fun (code : BitVec 16) (w : State) => EStateM.Result.error (Stop.exc ⟨13, some code⟩) w
    let reachable := s.cpl.toNat ≤ g.dpl.toNat ∧ (rpl sel).toNat ≤ g.dpl.toNat
    (¬ reachable → callGateTarget sel g isCall s = gp (sel &&& 0xFFFC) s) ∧
    (reachable → g.p = false → callGateTarget sel g isCall s = .error (.exc ⟨11, some (sel &&& 0xFFFC)⟩) s) ∧
    (reachable → g.p = true → isNull target = true → callGateTarget sel g isCall s = gp 0 s) ∧
    (reachable → g.p = true → isNull target = false → descFetch target s = .ok none u →
      callGateTarget sel g isCall s = gp (target &&& 0xFFFC) u) ∧
    (reachable → g.p = true → isNull target = false → descFetch target s = .ok (some d) u →
      let fits := d.isCode = true ∧ d.dpl.toNat ≤ s.cpl.toNat ∧
        (isCall = true ∨ d.isConforming = true ∨ d.dpl = s.cpl)
      (¬ fits → callGateTarget sel g isCall s = gp (target &&& 0xFFFC) u) ∧
      (fits → d.p = false → callGateTarget sel g isCall s = .error (.exc ⟨11, some (target &&& 0xFFFC)⟩) u) ∧
      (fits → d.p = true → callGateTarget sel g isCall s =
        .ok ⟨if wide then 4 else 2, target, d, off, (g.hi.extractLsb' 0 5).toNat⟩ u))) ∧
  (∀ (f : FarForm) (s t u v : State) (sel : BitVec 16) (off : Dword) (d : Desc) (g : GateTarget),
    s.pfx.lock = false → s.prot = true → farPointer s f s = .ok (sel, off) t → isNull sel = false →
    descFetch sel t = .ok (some d) u → d.type = 4 ∨ d.type = 12 →
    let refused := fun w : State => deliver (faultEvent ⟨13, some 0⟩ s.eip) (s.rollback w)
    let inner := g.d.isConforming = false ∧ g.d.dpl.toNat < s.cpl.toNat
    (callGateTarget sel d false u = .ok g v →
      (g.d.limit.toNat < g.off.toNat → exec (.jmpFar f) s = refused v) ∧
      (∀ w, g.off.toNat ≤ g.d.limit.toNat → setAccessed g.d v = .ok () w →
        exec (.jmpFar f) s = completes s (w.enterCS g.sel g.d s.cpl g.off))) ∧
    (callGateTarget sel d true u = .ok g v → ¬ inner →
      (g.d.limit.toNat < g.off.toNat → exec (.callFar f) s = refused v) ∧
      (∀ (w z : State) (l : List (Ref × Nat)) (sp : Dword), g.off.toNat ≤ g.d.limit.toNat →
        preparePushes s.segs.ss 0 s.user s.sp [(v.csItem g.n).1, (g.n, s.nextEip.toNat % 256 ^ g.n)] (v.csItem g.n).2
          = .ok (l, sp) w →
        setAccessed g.d w = .ok () z →
        exec (.callFar f) s = completes s (((storedAll l z).setSp sp).enterCS g.sel g.d s.cpl g.off))) ∧
    (callGateTarget sel d true u = .ok g v → inner →
      ∀ (u1 u2 u3 u4 u5 u6 : State) (ssel : BitVec 16) (sp spEnd : Dword) (ds : Desc) (l : List (Ref × Nat))
        (params : List Nat),
      innerStack g.d.dpl 0 v = .ok (ssel, sp) u1 → checkInner g.d.dpl ssel 0 u1 = .ok ds u2 →
      preparePushes (ds.toReg ssel) (ssel &&& 0xFFFC) false sp (List.replicate (4 + g.count) (g.n, 0)) u2
        = .ok (l, spEnd) u3 →
      (g.d.limit.toNat < g.off.toNat → exec (.callFar f) s = refused u3) ∧
      (g.off.toNat ≤ g.d.limit.toNat →
        stackReads s.sp g.n ((List.range g.count).map fun i => i * g.n) u3 = .ok params u4 →
        let ss := u4.itemOf g.n s.segs.ss.sel
        let cs := ss.2.itemOf g.n s.segs.cs.sel
        let values := [ss.1.2, s.regs.esp.toNat % 256 ^ g.n] ++ params.reverse ++
          [cs.1.2, s.nextEip.toNat % 256 ^ g.n]
        setAccessed ds cs.2 = .ok () u5 → setAccessed g.d u5 = .ok () u6 →
        let z := storedAll ((l.map Prod.fst).zip values) u6
        exec (.callFar f) s = completes s
          ((State.setSp { z.setSeg .ss (ds.toReg ssel) with regs := { z.regs with esp := sp } } spEnd).enterCS g.sel g.d
            g.d.dpl g.off)))) ∧
  (∀ (s u : State) (level : BitVec 2) (sel ex : BitVec 16) (d : Desc),
    let ts := fun (code : BitVec 16) (w : State) => EStateM.Result.error (Stop.exc ⟨10, some (code + ex)⟩) w
    (isNull sel = true → checkInner level sel ex s = ts 0 s) ∧
    (isNull sel = false → descFetch sel s = .ok none u → checkInner level sel ex s = ts (sel &&& 0xFFFC) u) ∧
    (isNull sel = false → descFetch sel s = .ok (some d) u →
      let fits := rpl sel = level ∧ d.dpl = level ∧ d.isWritable = true
      (¬ fits → checkInner level sel ex s = ts (sel &&& 0xFFFC) u) ∧
      (fits → d.p = false → checkInner level sel ex s = .error (.exc ⟨12, some ((sel &&& 0xFFFC) + ex)⟩) u) ∧
      (fits → d.p = true → checkInner level sel ex s = .ok d u)) ∧
    (s.pg = false →
      let k := level.toNat
      let at_ := fun i : Nat => s.tr.base + BitVec.ofNat 32 i
      let limit := s.tr.limit.toNat
      let short := EStateM.Result.error (Stop.exc ⟨10, some ((s.tr.sel &&& 0xFFFC) + ex)⟩) s
      (s.tr.attr.e = true → innerStack level ex s = if limit < 8 * k + 9 then short else
        let w := s.bus (at_ (4 + 8 * k)) 4
        .ok (w.phys (at_ (8 + 8 * k) + 1) ++ w.phys (at_ (8 + 8 * k)), s.phys32 (at_ (4 + 8 * k)))
          (w.bus (at_ (8 + 8 * k)) 2)) ∧
      (s.tr.attr.e = false → innerStack level ex s = if limit < 4 * k + 5 then short else
        let w := s.bus (at_ (2 + 4 * k)) 2
        .ok (w.phys (at_ (4 + 4 * k) + 1) ++ w.phys (at_ (4 + 4 * k)),
          0#16 ++ s.phys (at_ (2 + 4 * k) + 1) ++ s.phys (at_ (2 + 4 * k))) (w.bus (at_ (4 + 4 * k)) 2))))) ∧
  ((∀ (s t t3 u v : State) (a b : Nat) (d : Desc) (k : Option (BitVec 16)) (nsp nss : Nat),
    s.pfx.lock = false → s.prot = true →
    let n := s.ow.bytes
    let dropped : BitVec 16 := k.getD 0
    stackReads s.sp n [0, n] s = .ok [a, b] t →
    let ip := BitVec.ofNat 32 a
    let cs := BitVec.ofNat 16 b
    let level := rpl cs
    returnTarget cs t = .ok d t3 → level ≠ s.cpl →
    stackReads s.sp n [2 * n + dropped.toNat, 2 * n + dropped.toNat + n] t3 = .ok [nsp, nss] u →
    let sel := BitVec.ofNat 16 nss
    let refused := fun (v : Byte) (code : BitVec 16) (w : State) =>
      exec (.retFar k) s = deliver (faultEvent ⟨v, some code⟩ s.eip) (s.rollback w)
    (isNull sel = true → refused 13 0 u) ∧
    (isNull sel = false → rpl sel ≠ level → refused 13 (sel &&& 0xFFFC) u) ∧
    (isNull sel = false → rpl sel = level → descFetch sel u = .ok none v → refused 13 (sel &&& 0xFFFC) v) ∧
    (∀ (ds : Desc) (w z : State), isNull sel = false → rpl sel = level → descFetch sel u = .ok (some ds) v →
      (ds.isWritable = false ∨ ds.dpl ≠ level → refused 13 (sel &&& 0xFFFC) v) ∧
      (ds.isWritable = true → ds.dpl = level → ds.p = false → refused 12 (sel &&& 0xFFFC) v) ∧
      (ds.isWritable = true → ds.dpl = level → ds.p = true → d.limit.toNat < ip.toNat → refused 13 0 v) ∧
      (ds.isWritable = true → ds.dpl = level → ds.p = true → ip.toNat ≤ d.limit.toNat → setAccessed d v = .ok () w →
        setAccessed ds (w.enterCS cs d level ip) = .ok () z →
        exec (.retFar k) s = completes s (State.invalidateOuter
          { z.setSeg .ss (ds.toReg sel) with regs := { z.regs with
            esp := outerSp z.regs.esp ds.attr.db n (BitVec.ofNat 32 nsp + dropped.setWidth 32) } } level)))) ∧
  (∀ (s : State) (level : BitVec 2) (k : Sreg),
    let r := s.segs.get k
    (s.invalidateOuter level).segs.get k =
      if k ≠ .cs ∧ k ≠ .ss ∧ r.null = false ∧ ¬ (r.attr.e = true ∧ r.attr.c = true) ∧ r.attr.dpl.toNat < level.toNat
      then { r with sel := 0, null := true, attr := { r.attr with p := false } } else r)) ∧
  (∀ (f : FarForm) (s t u v : State) (sel : BitVec 16) (off : Dword) (d tss : Desc) (i : Instr) (reason : TaskReason),
    s.pfx.lock = false → s.prot = true → farPointer s f s = .ok (sel, off) t → isNull sel = false →
    descFetch sel t = .ok (some d) u → (i, reason) ∈ [(Instr.jmpFar f, TaskReason.jump), (.callFar f, .call)] →
    let refused := fun (v : Byte) (code : BitVec 16) (w : State) =>
      exec i s = deliver (faultEvent ⟨v, some (code &&& 0xFFFC)⟩ s.eip) (s.rollback w)
    let switches := fun (x : BitVec 16) (g : Desc) (w : State) =>
      (∀ z, taskSwitch x g reason s.nextEip s.eflags 0 w = .ok () z →
        exec i s = .next (z.complete true (bit s.eflags 8))) ∧
      (∀ e z, taskSwitch x g reason s.nextEip s.eflags 0 w = .error (.exc e) z → e.vector ≠ 0 →
        exec i s = deliver (faultEvent e s.eip) (s.rollback z)) ∧
      (∀ e z, taskSwitch x g reason s.nextEip s.eflags 0 w = .error (.late e) z →
        exec i s = deliver (faultEvent e z.eip) z)
    let may := s.cpl.toNat ≤ d.dpl.toNat ∧ (rpl sel).toNat ≤ d.dpl.toNat
    (d.isTss = true → selTI sel = true ∨ ¬ may → refused 13 sel u) ∧
    (d.isTss = true → selTI sel = false → may → switches sel d u) ∧
    (d.type = 5 →
      let target := d.lo.extractLsb' 16 16
      let placed := selTI target = false ∧ isNull target = false
      (¬ may → refused 13 sel u) ∧ (may → d.p = false → refused 11 sel u) ∧
      (may → d.p = true → ¬ placed → refused 13 target u) ∧
      (may → d.p = true → placed → descFetch target u = .ok none v → refused 13 target v) ∧
      (may → d.p = true → placed → descFetch target u = .ok (some tss) v →
        (tss.isTss = false → refused 13 target v) ∧ (tss.isTss = true → switches target tss v))))

/-! ## Interrupts and exceptions -/

/-- Taking an interrupt or exception in real mode: FLAGS, CS and IP are pushed, IF, TF and RF cleared, and the vector
table's entry is where execution goes; INT n, INT 3 and INTO with OF = 1 enter with the next IP saved, a fault, an
undefined opcode among them, and ESC without a coprocessor (#NM), with the instruction's own. INTO with OF = 0 does
nothing. A vector beyond the table ends in shutdown (R540 to R542, R655, R681, R684, R699 to R701, R303). -/
def Obligations.RealInterrupt : Prop :=
  ∀ (s t : State) (l : List (Ref × Nat)) (sp : Dword), s.pe = false → s.pg = false →
    let fits := fun v : Byte => 4 * v.toNat + 3 ≤ s.idtr.limit.toNat
    let frames := fun (v : Byte) (ret : Dword) =>
      preparePushes s.segs.ss 0 s.user s.sp (s.realFrame ret) (s.atVector v) = .ok (l, sp) t
    let pushed := (storedAll l t).setSp sp
    (∀ e : Event, e.isDouble = false → fits e.vector → frames e.vector e.ret →
      deliver e s = .next (s.vectored pushed e.vector).entered) ∧
    (∀ e : Event, ¬ fits e.vector → deliver e s = .next (s.shutDown e.ret)) ∧
    (∀ v, s.pfx.lock = false → fits v → frames v s.nextEip →
      exec (.int v) s = completes s (s.vectored pushed v) ∧
      (v = 3 → exec .int3 s = completes s (s.vectored pushed 3)) ∧
      (v = 4 → s.status.of = true → exec .into s = completes s (s.vectored pushed 4))) ∧
    (s.pfx.lock = false → s.status.of = false → exec .into s = completes s s) ∧
    (∀ v, s.pfx.lock = false → ¬ fits v → exec (.int v) s = .next (s.shutDown s.eip)) ∧
    (frames 6 s.eip → fits 6 →
      let ud := Host.Outcome.next (s.vectored pushed 6).entered
      (∀ n, exec (.ssvLow n) s = ud) ∧ (∀ n, exec (.ssvHigh n) s = ud) ∧ (∀ u, exec (.undefined u) s = ud)) ∧
    (frames 7 s.eip → fits 7 → s.pfx.lock = false → s.cfg.coprocessorPresent = false →
      ∀ op ext rm, exec (.esc op ext rm) s = .next (s.vectored pushed 7).entered)

/-- Delivery in protected mode to the same level through an interrupt or trap gate: EFLAGS, CS and the saved EIP, and
the error code of an exception that has one, are pushed in items of the gate's size; RF is 1 in the image of a fault;
CS:EIP is the gate's; TF, RF and VM are cleared, and IF by an interrupt gate (R700, R702, R707). INT n completes with
that state. What INT n, INT 3 and INTO raise themselves, with their own EIP and EX = 0: #GP of the vector for one beyond
the IDT, for an entry that is no interrupt, trap or task gate, and for a gate the level may not use; #NP of the vector
for a gate that is not present (R699, R700, R695). What the delivery itself raises, with EX in every code, of the
handler's code segment: #GP(0) for a null selector and for an offset beyond the limit, #GP of the selector for one
beyond its table, no code segment, or a DPL above CPL, #NP for one not present, and from virtual-8086 mode #GP for one
that is not at level 0, conforming, or behind a 16-bit gate (R702, R704); that the frame's pages are tested before the
offset is the model's choice, assumption log 45. Through a task gate: the selector must name a TSS of the GDT, else #GP
of it; then the task switch, and the error code on the new task's stack, where what that push raises is the new task's
(R705). Paging is off here. -/
def Obligations.SameLevelInterrupt : Prop :=
  (∀ (s t u v : State) (e : Event) (d : Desc) (l : List (Ref × Nat)) (sp : Dword),
    s.prot = true → s.pg = false → 8 * e.vector.toNat + 7 ≤ s.idtr.limit.toNat →
    let lo := (s.idtEntry e.vector).1
    let hi := (s.idtEntry e.vector).2.1
    let type := hi.extractLsb' 8 5
    let n := if bit hi 11 then 4 else 2
    let sel := lo.extractLsb' 16 16
    let off : Dword := (if bit hi 11 then hi.extractLsb' 16 16 else 0#16) ++ lo.extractLsb' 0 16
    type = 6 ∨ type = 7 ∨ type = 14 ∨ type = 15 → bit hi 15 = true →
    (e.kind = .software → s.cpl.toNat ≤ (hi.extractLsb' 13 2).toNat) →
    isNull sel = false → descFetch sel (s.idtEntry e.vector).2.2 = .ok (some d) t → d.isCode = true → d.p = true →
    (if d.isConforming then d.dpl.toNat ≤ s.cpl.toNat else d.dpl = s.cpl) → off.toNat ≤ d.limit.toNat →
    let image := if e.setRf then s.eflags ||| 0x10000 else s.eflags
    let code := match e.code with
      | some c => [(n, c.toNat)]
      | none => []
    preparePushes s.segs.ss (if e.kind = .software then 0 else 1) s.user s.sp
      ([(n, image.toNat % 256 ^ n), (t.csItem n).1, (n, e.ret.toNat % 256 ^ n)] ++ code) (t.csItem n).2 = .ok (l, sp) u →
    setAccessed d u = .ok () v →
    let h := ((storedAll l v).setSp sp).enterCS sel d s.cpl off
    let h := { h with eflags := s.eflags &&& (if bit hi 8 then 0xFFFCFEFF else 0xFFFCFCFF) }
    interrupt e s = .ok false h ∧ deliver e s = .next h.entered ∧
    (e = ⟨e.vector, .software, s.nextEip, none, false⟩ → s.pfx.lock = false →
      exec (.int e.vector) s = completes s h ∧ (e.vector = 3 → exec .int3 s = completes s h) ∧
      (e.vector = 4 → s.status.of = true → exec .into s = completes s h))) ∧
  (∀ (s : State) (v : Byte), s.prot = true → s.pg = false → s.pfx.lock = false →
    let hi := (s.idtEntry v).2.1
    let type := hi.extractLsb' 8 5
    let gate := type = 5 ∨ type = 6 ∨ type = 7 ∨ type = 14 ∨ type = 15
    let usable := s.cpl.toNat ≤ (hi.extractLsb' 13 2).toNat
    let code := BitVec.ofNat 16 (8 * v.toNat + 2)
    let refused := fun (x : Byte) (u : State) =>
      let o := deliver (faultEvent ⟨x, some code⟩ s.eip) (s.rollback u)
      exec (.int v) s = o ∧ (v = 3 → exec .int3 s = o) ∧ (v = 4 → s.status.of = true → exec .into s = o)
    (s.idtr.limit.toNat < 8 * v.toNat + 7 → refused 13 s) ∧
    (8 * v.toNat + 7 ≤ s.idtr.limit.toNat → ¬ gate ∨ ¬ usable → refused 13 (s.idtEntry v).2.2) ∧
    (8 * v.toNat + 7 ≤ s.idtr.limit.toNat → gate → usable → bit hi 15 = false → refused 11 (s.idtEntry v).2.2)) ∧
  (∀ (s t u : State) (e : Event) (d : Desc) (l : List (Ref × Nat)) (sp : Dword),
    s.pe = true → s.pg = false → 8 * e.vector.toNat + 7 ≤ s.idtr.limit.toNat →
    let lo := (s.idtEntry e.vector).1
    let hi := (s.idtEntry e.vector).2.1
    let read := (s.idtEntry e.vector).2.2
    let type := hi.extractLsb' 8 5
    let ex : BitVec 16 := if e.kind = .software then 0 else 1
    let sel := lo.extractLsb' 16 16
    let image := if e.setRf then s.eflags ||| 0x10000 else s.eflags
    let refused := fun (x : Byte) (code : BitVec 16) (w : State) =>
      interrupt e s = .error (.exc ⟨x, some ((code &&& 0xFFFC) + ex)⟩) w
    bit hi 15 = true → (e.kind = .software → s.cpl.toNat ≤ (hi.extractLsb' 13 2).toNat) →
    (type = 6 ∨ type = 7 ∨ type = 14 ∨ type = 15 →
      let n := if bit hi 11 then 4 else 2
      let off : Dword := (if bit hi 11 then hi.extractLsb' 16 16 else 0#16) ++ lo.extractLsb' 0 16
      (isNull sel = true → refused 13 0 read) ∧
      (isNull sel = false → descFetch sel read = .ok none t → refused 13 sel t) ∧
      (isNull sel = false → descFetch sel read = .ok (some d) t →
        let fits := d.isCode = true ∧ d.dpl.toNat ≤ s.cpl.toNat
        (¬ fits → refused 13 sel t) ∧ (fits → d.p = false → refused 11 sel t) ∧
        (fits → d.p = true → s.vm = true → d.dpl ≠ 0 ∨ d.isConforming = true ∨ n = 2 → refused 13 sel t) ∧
        (fits → d.p = true → s.vm = false → d.isConforming = true ∨ d.dpl = s.cpl → d.limit.toNat < off.toNat →
          let code := match e.code with
            | some c => [(n, c.toNat)]
            | none => []
          preparePushes s.segs.ss ex s.user s.sp
            ([(n, image.toNat % 256 ^ n), (t.csItem n).1, (n, e.ret.toNat % 256 ^ n)] ++ code) (t.csItem n).2
              = .ok (l, sp) u →
          refused 13 0 u))) ∧
    (type = 5 →
      let placed := selTI sel = false ∧ isNull sel = false
      (¬ placed → refused 13 sel read) ∧ (placed → descFetch sel read = .ok none t → refused 13 sel t) ∧
      (placed → descFetch sel read = .ok (some d) t →
        (d.isTss = false → refused 13 sel t) ∧
        (∀ x w, d.isTss = true → taskSwitch sel d .interrupt e.ret image ex t = .error x w →
          interrupt e s = .error x w) ∧
        (∀ w, d.isTss = true → taskSwitch sel d .interrupt e.ret image ex t = .ok () w →
          (e.code = none → interrupt e s = .ok true w ∧ deliver e s = .next w.entered) ∧
          (∀ c, e.code = some c →
            let item := (if bit d.hi 11 then 4 else 2, c.toNat)
            (∀ x z, preparePushes w.segs.ss ex w.user w.sp [item] w = .error (.exc x) z →
              interrupt e s = .error (.late x) z) ∧
            (∀ l sp z, preparePushes w.segs.ss ex w.user w.sp [item] w = .ok (l, sp) z →
              let h := (storedAll l z).setSp sp
              interrupt e s = .ok true h ∧ deliver e s = .next h.entered))))))

/-- What every entry through an interrupt or trap gate leaves, whatever the level it comes from, virtual-8086 mode
included: the level is that of the code segment and never an outer one; CS:EIP is the gate's with RPL = CPL; TF, RF and
VM are 0, IF is 0 behind an interrupt gate and as it was behind a trap gate, every other flag as it was; the stack
segment changes only with the level; from virtual-8086 mode the level is 0 and the data-segment registers hold null
selectors (R702, R703, R704, R707). The entry to an inner level on the stack the TSS names: the frame on it, from the
top, is GS, FS, DS, ES when virtual-8086 mode is left, then SS, ESP, EFLAGS, CS, EIP and the error code, tested as a
whole before anything is stored (R703, R704); that its pages are tested before the gate's offset is the model's choice,
assumption log 45. Paging is off here. -/
def Obligations.HandlerEntry : Prop :=
  (∀ (s t : State) (e : Event), s.pe = true → s.pg = false → interrupt e s = .ok false t →
    let lo := (s.idtEntry e.vector).1
    let hi := (s.idtEntry e.vector).2.1
    t.cpl.toNat ≤ s.cpl.toNat ∧ t.segs.cs.sel = (lo.extractLsb' 16 16 &&& 0xFFFC) ||| t.cpl.setWidth 16 ∧
    t.nextEip = (if bit hi 11 then hi.extractLsb' 16 16 else 0#16) ++ lo.extractLsb' 0 16 ∧
    t.eflags = s.eflags &&& (if bit hi 8 then 0xFFFCFEFF else 0xFFFCFCFF) ∧
    t.nextEip.toNat ≤ t.segs.cs.limit.toNat ∧ (s.vm = false → t.cpl = s.cpl → t.segs.ss = s.segs.ss) ∧
    (t.cpl ≠ s.cpl → rpl t.segs.ss.sel = t.cpl ∧ t.segs.ss.attr.dpl = t.cpl) ∧
    (s.vm = true → t.cpl = 0 ∧ t.segs.ds.null = true ∧ t.segs.es.null = true ∧ t.segs.fs.null = true ∧
      t.segs.gs.null = true) ∧
    (s.vm = false → t.segs.ds = s.segs.ds ∧ t.segs.es = s.segs.es ∧ t.segs.fs = s.segs.fs ∧ t.segs.gs = s.segs.gs) ∧
    t.idtr = s.idtr ∧ t.gdtr = s.gdtr ∧ t.ldtr = s.ldtr ∧ t.tr = s.tr ∧ t.cr0 = s.cr0 ∧ t.cr3 = s.cr3) ∧
  (∀ (s u1 u2 u3 u4 u5 u6 : State) (e : Event) (d ds : Desc) (ssel : BitVec 16) (sp spEnd : Dword)
      (l : List (Ref × Nat)),
    s.pe = true → s.pg = false → 8 * e.vector.toNat + 7 ≤ s.idtr.limit.toNat →
    let lo := (s.idtEntry e.vector).1
    let hi := (s.idtEntry e.vector).2.1
    let type := hi.extractLsb' 8 5
    let n := if bit hi 11 then 4 else 2
    let sel := lo.extractLsb' 16 16
    let off : Dword := (if bit hi 11 then hi.extractLsb' 16 16 else 0#16) ++ lo.extractLsb' 0 16
    type = 6 ∨ type = 7 ∨ type = 14 ∨ type = 15 → bit hi 15 = true →
    (e.kind = .software → s.cpl.toNat ≤ (hi.extractLsb' 13 2).toNat) →
    isNull sel = false → descFetch sel (s.idtEntry e.vector).2.2 = .ok (some d) u1 → d.isCode = true → d.p = true →
    d.isConforming = false → d.dpl.toNat ≤ s.cpl.toNat →
    (if s.vm then d.dpl = 0 ∧ n = 4 else d.dpl.toNat < s.cpl.toNat) →
    let ex : BitVec 16 := if e.kind = .software then 0 else 1
    innerStack d.dpl ex u1 = .ok (ssel, sp) u2 → checkInner d.dpl ssel ex u2 = .ok ds u3 →
    let g := s.segs
    let drawn := itemsOf n [g.gs.sel, g.fs.sel, g.ds.sel, g.es.sel, g.ss.sel, g.cs.sel] u3
    let item := fun i => drawn.1.getD i (0, 0)
    let image := if e.setRf then s.eflags ||| 0x10000 else s.eflags
    let code := match e.code with
      | some c => [(n, c.toNat)]
      | none => []
    let frame := (if s.vm then [item 0, item 1, item 2, item 3] else []) ++
      [item 4, (n, s.regs.esp.toNat % 256 ^ n), (n, image.toNat % 256 ^ n), item 5, (n, e.ret.toNat % 256 ^ n)] ++ code
    preparePushes (ds.toReg ssel) ((ssel &&& 0xFFFC) + ex) false sp frame drawn.2 = .ok (l, spEnd) u4 →
    (d.limit.toNat < off.toNat → interrupt e s = .error (.exc ⟨13, some ex⟩) u4) ∧
    (off.toNat ≤ d.limit.toNat → setAccessed ds u4 = .ok () u5 → setAccessed d u5 = .ok () u6 →
      let z := storedAll l u6
      let h := (State.setSp { z.setSeg .ss (ds.toReg ssel) with regs := { z.regs with esp := sp } } spEnd).enterCS sel d
        d.dpl off
      let h := { h with eflags := s.eflags &&& (if bit hi 8 then 0xFFFCFEFF else 0xFFFCFCFF) }
      interrupt e s = .ok false (if s.vm then h.nullData else h)))

/-- When the delivery of an event raises a second exception: behind a double fault the machine shuts down; a page fault
first, two contributory exceptions, or a double fault second make a double fault with error code 0; any other second
exception is delivered by itself; the EIP to save stays the first event's and what the first delivery changed is undone
(R699, D63). Where the second exception is raised behind the commit of a task switch, nothing is undone and the EIP to
save is the new task's (R794; for the double fault, where D67 reads otherwise, this is the model's choice, assumption
log 49). -/
def Obligations.DoubleFault : Prop :=
  (∀ (e : Event) (x : Exn) (s s' : State), s.pe = true → interrupt e s = .error (.late x) s' →
    let exc := e.kind = .exception
    let contributes := fun v : Byte => v = 10 ∨ v = 11 ∨ v = 12 ∨ v = 13
    let double := x.vector = 8 ∨ (exc ∧ (e.vector = 14 ∨ (contributes e.vector ∧ contributes x.vector)))
    (exc → e.vector = 8 → deliver e s = .next (s'.shutDown s'.eip)) ∧
    (¬ (exc ∧ e.vector = 8) → double → deliver e s = deliverFrom 4 id ⟨8, .exception, s'.eip, some 0, false⟩ s') ∧
    (¬ (exc ∧ e.vector = 8) → ¬ double →
      deliver e s = deliverFrom 4 id ⟨x.vector, .exception, s'.eip, x.code, true⟩ s')) ∧
  (∀ (e : Event) (x : Exn) (s s' : State), s.pe = true → interrupt e s = .error (.exc x) s' →
    let exc := e.kind = .exception
    let contributes := fun v : Byte => v = 10 ∨ v = 11 ∨ v = 12 ∨ v = 13
    (exc → e.vector = 8 → deliver e s = .next ((s.rollback s').shutDown e.ret)) ∧
    (¬ (exc ∧ e.vector = 8) →
      x.vector = 8 ∨ (exc ∧ (e.vector = 14 ∨ (contributes e.vector ∧ contributes x.vector))) →
      deliver e s = deliverFrom 4 id ⟨8, .exception, e.ret, some 0, false⟩ (s.rollback s')) ∧
    (¬ (exc ∧ e.vector = 8) →
      ¬ (x.vector = 8 ∨ (exc ∧ (e.vector = 14 ∨ (contributes e.vector ∧ contributes x.vector)))) →
      deliver e s = deliverFrom 4 id ⟨x.vector, .exception, e.ret, x.code, true⟩ (s.rollback s')))

/-- No step, no instruction and no delivery stops but where the manual gives no meaning: an instruction answers a next
state, from every state, unless two valid TLB entries serve one page, or it is an ESC handed to a coprocessor that is
present, or a write of a test register with paging on; taking an exception or interrupt always answers a next state, but
for the two TLB entries; and a step answers one but for these three and the machine inside SuperState V (R242, R655,
R240, R672, R699, R866). -/
def Obligations.StopsAreNamed : Prop :=
  (∀ (i : Instr) (s : State), GoesOn (exec i s) ∨ exec i s = .fault .tlbTwoMatches ∨
    (exec i s = .refused .coprocessor ∧ ∃ op ext rm, i = .esc op ext rm) ∨
    (exec i s = .refused .tlbTestWithPaging ∧ s.pg = true ∧ ∃ mod r, i = .movToTr mod 6 r)) ∧
  (∀ (e : Event) (s : State), GoesOn (deliver e s) ∨ deliver e s = .fault .tlbTwoMatches) ∧
  (∀ s : State, GoesOn (step s) ∨ step s = .fault .tlbTwoMatches ∨ step s = .refused .coprocessor ∨
    (step s = .refused .tlbTestWithPaging ∧ s.pg = true) ∨
    (step s = .refused .insideSuperState ∧ s.run = .superstate))

/-- IRET: outside protected mode, and in protected mode to a procedure at the same level, EIP, CS and EFLAGS come from
the stack; the flags written are those of the level before the return, RF with a 32-bit image only; NMI is recognised
again (R543, R545, R722, R775). To an outer level (E)SP and SS come from the stack too and the data segment registers
that level may not use become null (R773, R774, R775). From level 0, with VM set in a 32-bit image, it enters
virtual-8086 mode with nine doublewords off the stack (R776). With NT set it returns to the task the back-link names,
which must be a busy TSS of the GDT, else #TS; the link must lie in the TSS (R777, R182). That all items of a frame are
checked before the first is read is the model's reading of 22_paging.md R224, assumption log 37. -/
def Obligations.InterruptReturn : Prop :=
  (∀ (s t : State) (a b c : Nat), s.pfx.lock = false →
    let n := s.ow.bytes
    stackReads s.sp n [0, n, 2 * n] s = .ok [a, b, c] t →
    let ip := BitVec.ofNat 32 a
    let cs := BitVec.ofNat 16 b
    let fl := BitVec.ofNat 32 c
    let popped := fun u : State => u.setSp (s.above (3 * n))
    let mask : Dword := 0x4DD5 ||| (if s.level.toNat ≤ s.iopl.toNat then 0x200 else 0)
      ||| (if s.level = 0 then 0x3000 else 0) ||| (if s.os32 then 0x10000 else 0)
    let returned := fun u : State => Host.Outcome.next (State.complete
      { u with eflags := (s.eflags &&& ~~~ mask) ||| (fl &&& mask), nmiMasked := false } s.os32 (bit s.eflags 8))
    let refused := fun (v : Byte) (code : BitVec 16) (w : State) =>
      exec .iret s = deliver (faultEvent ⟨v, some code⟩ s.eip) (s.rollback w)
    (s.pe = false ∨ (s.vm = true ∧ s.cpl = 3 ∧ s.iopl = 3) →
      (s.segs.cs.limit.toNat < ip.toNat → refused 13 0 t) ∧
      (ip.toNat ≤ s.segs.cs.limit.toNat →
        exec .iret s = returned (((popped t).setSeg .cs (s.realCs cs)).jump ip))) ∧
    (∀ (u v : State) (d : Desc), s.prot = true → bit s.eflags 14 = false →
      (s.os32 = true → s.cpl = 0 → bit fl 17 = false) → returnTarget cs t = .ok d u →
      (rpl cs = s.cpl → d.limit.toNat < ip.toNat → refused 13 0 u) ∧
      (rpl cs = s.cpl → ip.toNat ≤ d.limit.toNat →
        setAccessed d (popped u) = .ok () v → exec .iret s = returned (v.enterCS cs d s.cpl ip)) ∧
      (∀ (nsp nss : Nat) (ds : Desc) (u1 u2 u3 u4 : State), rpl cs ≠ s.cpl →
        stackReads s.sp n [3 * n, 4 * n] u = .ok [nsp, nss] u1 →
        let level := rpl cs
        let sel := BitVec.ofNat 16 nss
        isNull sel = false → rpl sel = level → descFetch sel u1 = .ok (some ds) u2 → ds.isWritable = true →
        ds.dpl = level → ds.p = true → ip.toNat ≤ d.limit.toNat → setAccessed d u2 = .ok () u3 →
        setAccessed ds (u3.enterCS cs d level ip) = .ok () u4 →
        exec .iret s = returned (State.invalidateOuter
          { u4.setSeg .ss (ds.toReg sel) with regs := { u4.regs with
            esp := outerSp u4.regs.esp ds.attr.db n (BitVec.ofNat 32 nsp) } } level))) ∧
    (∀ (nsp nss es ds fs gs : Nat) (u : State), s.prot = true → bit s.eflags 14 = false → s.os32 = true → s.cpl = 0 →
      bit fl 17 = true → stackReads s.sp 4 [12, 16, 20, 24, 28, 32] t = .ok [nsp, nss, es, ds, fs, gs] u →
      (0xFFFF < ip.toNat → refused 13 0 u) ∧
      (ip.toNat ≤ 0xFFFF →
        let seg := fun v : Nat => SegReg.ofV86 (BitVec.ofNat 16 v)
        exec .iret s = .next (State.complete (State.jump { u with
          segs := { es := seg es, cs := SegReg.ofV86 cs, ss := seg nss, ds := seg ds, fs := seg fs, gs := seg gs }
          eflags := (fl &&& 0x00037FD5) ||| 2, cpl := 3, nmiMasked := false
          regs := { u.regs with esp := BitVec.ofNat 32 nsp } } ip) true (bit s.eflags 8))))) ∧
  (∀ (s t u : State) (v : Nat) (d : Desc), s.pfx.lock = false → s.prot = true → bit s.eflags 14 = true →
    let link := BitVec.ofNat 16 v
    let refused := fun (code : BitVec 16) (w : State) =>
      exec .iret s = deliver (faultEvent ⟨10, some (code &&& 0xFFFC)⟩ s.eip) (s.rollback w)
    (s.tr.limit.toNat < 1 → refused s.tr.sel s) ∧
    (1 ≤ s.tr.limit.toNat → linRead s.tr.base 2 s = .ok v t →
      (isNull link = true ∨ selTI link = true → refused link t) ∧
      (isNull link = false → selTI link = false → descFetch link t = .ok none u → refused link u) ∧
      (isNull link = false → selTI link = false → descFetch link t = .ok (some d) u →
        (d.type ≠ 3 → d.type ≠ 11 → refused link u) ∧
        (∀ w, d.type = 3 ∨ d.type = 11 → taskSwitch link d .iret s.nextEip s.eflags 0 u = .ok () w →
          exec .iret s = .next (State.complete { w with nmiMasked := false } true (bit s.eflags 8))))))

/-- A task switch: the tests of its TSS descriptor, in order, and of the outgoing TSS's limit, before anything changes;
and what every completed one leaves: TR names the new TSS, CR0.TS is set, the local breakpoint enables are cleared, a
call or interrupt sets NT and a jump clears it (R790, R791, R794, R182). What it stores and loads: EIP, the flags
(without NT for IRET), the registers and the selectors go to their places in the outgoing TSS; the image is read from
the incoming one; a call or interrupt stores the outgoing selector in its back-link; a jump or IRET clears the busy bit
of the outgoing descriptor, all but IRET set that of the incoming one (R780, R782, R791, R794). Then the registers hold
the image, with CR3 only where a 32-bit TSS is entered with paging on, and the tests of phase C run in the new task in
their order: LDTR, CS, SS, DS, ES, FS, GS, EIP; what one raises is the new task's (R794, R796). That the outgoing TSS's
limit is tested behind the tests of the incoming descriptor, and the order of the probes of the pages, are the model's
choice, assumption log 44. -/
def Obligations.TaskSwitch : Prop :=
  (∀ (sel : BitVec 16) (d : Desc) (reason : TaskReason) (eip fl : Dword) (ex : BitVec 16) (s t : State),
    let r := taskSwitch sel d reason eip fl ex s
    let code := some ((sel &&& 0xFFFC) + ex)
    let short := d.limit.toNat < (if bit d.hi 11 then 0x67 else 0x2B)
    (d.p = false → r = .error (.exc ⟨11, code⟩) s) ∧
    (d.p = true → reason ≠ .iret → d.isTssBusy = true → r = .error (.exc ⟨13, code⟩) s) ∧
    (d.p = true → reason = .iret → d.isTssBusy = false → r = .error (.exc ⟨10, some (sel &&& 0xFFFC)⟩) s) ∧
    (d.p = true → (reason = .iret ↔ d.isTssBusy = true) → short → r = .error (.exc ⟨10, code⟩) s) ∧
    (d.p = true → (reason = .iret ↔ d.isTssBusy = true) → ¬ short →
      s.tr.limit.toNat < (if s.tr.attr.e then 0x67 else 0x2B) →
      r = .error (.exc ⟨10, some ((s.tr.sel &&& 0xFFFC) + ex)⟩) s) ∧
    (r = .ok () t → t.tr.sel = sel ∧ t.tr.base = d.base ∧ t.tr.limit = d.limit ∧ bit t.cr0 3 = true ∧
      (∀ i, i ≠ 3 → bit t.cr0 i = bit s.cr0 i) ∧ t.dregs.dr7 = s.dregs.dr7 &&& 0xFFFFFEAA ∧
      (reason.nests = true → bit t.eflags 14 = true) ∧ (reason = .jump → bit t.eflags 14 = false) ∧
      t.gdtr = s.gdtr ∧ t.idtr = s.idtr)) ∧
  ((∀ (sel : BitVec 16) (d : Desc) (reason : TaskReason) (eip fl : Dword) (ex : BitVec 16)
      (s t1 t2 t3 t4 t5 u1 u5 : State) (saves link : List (Ref × Nat)) (reads : List Ref) (old new : Option Ref),
    let is32 := bit d.hi 11
    let big := s.tr.attr.e
    d.p = true → (reason = .iret ↔ d.isTssBusy = true) → ¬ d.limit.toNat < (if is32 then 0x67 else 0x2B) →
    ¬ s.tr.limit.toNat < (if big then 0x67 else 0x2B) →
    let fl := if reason = .iret then fl &&& 0xFFFFBFFF else fl
    let q := s.regs
    let g := s.segs
    let dwords := [eip, fl, q.eax, q.ecx, q.edx, q.ebx, q.esp, q.ebp, q.esi, q.edi]
    let words := [g.es.sel, g.cs.sel, g.ss.sel, g.ds.sel] ++ (if big then [g.fs.sel, g.gs.sel] else [])
    prepareSaves s.tr.base
      (if big then dwords.mapIdx (fun i v => (0x20 + 4 * i, 4, v.toNat)) ++
          words.mapIdx (fun i v => (0x48 + 4 * i, 2, v.toNat))
        else dwords.mapIdx (fun i v => (0x0E + 2 * i, 2, v.toNat)) ++
          words.mapIdx (fun i v => (0x22 + 2 * i, 2, v.toNat))) s = .ok saves t1 →
    prepareReads d.base
      (if is32 then (List.range 11).map (fun i => (0x1C + 4 * i, 4)) ++
          (List.range 8).map (fun i => (0x48 + 4 * i, 2))
        else (List.range 15).map (fun i => (0x0E + 2 * i, 2))) t1 = .ok reads t2 →
    prepareSaves d.base (if reason.nests then [(0, 2, s.tr.sel.toNat)] else []) t2 = .ok link t3 →
    prepareUpdate (reason = .jump || reason = .iret) (s.gdtr.base + BitVec.ofNat 32 (8 * (s.tr.sel >>> 3).toNat + 4)) t3
      = .ok old t4 →
    prepareUpdate (reason != .iret) (d.lin + 4) t4 = .ok new t5 →
    makeUpdate 0 0xFFFFFDFF old t5 = .ok () u1 →
    let vals := sysReadAt reads (sysStoredAll saves u1)
    let k := vals.2.free
    let v := fun i => BitVec.ofNat 32 (vals.1.getD i 0)
    let w := fun i => BitVec.ofNat 16 (vals.1.getD i 0)
    let h := fun i => (Config.undefDword (k + i)).extractLsb' 16 16 ++ w (2 + i)
    let image : TaskImage := if is32 then
        { cr3 := v 0, eip := v 1, eflags := v 2,
          regs := { eax := v 3, ecx := v 4, edx := v 5, ebx := v 6, esp := v 7, ebp := v 8, esi := v 9, edi := v 10 },
          es := w 11, cs := w 12, ss := w 13, ds := w 14, fs := w 15, gs := w 16, ldt := w 17, t := bit (v 18) 0 }
      else
        { cr3 := 0, eip := v 0, eflags := v 1,
          regs := { eax := h 0, ecx := h 1, edx := h 2, ebx := h 3, esp := h 4, ebp := h 5, esi := h 6, edi := h 7 },
          es := w 10, cs := w 11, ss := w 12, ds := w 13, fs := 0, gs := 0, ldt := w 14, t := false }
    makeUpdate 0x200 0xFFFFFFFF new (sysStoredAll link { vals.2 with free := k + if is32 then 0 else 8 }) = .ok () u5 →
    let u := u5.enterTask sel d reason image
    (∀ t, taskPhaseC sel image ex u = .ok () t → taskSwitch sel d reason eip fl ex s =
      .ok () (if image.t then { t with pend := { t.pend with bt := true } } else t)) ∧
    (∀ x t, taskPhaseC sel image ex u = .error (.exc x) t → taskSwitch sel d reason eip fl ex s = .error (.late x) t)) ∧
  (∀ (s : State) (lin o a : Dword), s.pg = false → Mem.wf s.mem = true →
    (∀ i, i < 4 → s.kindAt (lin + BitVec.ofNat 32 i) = .ram) →
    prepareUpdate false lin s = .ok none s ∧ makeUpdate o a none s = .ok () s ∧
    ∃ r t, prepareUpdate true lin s = .ok (some r) s ∧ makeUpdate o a (some r) s = .ok () t ∧
      t.phys32 lin = (s.phys32 lin &&& a) ||| o ∧
      (∀ q, (∀ i, i < 4 → q ≠ lin + BitVec.ofNat 32 i) → t.cell q = s.cell q) ∧
      t.regs = s.regs ∧ t.segs = s.segs ∧ t.eflags = s.eflags)) ∧
  ((∀ (s : State) (sel : BitVec 16) (d : Desc) (reason : TaskReason) (i : TaskImage),
    let t := s.enterTask sel d reason i
    let paged := bit d.hi 11 = true ∧ s.pg = true
    let fl := (i.eflags &&& 0x00037FD5) ||| 2
    t.regs = i.regs ∧ t.eip = i.eip ∧ t.nextEip = i.eip ∧ t.cr0 = s.cr0 ||| 8 ∧ t.tr = d.toBusyReg sel ∧
    t.eflags = (if reason.nests then fl ||| 0x4000 else if reason = .jump then fl &&& 0xFFFFBFFF else fl) ∧
    t.cr3 = (if paged then i.cr3 &&& 0xFFFFF000 else s.cr3) ∧ t.tlb = (if paged then s.tlb.flush else s.tlb) ∧
    t.cpl = (if bit i.eflags 17 then 3 else rpl i.cs) ∧ t.ldtr.sel = i.ldt ∧ t.ldtr.null = true ∧
    (∀ k x, (k, x) ∈ [(Sreg.es, i.es), (.cs, i.cs), (.ss, i.ss), (.ds, i.ds), (.fs, i.fs), (.gs, i.gs)] →
      (t.segs.get k).sel = x ∧ (t.segs.get k).null = true) ∧
    t.inhibit = .none ∧ t.mem = s.mem) ∧
  (∀ (s u : State) (tsel sel ex : BitVec 16) (k : Sreg) (i : TaskImage) (d : Desc),
    let code := some ((sel &&& 0xFFFC) + ex)
    let ts := fun w : State => EStateM.Result.error (Stop.exc ⟨10, code⟩) w
    let np := fun w : State => EStateM.Result.error (Stop.exc ⟨11, code⟩) w
    let cut := fun t : State => if t.segs.cs.limit.toNat < t.eip.toNat
      then EStateM.Result.error (Stop.exc ⟨10, some ((tsel &&& 0xFFFC) + ex)⟩) t else .ok () t
    (∀ t, taskLoadLdtr i.ldt ex s = .ok () t → taskPhaseC tsel i ex s =
      if t.vm then cut { t with segs := { es := .ofV86 i.es, cs := .ofV86 i.cs, ss := .ofV86 i.ss, ds := .ofV86 i.ds,
                                          fs := .ofV86 i.fs, gs := .ofV86 i.gs } }
      else (do
        taskLoadCs i.cs ex
        taskLoadSs i.ss ex
        taskLoadData .ds i.ds ex
        taskLoadData .es i.es ex
        taskLoadData .fs i.fs ex
        taskLoadData .gs i.gs ex
        cut : Op Unit) t) ∧
    (∀ x t, taskLoadLdtr i.ldt ex s = .error x t → taskPhaseC tsel i ex s = .error x t) ∧
    (isNull sel = true → taskLoadLdtr sel ex s = .ok () s ∧ taskLoadData k sel ex s = .ok () s ∧
      taskLoadCs sel ex s = ts s ∧ taskLoadSs sel ex s = ts s) ∧
    (isNull sel = false → selTI sel = true → taskLoadLdtr sel ex s = ts s) ∧
    (isNull sel = false → descFetch sel s = .ok none u →
      (selTI sel = false → taskLoadLdtr sel ex s = ts u) ∧ taskLoadCs sel ex s = ts u ∧ taskLoadSs sel ex s = ts u ∧
      taskLoadData k sel ex s = ts u) ∧
    (isNull sel = false → descFetch sel s = .ok (some d) u →
      let code := d.isCode = true ∧
        (if d.isConforming then d.dpl.toNat ≤ (rpl sel).toNat else d.dpl = rpl sel)
      let stack := d.isWritable = true ∧ d.dpl = s.cpl ∧ rpl sel = s.cpl
      let data := d.isReadable = true ∧
        (d.isConforming = true ∨ (s.cpl.toNat ≤ d.dpl.toNat ∧ (rpl sel).toNat ≤ d.dpl.toNat))
      (selTI sel = false → taskLoadLdtr sel ex s =
        if d.type = 2 ∧ d.p = true then .ok () { u with ldtr := d.toReg sel } else ts u) ∧
      (¬ code → taskLoadCs sel ex s = ts u) ∧ (code → d.p = false → taskLoadCs sel ex s = np u) ∧
      (¬ stack → taskLoadSs sel ex s = ts u) ∧
      (stack → d.p = false → taskLoadSs sel ex s = .error (.exc ⟨12, some ((sel &&& 0xFFFC) + ex)⟩) u) ∧
      (¬ data → taskLoadData k sel ex s = ts u) ∧ (data → d.p = false → taskLoadData k sel ex s = np u) ∧
      (∀ v, d.p = true → setAccessed d u = .ok () v →
        (code → taskLoadCs sel ex s = .ok () (v.setSeg .cs (d.toReg sel))) ∧
        (stack → taskLoadSs sel ex s = .ok () (v.setSeg .ss (d.toReg sel))) ∧
        (data → taskLoadData k sel ex s = .ok () (v.setSeg k (d.toReg sel)))))))

/-! ## Flags and segment registers -/

/-- CLC, STC, CMC, CLD, STD: their one-byte forms; the one flag they write, every other bit of EFLAGS and all else as it
was, in every mode; the string instructions' index goes up with DF = 0 and down with DF = 1. LAHF copies EFLAGS[7:0] to
AH and changes no flag; SAHF loads SF, ZF, AF, PF, CF from AH and no other flag (R570 to R574, R578, R579). -/
def Obligations.FlagInstructions : Prop :=
  (∀ (z : Sizes) (rest : List Byte),
    decode z (0xF8 :: rest) = some (.clc, rest) ∧ decode z (0xF9 :: rest) = some (.stc, rest) ∧
    decode z (0xF5 :: rest) = some (.cmc, rest) ∧ decode z (0xFC :: rest) = some (.cld, rest) ∧
    decode z (0xFD :: rest) = some (.std, rest) ∧ decode z (0x9F :: rest) = some (.lahf, rest) ∧
    decode z (0x9E :: rest) = some (.sahf, rest)) ∧
  (∀ s : State, s.pfx.lock = false →
    let f := s.status
    let b := BitVec.ofBool
    let ah := s.regs.eax.extractLsb' 8 8
    exec .clc s = completes s (s.setStatus { f with cf := false }) ∧
    exec .stc s = completes s (s.setStatus { f with cf := true }) ∧
    exec .cmc s = completes s (s.setStatus { f with cf := !f.cf }) ∧
    exec .cld s = completes s { s with eflags := s.eflags &&& 0xFFFFFBFF } ∧
    exec .std s = completes s { s with eflags := s.eflags ||| 0x400 } ∧
    (s.eflags &&& 0x2A = 2 → exec .lahf s = completes s { s with regs := { s.regs with
      eax := s.regs.eax.extractLsb' 16 16 ++ (b f.sf ++ b f.zf ++ 0#1 ++ b f.af ++ 0#1 ++ b f.pf ++ 1#1 ++ b f.cf)
        ++ s.regs.eax.extractLsb' 0 8 } }) ∧
    exec .sahf s = completes s (s.setStatus { f with sf := ah.getLsbD 7, zf := ah.getLsbD 6, af := ah.getLsbD 4,
                                                     pf := ah.getLsbD 2, cf := ah.getLsbD 0 })) ∧
  (∀ (s : State) (f : Status) (i : Nat), i ≠ 0 → i ≠ 2 → i ≠ 4 → i ≠ 6 → i ≠ 7 → i ≠ 11 →
    bit (s.setStatus f).eflags i = bit s.eflags i) ∧
  (∀ (s : State) (n : Nat) (r : Reg), (s.advance n r).reg s.aw r =
    if bit s.eflags 10 then s.reg s.aw r - BitVec.ofNat _ n else s.reg s.aw r + BitVec.ofNat _ n)

/-- CLI and STI write IF when the level may, and #GP(0) otherwise; STI starts its shadow only when IF was 0. In
virtual-8086 mode with IOPL below 3, PUSHF, POPF, INT n and IRET are #GP(0) (R544, R575 to R577, R581, R582, D49). What
is recognised at the boundary, in this order: the debug trap of the last instruction, an instruction breakpoint, ANMI*,
NMI, INTR, else the next instruction or, in a halt, nothing. SS holds off all but the breakpoint, STI holds off INTR; a
breakpoint needs RF = 0 and a running machine and ends the shadow; shutdown ends with NMI or INTR only; ANMI* needs a
part that has it and SuperState V enabled, and enters it with the EIP of the boundary saved, which is the model's choice
(assumption log 46; what entering leaves is ScallResult's); NMI is masked until IRET; INTR needs IF (R698, R71, R72,
R720 to R728, R870, R873). A trap is due when a single step, a task switch with T, or a match of an enabled breakpoint
is on record; DR6 gets BS, BT and every match; a record without a trap is dropped, but in the shadow of SS (R832 to
R842). -/
def Obligations.InterruptFlag : Prop :=
  (∀ s : State, s.pfx.lock = false →
    (s.pe = false ∨ s.cpl.toNat ≤ s.iopl.toNat →
      exec .cli s = completes s { s with eflags := s.eflags &&& 0xFFFFFDFF } ∧
      exec .sti s = completes s { s with
        eflags := s.eflags ||| 0x200, inhibit := if bit s.eflags 9 then s.inhibit else .sti }) ∧
    (s.pe = true → s.iopl.toNat < s.cpl.toNat →
      exec .cli s = faults s 13 (some 0) ∧ exec .sti s = faults s 13 (some 0)) ∧
    (s.pe = true → s.vm = true → s.iopl ≠ 3 →
      exec .pushf s = faults s 13 (some 0) ∧ exec .popf s = faults s 13 (some 0) ∧
      exec .iret s = faults s 13 (some 0) ∧ ∀ n, exec (.int n) s = faults s 13 (some 0))) ∧
  (∀ s : State, s.lines.reset = false → s.run ≠ .superstate →
    let b := s.boundary
    let on := fun i => bit b.dregs.dr7 (2 * i) || bit b.dregs.dr7 (2 * i + 1)
    let trap := b.pend.bs = true ∨ b.pend.bt = true ∨ ∃ i, i < 4 ∧ b.pend.hits.getLsbD i = true ∧ on i = true
    let here := fun i : Nat => decide (b.dregs.dr7.extractLsb' (16 + 4 * i) 2 = 0#2 ∧
      [b.dregs.dr0, b.dregs.dr1, b.dregs.dr2, b.dregs.dr3].getD i 0 = b.segs.cs.base + b.eip)
    let broken := ∃ i, i < 4 ∧ here i = true ∧ on i = true
    let bits := fun f : Nat → Bool =>
      (BitVec.ofBool (f 3) ++ BitVec.ofBool (f 2) ++ BitVec.ofBool (f 1) ++ BitVec.ofBool (f 0) : BitVec 4)
    let debug : Event := ⟨1, .exception, b.eip, none, false⟩
    step s =
      if trap ∧ b.inhibit ≠ .ss ∧ b.run ≠ .shutdown then
        deliver debug { b with
          dregs := { b.dregs with dr6 := b.dregs.dr6 ||| b.pend.hits.setWidth 32 |||
            ((if b.pend.bs then 0x4000 else 0) ||| (if b.pend.bt then 0x8000 else 0)) }
          pend := .none, run := .running }
      else if bit b.eflags 16 = false ∧ b.run = .running ∧ broken then
        deliver debug { b with
          dregs := { b.dregs with dr6 := b.dregs.dr6 ||| (bits here).setWidth 32 ||| 0 }
          inhibit := .none }
      else if b.lines.anmiPending = true ∧ b.cfg.part.hasAnmi = true ∧ b.ssv.enabled = true ∧ b.inhibit ≠ .ss ∧
          b.run ≠ .shutdown then
        .next { b.enterSsv b.eip b.regs.edx b.regs.ebx with lines := { b.lines with anmiPending := false } }
      else if b.lines.nmiPending = true ∧ b.nmiMasked = false ∧ b.inhibit ≠ .ss then
        deliverFrom 5 (fun t => { t with lines := { t.lines with nmiPending := false }, nmiMasked := true })
          ⟨2, .external, b.eip, none, false⟩ { b with run := .running }
      else if b.lines.intr = true ∧ bit b.eflags 9 = true ∧ b.inhibit = .none then
        deliver ⟨b.lines.intrVector, .external, b.eip, none, false⟩
          { b with run := .running, out := .intAck b.lines.intrVector :: b.out }
      else if b.run = .running then runInstr exec b
      else .next b) ∧
  (∀ s : State,
    let b := s.boundary
    b = { s with lines := { s.lines with stores := [] }, mem := b.mem, stale := b.stale, queue := b.queue
                 flushed := b.flushed, icache := b.icache, tlb := b.tlb, free := b.free, out := b.out
                 pend := if s.inhibit = .ss ∨ s.trapDue = true then s.pend else .none } ∧
    (s.pg = false → s.caches = false → s.cfg.physMap = [] → s.lines.flush = false → s.lines.stores = [] →
      b = { s with pend := b.pend }))

/-- Where a selector's descriptor is, with paging off: eight bytes at the table's base plus 8 times the index, in the
GDT or, with TI = 1, the LDT; none beyond the table's limit or without an LDT; reading it changes nothing in memory or
in any register. Setting its accessed bit changes no other bit of memory, and none where the descriptor does not lie in
RAM (R156, R171, R176, R101). -/
def Obligations.DescriptorFetch : Prop :=
  ∀ (s : State) (sel : BitVec 16) (d : Desc), s.pg = false →
    let index := (sel >>> 3).toNat
    let base := if sel.getLsbD 2 then s.ldtr.base else s.gdtr.base
    let limit := if sel.getLsbD 2 then s.ldtr.limit.toNat else s.gdtr.limit.toNat
    let at_ := base + BitVec.ofNat 32 (8 * index)
    let t := s.bus at_ 4
    (descFetch sel s = if (sel.getLsbD 2 = true ∧ s.ldtr.null = true) ∨ limit < 8 * index + 7 then .ok none s
      else .ok (some ⟨s.phys32 at_, t.phys32 (at_ + 4), at_⟩) (t.bus (at_ + 4) 4)) ∧
    ((∀ i, i < 8 → s.holds (at_ + BitVec.ofNat 32 i) = true) → (t.bus (at_ + 4) 4) = s) ∧
    (Mem.wf s.mem = true → (∀ i, i < 4 → s.holds (d.lin + 4 + BitVec.ofNat 32 i) = true) →
      ∃ t, setAccessed d s = .ok () t ∧
      t.phys32 (d.lin + 4) =
        (if s.kindAt (d.lin + 5) = .ram then s.phys32 (d.lin + 4) ||| 0x100 else s.phys32 (d.lin + 4)) ∧
      (∀ q, q ≠ d.lin + 5 → t.cell q = s.cell q) ∧
      t.regs = s.regs ∧ t.eflags = s.eflags ∧ t.segs = s.segs ∧ t.cpl = s.cpl ∧ t.pend = s.pend)

/-- Loading a segment register other than CS: outside protected mode the base is 16 times the selector; a null selector
goes into a data register and is #GP(0) for SS; otherwise the descriptor's kind and privilege are tested (#GP of the
selector), then its presence (#NP, for SS #SS), then its accessed bit is set and the register holds selector and
descriptor (R151 to R153, R155, R170, R172). -/
def Obligations.SegmentLoad : Prop :=
  ∀ (s : State) (k : Sreg) (sel : BitVec 16), k ≠ .cs →
    let old := s.segs.get k
    let code := some (sel &&& 0xFFFC)
    (s.pe = false →
      loadSeg k sel s = .ok () (s.setSeg k { old with sel := sel, base := sel.setWidth 32 <<< 4, null := false })) ∧
    (s.pe = true → s.vm = true → loadSeg k sel s = .ok () (s.setSeg k (SegReg.ofV86 sel))) ∧
    (s.prot = true → isNull sel = true → loadSeg k sel s = if k = .ss then .error (.exc ⟨13, some 0⟩) s
      else .ok () (s.setSeg k { old with sel := sel, null := true, attr := { old.attr with p := false } })) ∧
    (∀ u, s.prot = true → isNull sel = false → descFetch sel s = .ok none u →
      loadSeg k sel s = .error (.exc ⟨13, code⟩) u) ∧
    (∀ (d : Desc) (u : State), s.prot = true → isNull sel = false → descFetch sel s = .ok (some d) u →
      let allowed := if k = .ss then rpl sel = s.cpl ∧ d.isWritable = true ∧ d.dpl = s.cpl
        else d.isReadable = true ∧
          (d.isConforming = true ∨ (s.cpl.toNat ≤ d.dpl.toNat ∧ (rpl sel).toNat ≤ d.dpl.toNat))
      (¬ allowed → loadSeg k sel s = .error (.exc ⟨13, code⟩) u) ∧
      (allowed → d.p = false → loadSeg k sel s = .error (.exc ⟨if k = .ss then 12 else 11, code⟩) u) ∧
      (∀ v, allowed → d.p = true → setAccessed d u = .ok () v →
        loadSeg k sel s = .ok () (v.setSeg k (d.toReg sel))))

/-- MOV to and from segment registers, and LES, LDS, LSS, LFS, LGS: what the load does is SegmentLoad's; a load of SS by
MOV starts the interrupt shadow; MOV to CS and the two register numbers that do not exist, and a pointer load from a
register, are #UD; a store writes 16 bits to memory and zero-extends into a register (R586, R587, R590 to R592, R596,
D50). A pointer in memory is one operand, whose offsets do not wrap: where its segment does not allow all its bytes, the
load is #GP(0), #SS(0) through SS, with nothing changed (30_encoding.md R270). That this limit is tested before any
page, where R590 writes two reads, is the model's choice, assumption log 52; that both parts are checked before either
is read is its reading of 22_paging.md R224, assumption log 37. -/
def Obligations.SegmentMoves : Prop :=
  ∀ (s t t1 t2 u : State) (k : Sreg) (p : Place) (sel : BitVec 16) (r q : Reg) (rm : RM) (m : MemOp) (x y : Ref),
    s.pfx.lock = false →
    let n := s.ow.bytes
    let seg := s.segFor m.defaultSeg
    let ea := m.ea s.regs
    let whole := (s.segs.get seg).check s.prot ea.toNat (n + 2) false
    (k ≠ .cs → s.operand .w rm false p sel t → loadSeg k sel t = .ok () u →
      exec (.movToSreg (.reg k) rm) s = completes s (u.shadowed k)) ∧
    exec (.movToSreg (.reg .cs) rm) s = faults s 6 none ∧
    (∀ z, z = .reserved6 ∨ z = .reserved7 →
      exec (.movToSreg z rm) s = faults s 6 none ∧ exec (.movFromSreg rm z) s = faults s 6 none) ∧
    exec (.movFromSreg (.reg r) (.reg k)) s = completes s (s.setReg s.ow r ((s.segs.get k).sel.setWidth _)) ∧
    (locate .w (.mem m) true s = .ok p t →
      exec (.movFromSreg (.mem m) (.reg k)) s = completes s (p.put .w (s.segs.get k).sel t)) ∧
    (∀ i j, (i, j) ∈ [(Sreg.es, Instr.les), (.ds, .lds), (.ss, .lss), (.fs, .lfs), (.gs, .lgs)] →
      exec (j r (.reg q)) s = faults s 6 none ∧
      (whole = .violation → exec (j r (.mem m)) s = faults s (if seg = .ss then 12 else 13) (some 0)) ∧
      (whole = .ok → prepare seg ea n false s = .ok x t1 → prepare seg (ea + BitVec.ofNat 32 n) 2 false t1 = .ok y t2 →
        loadSeg i (BitVec.ofNat 16 (y.value (x.seen t2))) (y.seen (x.seen t2)) = .ok () u →
        exec (j r (.mem m)) s = completes s (u.setReg s.ow r (BitVec.ofNat _ (x.value t2)))))

/-! ## System instructions -/

/-- ARPL, LAR, LSL, VERR, VERW in protected mode; #UD outside it. ARPL raises the RPL of its operand to that of the
register and says so in ZF. The others look the selector up without a fault of its own: ZF says whether its descriptor
is visible, of the right kind, and reachable from CPL and RPL; LAR loads the access rights, bits 19:16 a free value, LSL
the limit in bytes. No descriptor is visible for a null selector, without an LDT, or beyond the table's limit; else it is
one read of eight bytes at the table's base plus 8 times the index, made by the processor for itself, and a page fault of
that read, over both its pages, is the only exception of the look-up and is delivered with nothing changed but what a
fault leaves (R611 to R616, R300, D55, D56). -/
def Obligations.SelectorChecks : Prop :=
  ∀ (s t u : State) (rm : RM) (r : Reg) (p : Place) (sel : BitVec 16) (o : Option Desc), s.pfx.lock = false →
    (s.prot = false → ∀ i, i ∈ [Instr.arpl rm r, .lar r rm, .lsl r rm, .verr rm, .verw rm] →
      exec i s = faults s 6 none) ∧
    (s.prot = true → s.operand .w rm true p sel t →
      let src : BitVec 16 := s.reg .w r
      let raised : BitVec 16 := (sel &&& 0xFFFC) ||| (rpl src).setWidth 16
      exec (.arpl rm r) s = if (rpl sel).toNat < (rpl src).toNat
        then completes s ((p.put .w raised t).setFlag 6 true)
        else completes s (t.setFlag 6 false)) ∧
    (s.prot = true → s.operand .w rm false p sel t → inspect sel t = .ok o u →
      let sees := fun kind : Desc → Bool => o.filter fun d => kind d &&
        (d.isConforming || (decide (s.cpl.toNat ≤ d.dpl.toNat) && decide ((rpl sel).toNat ≤ d.dpl.toNat)))
      exec (.verr rm) s = completes s (u.setFlag 6 (sees Desc.isReadable).isSome) ∧
      exec (.verw rm) s = completes s (u.setFlag 6 (sees Desc.isWritable).isSome) ∧
      exec (.lsl r rm) s = (match sees fun d => d.isSeg || d.type ∈ [1#5, 2#5, 3#5, 9#5, 11#5] with
        | none => completes s (u.setFlag 6 false)
        | some d => completes s ((u.setReg s.ow r (d.limit.setWidth _)).setFlag 6 true)) ∧
      exec (.lar r rm) s =
        (match sees fun d => d.isSeg || d.type ∈ [1#5, 2#5, 3#5, 4#5, 5#5, 9#5, 11#5, 12#5] with
        | none => completes s (u.setFlag 6 false)
        | some d =>
          let v : Dword := (d.hi &&& 0x00F0FF00) ||| (Config.undefDword u.free &&& 0x000F0000)
          completes s ((u.drew.setReg s.ow r (v.setWidth _)).setFlag 6 true))) ∧
    (∀ x : Exn, s.prot = true → s.operand .w rm false p sel t → inspect sel t = .error (.exc x) u →
      x.vector = 14 ∧ ∀ i, i ∈ [Instr.lar r rm, .lsl r rm, .verr rm, .verw rm] →
        exec i s = deliver (faultEvent x s.eip) (s.rollback u)) ∧
    (let index := (sel >>> 3).toNat
     let base := if sel.getLsbD 2 then t.ldtr.base else t.gdtr.base
     let limit := if sel.getLsbD 2 then t.ldtr.limit.toNat else t.gdtr.limit.toNat
     let at_ := base + BitVec.ofNat 32 (8 * index)
     let absent := isNull sel = true ∨ (sel.getLsbD 2 = true ∧ t.ldtr.null = true) ∨ limit < 8 * index + 7
     (absent → inspect sel t = .ok none t) ∧
     (¬ absent →
      (∀ v, linRead at_ 8 t = .ok v u →
        inspect sel t = .ok (some ⟨BitVec.ofNat 32 v, BitVec.ofNat 32 (v / 2 ^ 32), at_⟩) u) ∧
      (∀ e, linRead at_ 8 t = .error e u → inspect sel t = .error e u) ∧
      (t.pg = false → inspect sel t = .ok (some ⟨t.phys32 at_, t.phys32 (at_ + 4), at_⟩) (t.bus at_ 8))))

/-- LLDT, LTR, SLDT, STR in protected mode, #UD outside it: LLDT of a null selector makes the LDT unusable; the selector
must name a present LDT, or available TSS, in the GDT; LTR makes the TSS busy and switches no task (R174, R176, R622 to
R625). -/
def Obligations.SystemSegments : Prop :=
  ∀ (s t u v : State) (rm : RM) (p : Place) (sel : BitVec 16) (d : Desc), s.pfx.lock = false →
    (s.prot = false → ∀ i, i ∈ [Instr.sldt rm, .str rm, .lldt rm, .ltr rm] → exec i s = faults s 6 none) ∧
    (s.prot = true → locate .w rm true s = .ok p t →
      exec (.sldt rm) s = completes s (p.put .w s.ldtr.sel t) ∧
      exec (.str rm) s = completes s (p.put .w s.tr.sel t)) ∧
    (s.prot = true → s.cpl = 0 → s.operand .w rm false p sel t →
      (loadLdtr sel t = .ok () u → exec (.lldt rm) s = completes s u) ∧
      (loadTr sel t = .ok () u → exec (.ltr rm) s = completes s u)) ∧
    (let code := some (sel &&& 0xFFFC)
     (isNull sel = true → loadTr sel t = .error (.exc ⟨13, some 0⟩) t ∧
      ∃ w, loadLdtr sel t = .ok () w ∧ w.ldtr.null = true ∧ w.ldtr.sel = sel ∧ w = { t with ldtr := w.ldtr }) ∧
     (isNull sel = false → selTI sel = true →
      loadLdtr sel t = .error (.exc ⟨13, code⟩) t ∧ loadTr sel t = .error (.exc ⟨13, code⟩) t) ∧
     (isNull sel = false → selTI sel = false → descFetch sel t = .ok (some d) u →
      (d.type ≠ 2 → loadLdtr sel t = .error (.exc ⟨13, code⟩) u) ∧
      (d.type = 2 → d.p = false → loadLdtr sel t = .error (.exc ⟨11, code⟩) u) ∧
      (d.type = 2 → d.p = true → loadLdtr sel t = .ok () { u with ldtr := d.toReg sel }) ∧
      (d.type ≠ 1 → d.type ≠ 9 → loadTr sel t = .error (.exc ⟨13, code⟩) u) ∧
      (d.type = 1 ∨ d.type = 9 → d.p = false → loadTr sel t = .error (.exc ⟨11, code⟩) u) ∧
      (d.type = 1 ∨ d.type = 9 → d.p = true → setBusy d u = .ok () v →
        loadTr sel t = .ok () { v with tr := d.toBusyReg sel })))

/-- LGDT and LIDT load limit and base from six bytes of memory, SGDT and SIDT store them; with OS = 16 the base has 24
bits and the last byte stored is a free value; a register operand is #UD. The six bytes are one operand, whose offsets
do not wrap: where its segment does not allow them all, #GP(0), #SS(0) through SS, with nothing changed (30_encoding.md
R270); that this limit is tested before any page is the model's choice, assumption log 52, and that both parts are
checked before either is read its reading of 22_paging.md R224, assumption log 37. SMSW stores the low word of CR0, LMSW
loads PE, MP, EM, TS and cannot clear PE; where it sets PE, CPL becomes bits 1:0 of
CS's selector (R48) or stays 0 (R626), by a parameter, the model's choice for two rules that differ, assumption log 53;
CLTS clears TS (R617 to R621, R626, R627, R635,
D57, D58, U6). -/
def Obligations.TablesAndMachineStatus : Prop :=
  ∀ (s t1 t2 : State) (m : MemOp) (x y : Ref) (rm : RM) (p : Place) (v : BitVec 16) (q : Reg), s.pfx.lock = false →
    let seg := s.segFor m.defaultSeg
    let second := m.ea s.regs + 2
    let whole := (s.segs.get seg).check s.prot (m.ea s.regs).toNat 6
    let refused := faults s (if seg = .ss then 12 else 13) (some 0)
    (∀ i, i ∈ [Instr.sgdt, .sidt, .lgdt, .lidt] → exec (i (.reg q)) s = faults s 6 none) ∧
    (s.level = 0 → whole false = .violation → exec (.lgdt (.mem m)) s = refused ∧ exec (.lidt (.mem m)) s = refused) ∧
    (whole true = .violation → exec (.sgdt (.mem m)) s = refused ∧ exec (.sidt (.mem m)) s = refused) ∧
    (s.level = 0 → whole false = .ok → prepare seg (m.ea s.regs) 2 false s = .ok x t1 →
      prepare seg second 4 false t1 = .ok y t2 →
      let u := x.seen t2
      let base : Dword := BitVec.ofNat 32 (y.value u)
      let table : TableReg := ⟨if s.os32 then base else base &&& 0x00FFFFFF, BitVec.ofNat 16 (x.value t2)⟩
      exec (.lgdt (.mem m)) s = completes s { y.seen u with gdtr := table } ∧
      exec (.lidt (.mem m)) s = completes s { y.seen u with idtr := table }) ∧
    (whole true = .ok → prepare seg (m.ea s.regs) 2 true s = .ok x t1 → prepare seg second 4 true t1 = .ok y t2 →
      let stores := fun table : TableReg =>
        let base := if s.os32 then table.base
          else (Config.undefDword t2.free &&& 0xFF000000) ||| (table.base &&& 0x00FFFFFF)
        completes s (y.stored base.toNat (x.stored table.limit.toNat t2.drew))
      exec (.sgdt (.mem m)) s = stores s.gdtr ∧ exec (.sidt (.mem m)) s = stores s.idtr) ∧
    (locate .w rm true s = .ok p t1 → exec (.smsw rm) s = completes s (p.put .w (s.cr0.extractLsb' 0 16) t1)) ∧
    (s.level = 0 → s.operand .w rm false p v t1 →
      let enters := s.pe = false ∧ v.getLsbD 0 = true
      exec (.lmsw rm) s = completes s { t1 with
        cr0 := (s.cr0 &&& 0xFFFFFFF1) ||| (v.setWidth 32 &&& 0xF)
        cpl := if enters then (if s.cfg.lmswKeepsCpl then 0 else rpl s.segs.cs.sel) else s.cpl
        queue := if enters then [] else t1.queue }) ∧
    (s.level = 0 → exec .clts s = completes s { s with cr0 := s.cr0 &&& 0xFFFFFFF7 })

/-- MOV to and from control, debug and test registers: MOD must be 11 and the register exist, else #UD; then level 0,
else #GP(0); then, for a debug register, general detect: with DR7.GD set a debug fault, BD set in DR6 and GD cleared;
then the move, and the six status flags undefined. CR0 keeps all but PG, TS, EM, MP, PE, and PG without PE is #GP(0);
where PE becomes 1, CPL is what CS's selector says (the model's reading, assumption log 17), in real mode it is 0; where
PG becomes 0, each entry of the TLB stays valid or not, a free value; a write of CR3 drops its low 12 bits and
invalidates the TLB, and with paging on at most sixteen bytes fetched ahead keep their old translation; a write of TR6
performs its TLB command, paging off (R628 to R633, R836, R234, R48, R814, R139, D5, D80). The write command puts TR6's
page and attributes with TR7's page into the way TR7 names or the counter's, which uncounted references have moved, and
leaves every other entry; the search command returns the one entry of the set, valid or not, whose page and attributes
match in TR6 and TR7, with PL = 1, and otherwise only clears PL, TR7's page and REP open; TR7's bits 11:5 and 1:0 stay
as written (R241 to R244). -/
def Obligations.SpecialRegisters : Prop :=
  (∀ (s : State) (mod : BitVec 2) (n : BitVec 3) (r : Reg), s.pfx.lock = false →
    let cr := n = 0 ∨ n = 2 ∨ n = 3
    let dr := n ≠ 4 ∧ n ≠ 5
    let tr := n = 6 ∨ n = 7
    let v : Dword := s.reg .d r
    let moved := fun t : State => completes s t.flagsOpen
    let ordered := fun (i : Instr) (defined : Prop) =>
      (mod ≠ 3 ∨ ¬ defined → exec i s = faults s 6 none) ∧
      (mod = 3 → defined → s.level ≠ 0 → exec i s = faults s 13 (some 0))
    let loads := fun x : Dword => moved (s.setReg .d r x)
    ordered (.movFromCr mod n r) cr ∧ ordered (.movToCr mod n r) cr ∧ ordered (.movFromDr mod n r) dr ∧
    ordered (.movToDr mod n r) dr ∧ ordered (.movFromTr mod n r) tr ∧ ordered (.movToTr mod n r) tr ∧
    (mod = 3 → s.level = 0 →
      (n = 0 → exec (.movFromCr mod n r) s = loads s.cr0 ∧
        exec (.movToCr mod n r) s = if bit v 31 = true ∧ bit v 0 = false then faults s 13 (some 0)
          else moved { s with
            cr0 := (s.cr0 &&& 0x7FFFFFF0) ||| (v &&& 0x8000000F)
            cpl := if bit v 0 = s.pe then s.cpl else if bit v 0 then rpl s.segs.cs.sel else 0
            queue := if bit v 0 = s.pe ∧ bit v 31 = s.pg then s.queue else []
            tlb := if s.pg = true ∧ bit v 31 = false then s.tlb.retained (Config.tlbRetained s.free) else s.tlb
            free := if s.pg = true ∧ bit v 31 = false then s.free + 1 else s.free }) ∧
      (n = 2 → exec (.movFromCr mod n r) s = loads s.cr2 ∧
        exec (.movToCr mod n r) s = moved { s with cr2 := v }) ∧
      (n = 3 → exec (.movFromCr mod n r) s = loads s.cr3 ∧
        exec (.movToCr mod n r) s = moved { s.keepAhead with cr3 := v &&& 0xFFFFF000, tlb := s.keepAhead.tlb.flush }) ∧
      (dr → bit s.dregs.dr7 13 = true →
        let trapped := deliver (faultEvent ⟨1, none⟩ s.eip) { s with dregs := { s.dregs with
          dr6 := s.dregs.dr6 ||| 0x2000, dr7 := s.dregs.dr7 &&& 0xFFFFDFFF } }
        exec (.movFromDr mod n r) s = trapped ∧ exec (.movToDr mod n r) s = trapped) ∧
      (bit s.dregs.dr7 13 = false →
        let d := s.dregs
        ∀ i x y, (i, x, y) ∈ [(0#3, d.dr0, { d with dr0 := v }), (1#3, d.dr1, { d with dr1 := v }),
            (2#3, d.dr2, { d with dr2 := v }), (3#3, d.dr3, { d with dr3 := v }), (6#3, d.dr6, { d with dr6 := v }),
            (7#3, d.dr7, { d with dr7 := v })] →
          exec (.movFromDr mod i r) s = loads x ∧ exec (.movToDr mod i r) s = moved { s with dregs := y }) ∧
      (exec (.movFromTr mod 6 r) s = loads s.tr6 ∧ exec (.movFromTr mod 7 r) s = loads s.tr7 ∧
        exec (.movToTr mod 7 r) s = moved { s with tr7 := v } ∧
        exec (.movToTr mod 6 r) s = if s.pg then .refused .tlbTestWithPaging
          else moved ((if bit v 0 then tlbSearchCommand else tlbWriteCommand) v (Config.undefDword s.free)
            { s.drew with tr6 := v })))) ∧
  (∀ s : State, (s.pg = false → s.keepAhead = s) ∧
    (let t := s.keepAhead
     t = { s with queue := t.queue, flushed := t.flushed, mem := t.mem, stale := t.stale, icache := t.icache,
                  tlb := t.tlb, free := t.free, out := t.out } ∧
     (s.pg = true → t.queue.length ≤ 16 ∧ ∀ i (h : i < t.queue.length),
       t.queue[i].1 = s.segs.cs.base + (s.nextEip + BitVec.ofNat 32 i)))) ∧
  ((∀ (t : Tlb) (m : BitVec 32) (i : Fin 32), (t.retained m).counter = t.counter ∧ (t.retained m).fetch = t.fetch ∧
    (t.retained m).entries[i] = { t.entries[i] with v := t.entries[i].v && m.getLsbD i.val }) ∧
  (∀ (s : State) (c u : Dword),
    let page := c.extractLsb' 12 20
    let pair := fun i : Nat => c.extractLsb' i 2
    let t := tlbWriteCommand c u s
    let way := if bit s.tr7 4 then s.tr7.extractLsb' 2 2 else s.tlb.counter + Config.tlbVictim s.free
    let e := t.tlb.entries[tlbIndex page way]
    e.v = bit c 11 ∧ e.tag = page ∧ e.pa = s.tr7.extractLsb' 12 20 ∧
    (∀ i x, (i, x) ∈ [(9, e.d), (7, e.u), (5, e.w)] → (pair i = 1 → x = false) ∧ (pair i = 2 → x = true)) ∧
    (∀ i : Fin 32, i ≠ tlbIndex page way → t.tlb.entries[i] = s.tlb.entries[i]) ∧
    t = { s with tlb := { s.tlb with entries := t.tlb.entries } }) ∧
  (∀ (s : State) (c u : Dword),
    let page := c.extractLsb' 12 20
    let t := tlbSearchCommand c u s
    let matched := fun (i : Nat) (b : Bool) =>
      let pair := c.extractLsb' i 2
      pair = 3 ∨ (pair = 1 ∧ b = false) ∨ (pair = 2 ∧ b = true)
    let finds := fun k : BitVec 2 =>
      let e := s.tlb.entries[tlbIndex page k]
      e.tag = page ∧ matched 9 e.d ∧ matched 7 e.u ∧ matched 5 e.w
    t = { s with tr6 := t.tr6, tr7 := t.tr7 } ∧
    t.tr7.extractLsb' 5 7 = s.tr7.extractLsb' 5 7 ∧ t.tr7.extractLsb' 0 2 = s.tr7.extractLsb' 0 2 ∧
    (∀ k, finds k → (∀ j, finds j → j = k) →
      let e := s.tlb.entries[tlbIndex page k]
      t.tr7.extractLsb' 12 20 = e.pa ∧ bit t.tr7 4 = true ∧ t.tr7.extractLsb' 2 2 = k ∧
      t.tr6.extractLsb' 12 20 = page ∧ bit t.tr6 11 = e.v ∧
      (∀ i x, (i, x) ∈ [(9, e.d), (7, e.u), (5, e.w)] → t.tr6.extractLsb' i 2 = if x then 2 else 1)) ∧
    ((¬ ∃ k, finds k ∧ ∀ j, finds j → j = k) → bit t.tr7 4 = false ∧ t.tr6 = s.tr6)))

/-- The instructions reserved for level 0 raise #GP(0), before an operand is read, when CPL is not 0, in protected and
in virtual-8086 mode: CLTS, HLT, LGDT, LIDT, LMSW, the MOV forms of control, debug and test registers, and, where they
are recognised, LLDT and LTR, which virtual-8086 mode and real mode do not know; in real mode none of them does: each
completes with its own effect, and LLDT and LTR are #UD (R752, R610). Where MOV CR0 or LMSW sets PE, CPL is what CS's
selector says, as R48 and R814 have it, or, by a parameter, stays 0 behind LMSW, as R626 says: the model's choice for
two rules that differ, assumption logs 17 and 53. That LGDT and LIDT test the limit of all six bytes before any page is
the model's choice, assumption log 52, and that they check both parts before either is read its reading of 22_paging.md
R224, assumption log 37. -/
def Obligations.PrivilegedInstructions : Prop :=
  (∀ (s : State) (rm : RM) (m : MemOp) (r : Reg) (n : BitVec 3), s.pfx.lock = false → s.pe = true → s.cpl ≠ 0 →
    (∀ i, i ∈ [Instr.clts, .hlt, .lgdt (.mem m), .lidt (.mem m), .lmsw rm] → exec i s = faults s 13 (some 0)) ∧
    (n = 0 ∨ n = 2 ∨ n = 3 →
      exec (.movFromCr 3 n r) s = faults s 13 (some 0) ∧ exec (.movToCr 3 n r) s = faults s 13 (some 0)) ∧
    (n ≠ 4 → n ≠ 5 →
      exec (.movFromDr 3 n r) s = faults s 13 (some 0) ∧ exec (.movToDr 3 n r) s = faults s 13 (some 0)) ∧
    (n = 6 ∨ n = 7 →
      exec (.movFromTr 3 n r) s = faults s 13 (some 0) ∧ exec (.movToTr 3 n r) s = faults s 13 (some 0)) ∧
    (∀ i, i = Instr.lldt rm ∨ i = .ltr rm → exec i s = if s.vm then faults s 6 none else faults s 13 (some 0))) ∧
  (∀ (s t1 t2 : State) (rm : RM) (m : MemOp) (x y : Ref) (p : Place) (w : BitVec 16) (r : Reg),
    s.pfx.lock = false → s.pe = false →
    let v : Dword := s.reg .d r
    let moved := fun t : State => completes s t.flagsOpen
    let loads := fun a : Dword => moved (s.setReg .d r a)
    let d := s.dregs
    let set := fun (c : Dword) (pe pg : Bool) => { s with
      cr0 := c, cpl := if pe then rpl s.segs.cs.sel else s.cpl, queue := if pe = false ∧ pg = s.pg then s.queue else []
      tlb := if s.pg = true ∧ pg = false then s.tlb.retained (Config.tlbRetained s.free) else s.tlb
      free := if s.pg = true ∧ pg = false then s.free + 1 else s.free }
    exec .clts s = completes s { s with cr0 := s.cr0 &&& 0xFFFFFFF7 } ∧
    exec .hlt s = completes s ({ s with run := .halted }.tell (.haltCycle 0)) ∧
    ((s.segs.get (s.segFor m.defaultSeg)).check false (m.ea s.regs).toNat 6 false = .ok →
      prepare (s.segFor m.defaultSeg) (m.ea s.regs) 2 false s = .ok x t1 →
      prepare (s.segFor m.defaultSeg) (m.ea s.regs + 2) 4 false t1 = .ok y t2 →
      let u := x.seen t2
      let base : Dword := BitVec.ofNat 32 (y.value u)
      let table : TableReg := ⟨if s.os32 then base else base &&& 0x00FFFFFF, BitVec.ofNat 16 (x.value t2)⟩
      exec (.lgdt (.mem m)) s = completes s { y.seen u with gdtr := table } ∧
      exec (.lidt (.mem m)) s = completes s { y.seen u with idtr := table }) ∧
    (s.operand .w rm false p w t1 →
      exec (.lmsw rm) s = completes s { t1 with
        cr0 := (s.cr0 &&& 0xFFFFFFF1) ||| (w.setWidth 32 &&& 0xF)
        cpl := if w.getLsbD 0 then (if s.cfg.lmswKeepsCpl then 0 else rpl s.segs.cs.sel) else s.cpl
        queue := if w.getLsbD 0 then [] else t1.queue }) ∧
    exec (.movFromCr 3 0 r) s = loads s.cr0 ∧ exec (.movFromCr 3 2 r) s = loads s.cr2 ∧
    exec (.movFromCr 3 3 r) s = loads s.cr3 ∧
    (bit v 31 = false ∨ bit v 0 = true → exec (.movToCr 3 0 r) s =
      moved (set ((s.cr0 &&& 0x7FFFFFF0) ||| (v &&& 0x8000000F)) (bit v 0) (bit v 31))) ∧
    exec (.movToCr 3 2 r) s = moved { s with cr2 := v } ∧
    (s.pg = false → exec (.movToCr 3 3 r) s = moved { s with cr3 := v &&& 0xFFFFF000, tlb := s.tlb.flush }) ∧
    (bit d.dr7 13 = false → ∀ i a b, (i, a, b) ∈ [(0#3, d.dr0, { d with dr0 := v }), (1#3, d.dr1, { d with dr1 := v }),
        (2#3, d.dr2, { d with dr2 := v }), (3#3, d.dr3, { d with dr3 := v }), (6#3, d.dr6, { d with dr6 := v }),
        (7#3, d.dr7, { d with dr7 := v })] →
      exec (.movFromDr 3 i r) s = loads a ∧ exec (.movToDr 3 i r) s = moved { s with dregs := b }) ∧
    exec (.movFromTr 3 6 r) s = loads s.tr6 ∧ exec (.movFromTr 3 7 r) s = loads s.tr7 ∧
    exec (.movToTr 3 7 r) s = moved { s with tr7 := v } ∧
    (s.pg = false → exec (.movToTr 3 6 r) s =
      moved ((if bit v 0 then tlbSearchCommand else tlbWriteCommand) v (Config.undefDword s.free)
        { s.drew with tr6 := v })) ∧
    exec (.lldt rm) s = faults s 6 none ∧ exec (.ltr rm) s = faults s 6 none)

/-- Outside level 0 no instruction, and no exception it takes, changes the table registers, a breakpoint address, the
test registers, CR0 but for TS, the enable bits of the instruction cache and of SuperState V, the event lines, or the
parameters (R752, R664). -/
def Obligations.UserKeepsSystemRegisters : Prop :=
  ∀ (i : Instr) (s t : State), s.pe = true → s.cpl ≠ 0 → exec i s = .next t →
    t.gdtr = s.gdtr ∧ t.idtr = s.idtr ∧ t.tr6 = s.tr6 ∧ t.tr7 = s.tr7 ∧ t.dregs.dr0 = s.dregs.dr0 ∧
    t.dregs.dr1 = s.dregs.dr1 ∧ t.dregs.dr2 = s.dregs.dr2 ∧ t.dregs.dr3 = s.dregs.dr3 ∧
    t.cr0 &&& 0xFFFFFFF7 = s.cr0 &&& 0xFFFFFFF7 ∧ t.icache.enabled = s.icache.enabled ∧
    t.ssv.enabled = s.ssv.enabled ∧ t.lines = s.lines ∧ t.cfg = s.cfg

/-- SCALL on a part with SuperState V: which functions succeed (CF = 0), with the value they return; which fail (CF = 1,
the operand all ones); a vector with bit 31 set enters SuperState V once it is enabled, with EDX, BH and the return EIP
as the rule says. On the other parts #UD (R664, D33, D62). A cache enabled again holds a part of what it held, by free
values; one that is enabled stays as it is (R138). What entering SuperState V leaves: the descriptor read from the
address chosen, EIP, EFLAGS, EDX, EBX and CS saved as they were, EDX and EBX loaded, CPL 0, everything else as it was,
and the next step is in SuperState V, which this manual does not give (R852, R854, R855, R866); that eight bytes are
read, from ordinary memory, and where the items are saved, is the model's choice, assumption log 14; and so is that the
record of debug traps stays and takes the single step of the SCALL, assumption log 57. -/
def Obligations.ScallResult : Prop :=
  (∀ (s t : State) (r : Reg) (rm : RM) (p : Place) (v : Dword), s.pfx.lock = false →
    (s.cfg.part.hasSsv = false → exec (.scall r rm) s = faults s 6 none) ∧
    (s.cfg.part.hasSsv = true → s.operand .d rm true p v t →
      let gives := fun x : Dword => completes s (p.put .d x (t.setFlag 0 false))
      let done := fun u : State => completes s (u.setFlag 0 false)
      let fails := completes s (p.put .d 0xFFFFFFFF (t.setFlag 0 true))
      let cached := s.cfg.part.hasIcache = true
      (v = 0 → exec (.scall r rm) s = gives (0#16 ++ s.cfg.stepping ++ s.cfg.part.typeCode)) ∧
      (v = 1 ∨ v = 2 → exec (.scall r rm) s = if s.level = 0
        then done { t with ssv := { t.ssv with enabled := true, secondary := v == 2 } } else fails) ∧
      (v = 4 → exec (.scall r rm) s = if s.level = 0 ∧ cached
        then done { t with icache := { t.icache with enabled := false } } else fails) ∧
      (v = 5 → exec (.scall r rm) s = if s.level = 0 ∧ cached
        then done { t.drew with icache := t.icache.enable t.free } else fails) ∧
      (v = 6 → exec (.scall r rm) s = gives (if cached ∧ s.icache.enabled = true then 1 else 0)) ∧
      (v = 7 → exec (.scall r rm) s = if cached then done { t with icache := t.icache.flush } else fails) ∧
      (v = 3 ∨ (8 ≤ v.toNat ∧ v.toNat < 2 ^ 31) → exec (.scall r rm) s = fails) ∧
      (2 ^ 31 ≤ v.toNat → exec (.scall r rm) s = if s.ssv.enabled
        then completes s (t.enterSsv t.nextEip v
          (t.regs.ebx.extractLsb' 16 16 ++ (rm.enc r.num).headD 0 ++ t.regs.ebx.extractLsb' 0 8))
        else fails))) ∧
  (∀ (c : ICache) (k : Nat) (i : Fin 32), (c.enable k).enabled = true ∧ (c.enabled = true → c.enable k = c) ∧
    (c.enabled = false → (c.enable k).lines[i] =
      { c.lines[i] with valid := c.lines[i].valid &&& Config.icacheKept k i.val })) ∧
  (∀ (s : State) (ret edx ebx : Dword),
    let at_ : Dword := if s.ssv.secondary then 0x000EFFC0 else 0x000FFFC0
    let t := s.enterSsv ret edx ebx
    t.ssv = { s.ssv with
      desc := s.phys32 (at_ + 4) ++ s.phys32 at_
      save := { eip := ret, eflags := s.eflags, edx := s.regs.edx, ebx := s.regs.ebx, cs := s.segs.cs } } ∧
    t = { s.bus at_ 8 with ssv := t.ssv, regs := { s.regs with edx := edx, ebx := ebx }, run := .superstate,
                           cpl := 0, stale := [], queue := [], flushed := [], again := none } ∧
    (t.lines.reset = false → step t = .refused .insideSuperState))

/-- HLT halts and signals it. WAIT: #NM with MP and TS set, #MF on ERROR, with EM set only where a parameter says so,
else it waits while BUSY is active, the instruction being the next step again in the shadow it began in, without a
single step (the model's reading, assumption log 40), and then does nothing. ESC: #NM with EM or TS set or no
coprocessor, #MF on ERROR, else the coprocessor's, which the manual does not give. The SuperState V opcodes outside it
and the undefined opcodes are #UD (R646, R655, R656, R684, R693, R728, R300, R301, R303, D61). R656 says that EM does
not affect WAIT, R693 and R728 that EM = 1 keeps it from raising #MF: the parameter is the model's choice for the two,
assumption log 53. -/
def Obligations.HaltWaitEscape : Prop :=
  ∀ s : State,
    (s.pfx.lock = false →
      let em := bit s.cr0 2 = true
      let ts := bit s.cr0 3 = true
      let mp := bit s.cr0 1 = true
      (s.level = 0 → exec .hlt s = completes s ({ s with run := .halted }.tell (.haltCycle 0))) ∧
      exec .wait s = (if mp ∧ ts then faults s 7 none
        else if s.lines.error = true ∧ ¬ (em ∧ s.cfg.emMasksWait = true) then faults s 16 none
        else if s.lines.busy then
          .next { (State.complete { s with nextEip := s.eip } true false) with inhibit := s.held }
        else completes s s) ∧
      ∀ op ext rm, exec (.esc op ext rm) s =
        if em ∨ ts ∨ s.cfg.coprocessorPresent = false then faults s 7 none
        else if s.lines.error then faults s 16 none else .refused .coprocessor) ∧
    (∀ n, exec (.ssvLow n) s = faults s 6 none) ∧ (∀ n, exec (.ssvHigh n) s = faults s 6 none) ∧
    (∀ u, exec (.undefined u) s = faults s 6 none)
end

