-- ==== Sys2Proof/Laws/Control.lean ====
section
/-!
SUPPORT. Laws/Control.lean: what the shared operations of the stack, the transfers, the privilege tests and the segment
loads answer, each said once.
-/
namespace Sys2Proof.Machine

/-! ## The stack -/

/-- Preparing pushes changes no register, no flag and no byte of memory. -/
theorem preparePushes_ok {ss : SegReg} {c : BitVec 16} {u : Bool} : ∀ {items : List (Nat × Nat)} {sp spEnd : Dword}
    {l : List (Ref × Nat)} {s t : State}, preparePushes ss c u sp items s = .ok (l, spEnd) t → Prepared s t
  | [], _, _, _, s, t, h => by cases h; exact .refl s
  | (n, v) :: rest, sp, spEnd, l, s, t, h => by
    simp only [preparePushes] at h
    obtain ⟨r, t1, h1, h⟩ := op_bind_eq_ok h
    obtain ⟨⟨l', e⟩, t2, h2, h⟩ := op_bind_eq_ok h
    cases h
    exact (prepareVia_ok h1).trans (preparePushes_ok h2)

/-- A push of several items that can be prepared stores them and moves the stack pointer below the last. -/
theorem pushItems_ok {items : List (Nat × Nat)} {s t : State} {l : List (Ref × Nat)} {sp : Dword}
    (h : preparePushes s.segs.ss 0 s.user s.sp items s = .ok (l, sp) t) :
    pushItems items s = .ok () ((storedAll l t).setSp sp) := by
  simp only [pushItems, op_get_bind]
  rw [op_bind_ok h, op_bind_ok (writeAll_run l t), op_modify]

/-- One item goes right below the stack pointer. -/
theorem preparePushes_one {n v : Nat} {s s' t : State} {x : Ref} (h : prepare .ss (s.below n) n true s' = .ok x t)
    (hs : s'.segs = s.segs) (hc : s'.cpl = s.cpl) :
    preparePushes s.segs.ss 0 s.user s.sp [(n, v)] s' = .ok ([(x, v)], s.below n) t := by
  have h' : prepareVia s.segs.ss true 0 (s.below n) n true s.user s' = .ok x t := by
    unfold prepare at h
    rw [op_get_bind, hs] at h
    unfold State.user at h ⊢
    rw [hc] at h
    exact h
  unfold preparePushes
  exact (op_bind_ok h').trans rfl

/-- A push of one item. -/
theorem pushItems_one {n v : Nat} {s t : State} {x : Ref} (h : prepare .ss (s.below n) n true s = .ok x t) :
    pushItems [(n, v)] s = .ok () ((x.stored v t).setSp (s.below n)) :=
  pushItems_ok (preparePushes_one h rfl rfl)

/-- A pop reads at the stack pointer and moves it up. -/
theorem pop_ok {n : Nat} {s t : State} {x : Ref} (h : prepare .ss s.sp n false s = .ok x t) :
    pop n s = .ok (x.value t) ((x.seen t).setSp (s.above n)) := by
  simp only [pop, op_get_bind]
  rw [op_bind_ok (memRead_ok h)]
  rfl

/-- A read on the stack, k bytes above an offset. -/
theorem stackRead_ok {sp : Dword} {k n : Nat} {s t : State} {x : Ref}
    (h : prepare .ss (spAdd s.segs.ss.attr.db sp (BitVec.ofNat 32 k)) n false s = .ok x t) :
    stackRead sp k n s = .ok (x.value t) (x.seen t) := by
  simp only [stackRead, op_get_bind]
  exact memRead_ok h

/-- Preparing reads on the stack changes no register, no flag and no byte of memory. -/
theorem prepareStack_ok {sp : Dword} {n : Nat} : ∀ {ks : List Nat} {s t : State} {l : List Ref},
    prepareStack sp n ks s = .ok l t → Prepared s t
  | [], s, t, l, h => by cases h; exact .refl s
  | k :: rest, s, t, l, h => by
    simp only [prepareStack, op_get_bind] at h
    obtain ⟨r, t1, h1, h⟩ := op_bind_eq_ok h
    obtain ⟨l', t2, h2, h⟩ := op_bind_eq_ok h
    cases h
    exact (prepare_ok h1).trans (prepareStack_ok h2)

/-- Several reads on the stack: once all are prepared, they are made in order. -/
theorem stackReads_ok {sp : Dword} {n : Nat} {ks : List Nat} {s t : State} {l : List Ref}
    (h : prepareStack sp n ks s = .ok l t) : stackReads sp n ks s = .ok (readAllAt l t).1 (readAllAt l t).2 := by
  simp only [stackReads]
  rw [op_bind_ok h, readRefs_run]

/-- A selector as a stack item. -/
theorem selItem_run (n : Nat) (sel : BitVec 16) (s : State) :
    selItem n sel s = .ok (s.itemOf n sel).1 (s.itemOf n sel).2 := by
  unfold selItem State.itemOf
  by_cases h : n = 4
  · subst h; rfl
  · simp only [h, if_false]; rfl

/-! ## Tests -/

/-- A target within the limit of CS passes. -/
theorem nearCheck_ok {t : Dword} {s : State} (h : t.toNat ≤ s.segs.cs.limit.toNat) : nearCheck t s = .ok () s := by
  simp only [nearCheck, op_get_bind, op_ite, if_neg (Nat.not_lt.mpr h), op_pure]

/-- A target beyond the limit of CS is #GP(0). -/
theorem nearCheck_gp {t : Dword} {s : State} (h : s.segs.cs.limit.toNat < t.toNat) :
    nearCheck t s = .error (.exc ⟨13, some 0⟩) s := by
  simp only [nearCheck, op_get_bind, op_ite, if_pos h, raiseGP_run]

theorem nearBranch_ok {t : Dword} {s : State} (h : t.toNat ≤ s.segs.cs.limit.toNat) :
    nearBranch t s = .ok () (s.jump t) := by
  simp only [nearBranch]
  rw [op_bind_ok (nearCheck_ok h), op_modify]

theorem nearBranch_gp {t : Dword} {s : State} (h : s.segs.cs.limit.toNat < t.toNat) :
    nearBranch t s = .error (.exc ⟨13, some 0⟩) s := by
  simp only [nearBranch]
  rw [op_bind_error (nearCheck_gp h)]

theorem requireCpl0_ok {s : State} (h : s.level = 0) : requireCpl0 s = .ok () s := by
  simp [requireCpl0, h]

theorem requireCpl0_gp {s : State} (h : s.level ≠ 0) : requireCpl0 s = .error (.exc ⟨13, some 0⟩) s := by
  unfold requireCpl0
  rw [op_get_bind, op_ite, if_pos h, raiseGP_run]

theorem requireProtected_ok {s : State} (h : s.prot = true) : requireProtected s = .ok () s := by
  simp [requireProtected, h]

theorem requireProtected_ud {s : State} (h : s.prot = false) :
    requireProtected s = .error (.exc ⟨6, none⟩) s := by
  simp [requireProtected, h]

theorem requireIopl_ok {s : State} (h : s.pe = false ∨ s.cpl.toNat ≤ s.iopl.toNat) : requireIopl s = .ok () s := by
  have : (s.pe && decide (s.iopl.toNat < s.cpl.toNat)) = false := by
    rcases h with h | h
    · simp [h]
    · simp [Nat.not_lt.mpr h]
  unfold requireIopl
  rw [op_get_bind, op_ite, this]
  rfl

theorem requireIopl_gp {s : State} (h : s.pe = true) (h' : s.iopl.toNat < s.cpl.toNat) :
    requireIopl s = .error (.exc ⟨13, some 0⟩) s := by
  simp [requireIopl, h, h']

theorem requireIopl3_ok {s : State} (h : s.v86 = false ∨ s.iopl = 3) : requireIopl3 s = .ok () s := by
  rcases h with h | h <;> simp [requireIopl3, h]

theorem requireIopl3_gp {s : State} (h : s.pe = true) (hv : s.vm = true) (h' : s.iopl ≠ 3) :
    requireIopl3 s = .error (.exc ⟨13, some 0⟩) s := by
  unfold requireIopl3 State.v86
  rw [op_get_bind, op_ite, h, hv, if_pos (by simpa using h'), raiseGP_run]

/-! ## Loads and transfers -/

/-- CS loaded in real or virtual-8086 mode, and the jump. -/
theorem commitReal_run {sel : BitVec 16} {off : Dword} {s : State} (h : s.prot = false) :
    commitReal sel off s = .ok () ((s.setSeg .cs (s.realCs sel)).jump off) := by
  unfold commitReal loadSeg
  rw [op_bind, op_get_bind]
  unfold State.prot at h
  unfold State.realCs
  cases hp : s.pe
  · simp [Segs.get]
  · simp only [hp, Bool.true_and, Bool.not_eq_false'] at h
    simp [h]

/-- The pointer of a memory form: the offset, then the selector right behind it; both are checked first. -/
theorem farPointer_mem {s t1 t2 : State} {m : MemOp} {x y : Ref}
    (h1 : prepare (s.segFor m.defaultSeg) (m.ea s.regs) s.ow.bytes false s = .ok x t1)
    (h2 : prepare (s.segFor m.defaultSeg) (eaAdd m.is32 (m.ea s.regs) (BitVec.ofNat 32 s.ow.bytes)) 2 false t1
      = .ok y t2) :
    farPointer s (.rmOp (.mem m)) s
      = .ok (BitVec.ofNat 16 (y.value (x.seen t2)), BitVec.ofNat 32 (x.value t2)) (y.seen (x.seen t2)) := by
  simp only [farPointer, memOperand, op_bind, op_get, op_pure, readParts_ok h1 h2]

/-- A register is no far pointer. -/
theorem farPointer_reg {s : State} {r : Reg} : farPointer s (.rmOp (.reg r)) s = .error (.exc ⟨6, none⟩) s := rfl

/-! ## Exceptions of a meaning -/

/-- A meaning that raises an exception before it changes anything. -/
theorem run_faults {lockable : Bool} {x : Op Unit} {s : State} {v : Byte} {c : Option (BitVec 16)}
    (hl : s.pfx.lock = true → lockable = true) (hz : v ≠ 0) (h : x s = .error (.exc ⟨v, c⟩) s) :
    run lockable x s = faults s v c := by
  rw [run_exc hl h]
  simp only [State.undone, if_neg (fun h : v = 0 ∧ _ => hz h.1), rollback_self, faults]

/-- A meaning that says how it ends and raises an exception: it is undone and the exception delivered. -/
theorem runEnd_exc {lockable : Bool} {x : Op End} {s t : State} {e : Exn} (hl : s.pfx.lock = true → lockable = true)
    (h : x s = .error (.exc e) t) : runEnd lockable x s = deliver (faultEvent e s.eip) (s.undone t e) := by
  have hc : checkLock lockable s = .ok () s := by
    simp only [checkLock, op_bind, op_get, op_ite]
    cases hp : s.pfx.lock <;> cases lockable <;> simp_all
  unfold runEnd
  rw [op_bind_ok hc, h]
  rfl

/-- A meaning that says how it ends and raises an exception before it changes anything. -/
theorem runEnd_faults {lockable : Bool} {x : Op End} {s : State} {v : Byte} {c : Option (BitVec 16)}
    (hl : s.pfx.lock = true → lockable = true) (hz : v ≠ 0) (h : x s = .error (.exc ⟨v, c⟩) s) :
    runEnd lockable x s = faults s v c := by
  rw [runEnd_exc hl h]
  simp only [State.undone, if_neg (fun h : v = 0 ∧ _ => hz h.1), rollback_self, faults]

/-- An instruction whose prefix state holds no LOCK may run whether LOCK is allowed or not. -/
theorem lock_free {s : State} (h : s.pfx.lock = false) {b : Bool} : s.pfx.lock = true → b = true := by simp [h]

end Sys2Proof.Machine
end

