-- ==== Sys2Proof/Laws/PerInstr.lean ====
section
/-!
SUPPORT. Laws/PerInstr.lean: the encoding of every well-formed instruction has 1 to 11 bytes, within the 15 that R251
allows with prefixes; one lemma for each constructor.
-/
namespace Sys2Proof.Laws

theorem RM_enc_length (k : BitVec 3) (rm : RM) : 1 ≤ (rm.enc k).length ∧ (rm.enc k).length ≤ 6 := by
  rcases rm with r | m
  · simp [RM.enc]
  · rcases m with d | ⟨b, d⟩ | d | ⟨b, d⟩ | ⟨s, i, b, d⟩ | ⟨s, i, d⟩ <;>
      first
      | (simp [RM.enc, MemOp.enc, le16, le32]; done)
      | (cases d <;> simp [RM.enc, MemOp.enc, Disp16.enc, Disp32.enc, le16, le32])

theorem Imm_enc_length (i : Imm) : 2 ≤ i.enc.length ∧ i.enc.length ≤ 4 := by
  cases i <;> simp [Imm.enc, le16, le32]

/-- The bounds of a list of bytes that the family states. -/
def Short (l : List Byte) : Prop := 1 ≤ l.length ∧ l.length ≤ 11

theorem short_1 (a : Byte) : Short [a] := by simp [Short]

theorem short_2 (a b : Byte) : Short [a, b] := by simp [Short]

theorem short_3 (a b c : Byte) : Short [a, b, c] := by simp [Short]

theorem short_4 (a b c d : Byte) : Short [a, b, c, d] := by simp [Short]

theorem short_rm1 (a : Byte) (k : BitVec 3) (rm : RM) : Short (a :: rm.enc k) := by
  have := RM_enc_length k rm; simp only [Short, List.length_cons]; omega

theorem short_rm2 (a b : Byte) (k : BitVec 3) (rm : RM) : Short (a :: b :: rm.enc k) := by
  have := RM_enc_length k rm; simp only [Short, List.length_cons]; omega

theorem short_rm1_byte (a c : Byte) (k : BitVec 3) (rm : RM) : Short (a :: (rm.enc k ++ [c])) := by
  have := RM_enc_length k rm; simp only [Short, List.length_cons, List.length_append, List.length_nil]; omega

theorem short_rm2_byte (a b c : Byte) (k : BitVec 3) (rm : RM) : Short (a :: b :: (rm.enc k ++ [c])) := by
  have := RM_enc_length k rm; simp only [Short, List.length_cons, List.length_append, List.length_nil]; omega

theorem short_rm1_imm (a : Byte) (k : BitVec 3) (rm : RM) (i : Imm) : Short (a :: (rm.enc k ++ i.enc)) := by
  have := RM_enc_length k rm; have := Imm_enc_length i
  simp only [Short, List.length_cons, List.length_append]; omega

theorem short_imm1 (a : Byte) (i : Imm) : Short (a :: i.enc) := by
  have := Imm_enc_length i; simp only [Short, List.length_cons]; omega

theorem short_imm2 (a b : Byte) (i : Imm) : Short (a :: b :: i.enc) := by
  have := Imm_enc_length i; simp only [Short, List.length_cons]; omega

theorem short_pointer (a : Byte) (i : Imm) (s : BitVec 16) : Short (a :: (i.enc ++ le16 s)) := by
  have := Imm_enc_length i
  simp only [Short, List.length_cons, List.length_append, le16, List.length_nil]; omega

theorem short_alu (k : BitVec 3) (f : AluForm) : Short (f.enc k) := by
  cases f <;> first
    | exact short_rm1 _ _ _ | exact short_rm1_byte _ _ _ _ | exact short_rm1_imm _ _ _ _ | exact short_imm1 _ _
    | simp [AluForm.enc, Short]

theorem short_test (f : TestForm) : Short f.enc := by
  cases f <;> first
    | exact short_rm1 _ _ _ | exact short_rm1_byte _ _ _ _ | exact short_rm1_imm _ _ _ _ | exact short_imm1 _ _
    | simp [TestForm.enc, Short]

theorem short_mov (f : MovForm) : Short f.enc := by
  cases f <;> first
    | exact short_rm1 _ _ _ | exact short_rm1_byte _ _ _ _ | exact short_rm1_imm _ _ _ _ | exact short_imm1 _ _
    | simp [MovForm.enc, Short]

theorem short_push (f : PushForm) : Short f.enc := by
  cases f <;> first | exact short_rm1 _ _ _ | exact short_imm1 _ _ | simp [PushForm.enc, Short]

theorem short_pop (f : PopForm) : Short f.enc := by
  cases f <;> first | exact short_rm1 _ _ _ | simp [PopForm.enc, Short]

theorem short_xchg (f : XchgForm) : Short f.enc := by
  cases f <;> first | exact short_rm1 _ _ _ | simp [XchgForm.enc, Short]

theorem short_shift (k : BitVec 3) (w : Bool) (rm : RM) (c : ShiftCount) : Short (encShift k w rm c) := by
  cases c <;> first | exact short_rm1 _ _ _ | exact short_rm1_byte _ _ _ _

theorem short_double (op : Byte) (rm : RM) (r : Reg) (c : DoubleCount) : Short (encDouble op rm r c) := by
  cases c <;> first | exact short_rm2 _ _ _ _ | exact short_rm2_byte _ _ _ _ _

theorem short_bit (op : Byte) (k : BitVec 3) (f : BitForm) : Short (f.enc op k) := by
  cases f <;> first | exact short_rm2 _ _ _ _ | exact short_rm2_byte _ _ _ _ _

theorem short_imul (f : ImulForm) : Short f.enc := by
  cases f <;> first
    | exact short_rm1 _ _ _ | exact short_rm2 _ _ _ _ | exact short_rm1_byte _ _ _ _ | exact short_rm1_imm _ _ _ _

theorem short_inc (k : BitVec 1) (f : IncForm) : Short (f.enc k) := by
  cases f <;> first | exact short_rm1 _ _ _ | simp [IncForm.enc, Short]

theorem short_port (op : Byte) (f : PortForm) : Short (f.enc op) := by
  cases f <;> simp [PortForm.enc, Short]

theorem short_jcc (k : BitVec 4) (f : JccForm) : Short (f.enc k) := by
  cases f <;> first | exact short_imm2 _ _ _ | simp [JccForm.enc, Short]

theorem short_jmp (f : JmpForm) : Short f.enc := by
  cases f <;> first | exact short_rm1 _ _ _ | exact short_imm1 _ _ | simp [JmpForm.enc, Short]

theorem short_call (f : CallForm) : Short f.enc := by
  cases f <;> first | exact short_rm1 _ _ _ | exact short_imm1 _ _

theorem short_far (op : Byte) (k : BitVec 3) (f : FarForm) : Short (f.enc op k) := by
  cases f <;> first | exact short_rm1 _ _ _ | exact short_pointer _ _ _

theorem short_pushSreg (k : Sreg) : Short (encPushSreg k) := by
  cases k <;> simp [encPushSreg, Short]

theorem short_popSreg (k : Sreg) (h : k ≠ .cs) : Short (encPopSreg k) := by
  cases k <;> simp_all [encPopSreg, Short]

theorem short_undef (u : Undef) : Short u.enc := by
  cases u <;> simp [Undef.enc, Short]

/-- The encoding of a well-formed instruction has 1 to 11 bytes. -/
def EncodeLength.Statement (i : Instr) : Prop := ∀ z, i.wf z = true → Short (encode i)

theorem EncodeLength.segEs : EncodeLength.Statement .segEs := fun _ _ => short_1 _
theorem EncodeLength.segCs : EncodeLength.Statement .segCs := fun _ _ => short_1 _
theorem EncodeLength.segSs : EncodeLength.Statement .segSs := fun _ _ => short_1 _
theorem EncodeLength.segDs : EncodeLength.Statement .segDs := fun _ _ => short_1 _
theorem EncodeLength.segFs : EncodeLength.Statement .segFs := fun _ _ => short_1 _
theorem EncodeLength.segGs : EncodeLength.Statement .segGs := fun _ _ => short_1 _
theorem EncodeLength.opsize : EncodeLength.Statement .opsize := fun _ _ => short_1 _
theorem EncodeLength.adrsize : EncodeLength.Statement .adrsize := fun _ _ => short_1 _
theorem EncodeLength.lock : EncodeLength.Statement .lock := fun _ _ => short_1 _
theorem EncodeLength.repne : EncodeLength.Statement .repne := fun _ _ => short_1 _
theorem EncodeLength.rep : EncodeLength.Statement .rep := fun _ _ => short_1 _
theorem EncodeLength.add (f : AluForm) : EncodeLength.Statement (.add f) := fun _ _ => short_alu _ _
theorem EncodeLength.or_ (f : AluForm) : EncodeLength.Statement (.or_ f) := fun _ _ => short_alu _ _
theorem EncodeLength.adc (f : AluForm) : EncodeLength.Statement (.adc f) := fun _ _ => short_alu _ _
theorem EncodeLength.sbb (f : AluForm) : EncodeLength.Statement (.sbb f) := fun _ _ => short_alu _ _
theorem EncodeLength.and_ (f : AluForm) : EncodeLength.Statement (.and_ f) := fun _ _ => short_alu _ _
theorem EncodeLength.sub (f : AluForm) : EncodeLength.Statement (.sub f) := fun _ _ => short_alu _ _
theorem EncodeLength.xor_ (f : AluForm) : EncodeLength.Statement (.xor_ f) := fun _ _ => short_alu _ _
theorem EncodeLength.cmp (f : AluForm) : EncodeLength.Statement (.cmp f) := fun _ _ => short_alu _ _
theorem EncodeLength.test (f : TestForm) : EncodeLength.Statement (.test f) := fun _ _ => short_test _
theorem EncodeLength.mov (f : MovForm) : EncodeLength.Statement (.mov f) := fun _ _ => short_mov _
theorem EncodeLength.movFromSreg (rm : RM) (k : SregField) : EncodeLength.Statement (.movFromSreg rm k) :=
  fun _ _ => short_rm1 _ _ _
theorem EncodeLength.movToSreg (k : SregField) (rm : RM) : EncodeLength.Statement (.movToSreg k rm) :=
  fun _ _ => short_rm1 _ _ _
theorem EncodeLength.movFromCr (mod : BitVec 2) (n : BitVec 3) (r : Reg) : EncodeLength.Statement (.movFromCr mod n r) :=
  fun _ _ => short_3 _ _ _
theorem EncodeLength.movToCr (mod : BitVec 2) (n : BitVec 3) (r : Reg) : EncodeLength.Statement (.movToCr mod n r) :=
  fun _ _ => short_3 _ _ _
theorem EncodeLength.movFromDr (mod : BitVec 2) (n : BitVec 3) (r : Reg) : EncodeLength.Statement (.movFromDr mod n r) :=
  fun _ _ => short_3 _ _ _
theorem EncodeLength.movToDr (mod : BitVec 2) (n : BitVec 3) (r : Reg) : EncodeLength.Statement (.movToDr mod n r) :=
  fun _ _ => short_3 _ _ _
theorem EncodeLength.movFromTr (mod : BitVec 2) (n : BitVec 3) (r : Reg) : EncodeLength.Statement (.movFromTr mod n r) :=
  fun _ _ => short_3 _ _ _
theorem EncodeLength.movToTr (mod : BitVec 2) (n : BitVec 3) (r : Reg) : EncodeLength.Statement (.movToTr mod n r) :=
  fun _ _ => short_3 _ _ _
theorem EncodeLength.push (f : PushForm) : EncodeLength.Statement (.push f) := fun _ _ => short_push _
theorem EncodeLength.pushSreg (k : Sreg) : EncodeLength.Statement (.pushSreg k) := fun _ _ => short_pushSreg _
theorem EncodeLength.pop (f : PopForm) : EncodeLength.Statement (.pop f) := fun _ _ => short_pop _
theorem EncodeLength.popSreg (k : Sreg) : EncodeLength.Statement (.popSreg k) :=
  fun _ h => short_popSreg k (by simpa [Instr.wf] using h)
theorem EncodeLength.xchg (f : XchgForm) : EncodeLength.Statement (.xchg f) := fun _ _ => short_xchg _
theorem EncodeLength.nop : EncodeLength.Statement .nop := fun _ _ => short_1 _
theorem EncodeLength.movzx (wide : Bool) (r : Reg) (rm : RM) : EncodeLength.Statement (.movzx wide r rm) :=
  fun _ _ => short_rm2 _ _ _ _
theorem EncodeLength.movsx (wide : Bool) (r : Reg) (rm : RM) : EncodeLength.Statement (.movsx wide r rm) :=
  fun _ _ => short_rm2 _ _ _ _
theorem EncodeLength.cbw : EncodeLength.Statement .cbw := fun _ _ => short_1 _
theorem EncodeLength.cwde : EncodeLength.Statement .cwde := fun _ _ => short_1 _
theorem EncodeLength.cwd : EncodeLength.Statement .cwd := fun _ _ => short_1 _
theorem EncodeLength.cdq : EncodeLength.Statement .cdq := fun _ _ => short_1 _
theorem EncodeLength.pusha : EncodeLength.Statement .pusha := fun _ _ => short_1 _
theorem EncodeLength.popa : EncodeLength.Statement .popa := fun _ _ => short_1 _
theorem EncodeLength.lea (r : Reg) (rm : RM) : EncodeLength.Statement (.lea r rm) := fun _ _ => short_rm1 _ _ _
theorem EncodeLength.les (r : Reg) (rm : RM) : EncodeLength.Statement (.les r rm) := fun _ _ => short_rm1 _ _ _
theorem EncodeLength.lds (r : Reg) (rm : RM) : EncodeLength.Statement (.lds r rm) := fun _ _ => short_rm1 _ _ _
theorem EncodeLength.lss (r : Reg) (rm : RM) : EncodeLength.Statement (.lss r rm) := fun _ _ => short_rm2 _ _ _ _
theorem EncodeLength.lfs (r : Reg) (rm : RM) : EncodeLength.Statement (.lfs r rm) := fun _ _ => short_rm2 _ _ _ _
theorem EncodeLength.lgs (r : Reg) (rm : RM) : EncodeLength.Statement (.lgs r rm) := fun _ _ => short_rm2 _ _ _ _
theorem EncodeLength.rol (wide : Bool) (rm : RM) (c : ShiftCount) : EncodeLength.Statement (.rol wide rm c) :=
  fun _ _ => short_shift _ _ _ _
theorem EncodeLength.ror (wide : Bool) (rm : RM) (c : ShiftCount) : EncodeLength.Statement (.ror wide rm c) :=
  fun _ _ => short_shift _ _ _ _
theorem EncodeLength.rcl (wide : Bool) (rm : RM) (c : ShiftCount) : EncodeLength.Statement (.rcl wide rm c) :=
  fun _ _ => short_shift _ _ _ _
theorem EncodeLength.rcr (wide : Bool) (rm : RM) (c : ShiftCount) : EncodeLength.Statement (.rcr wide rm c) :=
  fun _ _ => short_shift _ _ _ _
theorem EncodeLength.shl (isAlias : Bool) (wide : Bool) (rm : RM) (c : ShiftCount) : EncodeLength.Statement (.shl isAlias wide rm c) :=
  fun _ _ => short_shift _ _ _ _
theorem EncodeLength.shr (wide : Bool) (rm : RM) (c : ShiftCount) : EncodeLength.Statement (.shr wide rm c) :=
  fun _ _ => short_shift _ _ _ _
theorem EncodeLength.sar (wide : Bool) (rm : RM) (c : ShiftCount) : EncodeLength.Statement (.sar wide rm c) :=
  fun _ _ => short_shift _ _ _ _
theorem EncodeLength.shld (rm : RM) (r : Reg) (c : DoubleCount) : EncodeLength.Statement (.shld rm r c) :=
  fun _ _ => short_double _ _ _ _
theorem EncodeLength.shrd (rm : RM) (r : Reg) (c : DoubleCount) : EncodeLength.Statement (.shrd rm r c) :=
  fun _ _ => short_double _ _ _ _
theorem EncodeLength.bt (f : BitForm) : EncodeLength.Statement (.bt f) := fun _ _ => short_bit _ _ _
theorem EncodeLength.bts (f : BitForm) : EncodeLength.Statement (.bts f) := fun _ _ => short_bit _ _ _
theorem EncodeLength.btr (f : BitForm) : EncodeLength.Statement (.btr f) := fun _ _ => short_bit _ _ _
theorem EncodeLength.btc (f : BitForm) : EncodeLength.Statement (.btc f) := fun _ _ => short_bit _ _ _
theorem EncodeLength.bsf (r : Reg) (rm : RM) : EncodeLength.Statement (.bsf r rm) := fun _ _ => short_rm2 _ _ _ _
theorem EncodeLength.bsr (r : Reg) (rm : RM) : EncodeLength.Statement (.bsr r rm) := fun _ _ => short_rm2 _ _ _ _
theorem EncodeLength.imul (f : ImulForm) : EncodeLength.Statement (.imul f) := fun _ _ => short_imul _
theorem EncodeLength.mul (wide : Bool) (rm : RM) : EncodeLength.Statement (.mul wide rm) := fun _ _ => short_rm1 _ _ _
theorem EncodeLength.div (wide : Bool) (rm : RM) : EncodeLength.Statement (.div wide rm) := fun _ _ => short_rm1 _ _ _
theorem EncodeLength.idiv (wide : Bool) (rm : RM) : EncodeLength.Statement (.idiv wide rm) :=
  fun _ _ => short_rm1 _ _ _
theorem EncodeLength.not_ (wide : Bool) (rm : RM) : EncodeLength.Statement (.not_ wide rm) :=
  fun _ _ => short_rm1 _ _ _
theorem EncodeLength.neg (wide : Bool) (rm : RM) : EncodeLength.Statement (.neg wide rm) := fun _ _ => short_rm1 _ _ _
theorem EncodeLength.inc (f : IncForm) : EncodeLength.Statement (.inc f) := fun _ _ => short_inc _ _
theorem EncodeLength.dec (f : IncForm) : EncodeLength.Statement (.dec f) := fun _ _ => short_inc _ _
theorem EncodeLength.daa : EncodeLength.Statement .daa := fun _ _ => short_1 _
theorem EncodeLength.das : EncodeLength.Statement .das := fun _ _ => short_1 _
theorem EncodeLength.aaa : EncodeLength.Statement .aaa := fun _ _ => short_1 _
theorem EncodeLength.aas : EncodeLength.Statement .aas := fun _ _ => short_1 _
theorem EncodeLength.aam (i : BitVec 8) : EncodeLength.Statement (.aam i) := fun _ _ => short_2 _ _
theorem EncodeLength.aad (i : BitVec 8) : EncodeLength.Statement (.aad i) := fun _ _ => short_2 _ _
theorem EncodeLength.in_ (f : PortForm) : EncodeLength.Statement (.in_ f) := fun _ _ => short_port _ _
theorem EncodeLength.out (f : PortForm) : EncodeLength.Statement (.out f) := fun _ _ => short_port _ _
theorem EncodeLength.insb : EncodeLength.Statement .insb := fun _ _ => short_1 _
theorem EncodeLength.insv : EncodeLength.Statement .insv := fun _ _ => short_1 _
theorem EncodeLength.outsb : EncodeLength.Statement .outsb := fun _ _ => short_1 _
theorem EncodeLength.outsv : EncodeLength.Statement .outsv := fun _ _ => short_1 _
theorem EncodeLength.movsb : EncodeLength.Statement .movsb := fun _ _ => short_1 _
theorem EncodeLength.movsv : EncodeLength.Statement .movsv := fun _ _ => short_1 _
theorem EncodeLength.cmpsb : EncodeLength.Statement .cmpsb := fun _ _ => short_1 _
theorem EncodeLength.cmpsv : EncodeLength.Statement .cmpsv := fun _ _ => short_1 _
theorem EncodeLength.stosb : EncodeLength.Statement .stosb := fun _ _ => short_1 _
theorem EncodeLength.stosv : EncodeLength.Statement .stosv := fun _ _ => short_1 _
theorem EncodeLength.lodsb : EncodeLength.Statement .lodsb := fun _ _ => short_1 _
theorem EncodeLength.lodsv : EncodeLength.Statement .lodsv := fun _ _ => short_1 _
theorem EncodeLength.scasb : EncodeLength.Statement .scasb := fun _ _ => short_1 _
theorem EncodeLength.scasv : EncodeLength.Statement .scasv := fun _ _ => short_1 _
theorem EncodeLength.jo (f : JccForm) : EncodeLength.Statement (.jo f) := fun _ _ => short_jcc _ _
theorem EncodeLength.jno (f : JccForm) : EncodeLength.Statement (.jno f) := fun _ _ => short_jcc _ _
theorem EncodeLength.jb (f : JccForm) : EncodeLength.Statement (.jb f) := fun _ _ => short_jcc _ _
theorem EncodeLength.jnb (f : JccForm) : EncodeLength.Statement (.jnb f) := fun _ _ => short_jcc _ _
theorem EncodeLength.jz (f : JccForm) : EncodeLength.Statement (.jz f) := fun _ _ => short_jcc _ _
theorem EncodeLength.jnz (f : JccForm) : EncodeLength.Statement (.jnz f) := fun _ _ => short_jcc _ _
theorem EncodeLength.jbe (f : JccForm) : EncodeLength.Statement (.jbe f) := fun _ _ => short_jcc _ _
theorem EncodeLength.jnbe (f : JccForm) : EncodeLength.Statement (.jnbe f) := fun _ _ => short_jcc _ _
theorem EncodeLength.js (f : JccForm) : EncodeLength.Statement (.js f) := fun _ _ => short_jcc _ _
theorem EncodeLength.jns (f : JccForm) : EncodeLength.Statement (.jns f) := fun _ _ => short_jcc _ _
theorem EncodeLength.jp (f : JccForm) : EncodeLength.Statement (.jp f) := fun _ _ => short_jcc _ _
theorem EncodeLength.jnp (f : JccForm) : EncodeLength.Statement (.jnp f) := fun _ _ => short_jcc _ _
theorem EncodeLength.jl (f : JccForm) : EncodeLength.Statement (.jl f) := fun _ _ => short_jcc _ _
theorem EncodeLength.jnl (f : JccForm) : EncodeLength.Statement (.jnl f) := fun _ _ => short_jcc _ _
theorem EncodeLength.jle (f : JccForm) : EncodeLength.Statement (.jle f) := fun _ _ => short_jcc _ _
theorem EncodeLength.jnle (f : JccForm) : EncodeLength.Statement (.jnle f) := fun _ _ => short_jcc _ _
theorem EncodeLength.seto (rm : RM) : EncodeLength.Statement (.seto rm) := fun _ _ => short_rm2 _ _ _ _
theorem EncodeLength.setno (rm : RM) : EncodeLength.Statement (.setno rm) := fun _ _ => short_rm2 _ _ _ _
theorem EncodeLength.setb (rm : RM) : EncodeLength.Statement (.setb rm) := fun _ _ => short_rm2 _ _ _ _
theorem EncodeLength.setnb (rm : RM) : EncodeLength.Statement (.setnb rm) := fun _ _ => short_rm2 _ _ _ _
theorem EncodeLength.setz (rm : RM) : EncodeLength.Statement (.setz rm) := fun _ _ => short_rm2 _ _ _ _
theorem EncodeLength.setnz (rm : RM) : EncodeLength.Statement (.setnz rm) := fun _ _ => short_rm2 _ _ _ _
theorem EncodeLength.setbe (rm : RM) : EncodeLength.Statement (.setbe rm) := fun _ _ => short_rm2 _ _ _ _
theorem EncodeLength.setnbe (rm : RM) : EncodeLength.Statement (.setnbe rm) := fun _ _ => short_rm2 _ _ _ _
theorem EncodeLength.sets (rm : RM) : EncodeLength.Statement (.sets rm) := fun _ _ => short_rm2 _ _ _ _
theorem EncodeLength.setns (rm : RM) : EncodeLength.Statement (.setns rm) := fun _ _ => short_rm2 _ _ _ _
theorem EncodeLength.setp (rm : RM) : EncodeLength.Statement (.setp rm) := fun _ _ => short_rm2 _ _ _ _
theorem EncodeLength.setnp (rm : RM) : EncodeLength.Statement (.setnp rm) := fun _ _ => short_rm2 _ _ _ _
theorem EncodeLength.setl (rm : RM) : EncodeLength.Statement (.setl rm) := fun _ _ => short_rm2 _ _ _ _
theorem EncodeLength.setnl (rm : RM) : EncodeLength.Statement (.setnl rm) := fun _ _ => short_rm2 _ _ _ _
theorem EncodeLength.setle (rm : RM) : EncodeLength.Statement (.setle rm) := fun _ _ => short_rm2 _ _ _ _
theorem EncodeLength.setnle (rm : RM) : EncodeLength.Statement (.setnle rm) := fun _ _ => short_rm2 _ _ _ _
theorem EncodeLength.jmpNear (f : JmpForm) : EncodeLength.Statement (.jmpNear f) := fun _ _ => short_jmp _
theorem EncodeLength.jmpFar (f : FarForm) : EncodeLength.Statement (.jmpFar f) := fun _ _ => short_far _ _ _
theorem EncodeLength.callNear (f : CallForm) : EncodeLength.Statement (.callNear f) := fun _ _ => short_call _
theorem EncodeLength.callFar (f : FarForm) : EncodeLength.Statement (.callFar f) := fun _ _ => short_far _ _ _
theorem EncodeLength.retNear (n : Option (BitVec 16)) : EncodeLength.Statement (.retNear n) :=
  fun _ _ => by cases n <;> first | exact short_1 _ | exact short_3 _ _ _
theorem EncodeLength.retFar (n : Option (BitVec 16)) : EncodeLength.Statement (.retFar n) :=
  fun _ _ => by cases n <;> first | exact short_1 _ | exact short_3 _ _ _
theorem EncodeLength.int3 : EncodeLength.Statement .int3 := fun _ _ => short_1 _
theorem EncodeLength.int (n : BitVec 8) : EncodeLength.Statement (.int n) := fun _ _ => short_2 _ _
theorem EncodeLength.into : EncodeLength.Statement .into := fun _ _ => short_1 _
theorem EncodeLength.iret : EncodeLength.Statement .iret := fun _ _ => short_1 _
theorem EncodeLength.loopne (rel : BitVec 8) : EncodeLength.Statement (.loopne rel) := fun _ _ => short_2 _ _
theorem EncodeLength.loope (rel : BitVec 8) : EncodeLength.Statement (.loope rel) := fun _ _ => short_2 _ _
theorem EncodeLength.loop (rel : BitVec 8) : EncodeLength.Statement (.loop rel) := fun _ _ => short_2 _ _
theorem EncodeLength.jcxz (rel : BitVec 8) : EncodeLength.Statement (.jcxz rel) := fun _ _ => short_2 _ _
theorem EncodeLength.enter (size : BitVec 16) (level : BitVec 8) : EncodeLength.Statement (.enter size level) :=
  fun _ _ => short_4 _ _ _ _
theorem EncodeLength.leave : EncodeLength.Statement .leave := fun _ _ => short_1 _
theorem EncodeLength.bound (r : Reg) (rm : RM) : EncodeLength.Statement (.bound r rm) := fun _ _ => short_rm1 _ _ _
theorem EncodeLength.arpl (rm : RM) (r : Reg) : EncodeLength.Statement (.arpl rm r) := fun _ _ => short_rm1 _ _ _
theorem EncodeLength.wait : EncodeLength.Statement .wait := fun _ _ => short_1 _
theorem EncodeLength.pushf : EncodeLength.Statement .pushf := fun _ _ => short_1 _
theorem EncodeLength.popf : EncodeLength.Statement .popf := fun _ _ => short_1 _
theorem EncodeLength.sahf : EncodeLength.Statement .sahf := fun _ _ => short_1 _
theorem EncodeLength.lahf : EncodeLength.Statement .lahf := fun _ _ => short_1 _
theorem EncodeLength.xlatb : EncodeLength.Statement .xlatb := fun _ _ => short_1 _
theorem EncodeLength.esc (op : BitVec 3) (ext : BitVec 3) (rm : RM) : EncodeLength.Statement (.esc op ext rm) :=
  fun _ _ => short_rm1 _ _ _
theorem EncodeLength.hlt : EncodeLength.Statement .hlt := fun _ _ => short_1 _
theorem EncodeLength.cmc : EncodeLength.Statement .cmc := fun _ _ => short_1 _
theorem EncodeLength.clc : EncodeLength.Statement .clc := fun _ _ => short_1 _
theorem EncodeLength.stc : EncodeLength.Statement .stc := fun _ _ => short_1 _
theorem EncodeLength.cli : EncodeLength.Statement .cli := fun _ _ => short_1 _
theorem EncodeLength.sti : EncodeLength.Statement .sti := fun _ _ => short_1 _
theorem EncodeLength.cld : EncodeLength.Statement .cld := fun _ _ => short_1 _
theorem EncodeLength.std : EncodeLength.Statement .std := fun _ _ => short_1 _
theorem EncodeLength.sldt (rm : RM) : EncodeLength.Statement (.sldt rm) := fun _ _ => short_rm2 _ _ _ _
theorem EncodeLength.str (rm : RM) : EncodeLength.Statement (.str rm) := fun _ _ => short_rm2 _ _ _ _
theorem EncodeLength.lldt (rm : RM) : EncodeLength.Statement (.lldt rm) := fun _ _ => short_rm2 _ _ _ _
theorem EncodeLength.ltr (rm : RM) : EncodeLength.Statement (.ltr rm) := fun _ _ => short_rm2 _ _ _ _
theorem EncodeLength.verr (rm : RM) : EncodeLength.Statement (.verr rm) := fun _ _ => short_rm2 _ _ _ _
theorem EncodeLength.verw (rm : RM) : EncodeLength.Statement (.verw rm) := fun _ _ => short_rm2 _ _ _ _
theorem EncodeLength.sgdt (rm : RM) : EncodeLength.Statement (.sgdt rm) := fun _ _ => short_rm2 _ _ _ _
theorem EncodeLength.sidt (rm : RM) : EncodeLength.Statement (.sidt rm) := fun _ _ => short_rm2 _ _ _ _
theorem EncodeLength.lgdt (rm : RM) : EncodeLength.Statement (.lgdt rm) := fun _ _ => short_rm2 _ _ _ _
theorem EncodeLength.lidt (rm : RM) : EncodeLength.Statement (.lidt rm) := fun _ _ => short_rm2 _ _ _ _
theorem EncodeLength.smsw (rm : RM) : EncodeLength.Statement (.smsw rm) := fun _ _ => short_rm2 _ _ _ _
theorem EncodeLength.lmsw (rm : RM) : EncodeLength.Statement (.lmsw rm) := fun _ _ => short_rm2 _ _ _ _
theorem EncodeLength.lar (r : Reg) (rm : RM) : EncodeLength.Statement (.lar r rm) := fun _ _ => short_rm2 _ _ _ _
theorem EncodeLength.lsl (r : Reg) (rm : RM) : EncodeLength.Statement (.lsl r rm) := fun _ _ => short_rm2 _ _ _ _
theorem EncodeLength.clts : EncodeLength.Statement .clts := fun _ _ => short_2 _ _
theorem EncodeLength.scall (r : Reg) (rm : RM) : EncodeLength.Statement (.scall r rm) := fun _ _ => short_rm2 _ _ _ _
theorem EncodeLength.ssvLow (n : BitVec 3) : EncodeLength.Statement (.ssvLow n) := fun _ _ => short_2 _ _
theorem EncodeLength.ssvHigh (n : BitVec 4) : EncodeLength.Statement (.ssvHigh n) := fun _ _ => short_2 _ _
theorem EncodeLength.undefined (u : Undef) : EncodeLength.Statement (.undefined u) := fun _ _ => short_undef _

end Sys2Proof.Laws
end

