-- ==== Sys2Proof/Laws/Transfer.lean ====
section
/-!
SUPPORT. Laws/Transfer.lean: the reads of far transfers, interrupts and task switches (descriptors, gates, inner stacks,
frames) change nothing but what memory accesses change, and what they answer.
-/
namespace Sys2Proof.Machine

variable {α β : Type}

/-- Where the operation completes, only what memory accesses touch differs. -/
def Keeps (x : Op α) : Prop := ∀ s a t, x s = .ok a t → Accessed s t

theorem Keeps.pure (a : α) : Keeps (Pure.pure a : Op α) := fun s _ _ h => by cases h; exact .refl s

theorem Keeps.raise (v : Byte) (c : Option (BitVec 16)) : Keeps (Machine.raise v c : Op α) := fun _ _ _ h => nomatch h

theorem Keeps.get : Keeps (MonadState.get : Op State) := fun s _ _ h => by cases h; exact .refl s

theorem Keeps.bind {x : Op α} {f : α → Op β} (hx : Keeps x) (hf : ∀ a, Keeps (f a)) : Keeps (x >>= f) :=
  fun s _ _ h => by
    obtain ⟨a, u, h1, h2⟩ := op_bind_eq_ok h
    exact (hx s a u h1).trans (hf a u _ _ h2)

theorem Keeps.ite {c : Prop} [Decidable c] {x y : Op α} (hx : Keeps x) (hy : Keeps y) : Keeps (if c then x else y) := by
  split <;> assumption

theorem Keeps.loadRef (r : Ref) : Keeps (Machine.loadRef r) := fun s _ _ h => by cases h; exact .noteReads s _

theorem Keeps.touchRef (r : Ref) (w : Bool) : Keeps (Machine.touchRef r w) := fun s _ _ h => by
  obtain ⟨t, ht, ha⟩ := touchRef_ok r w s
  rw [ht] at h
  cases h
  exact ha

theorem Keeps.probe (lin : Dword) (n : Nat) (w u : Bool) : Keeps (Machine.probe lin n w u) :=
  fun _ _ _ h => (probe_ok h).accessed

/-- A read of the processor's own. -/
theorem Keeps.linRead (lin : Dword) (n : Nat) : Keeps (Machine.linRead lin n) :=
  .bind (.probe _ _ _ _) fun _ => .bind (.touchRef _ _) fun _ => .loadRef _

/-- A write of the processor's own. -/
theorem Keeps.linWrite (lin : Dword) (n v : Nat) : Keeps (Machine.linWrite lin n v) :=
  .bind (.probe _ _ _ _) fun r => .bind (.touchRef _ _) fun _ _ _ _ h => by cases h; exact .store r v _ _ _

/-- A descriptor read (21_segmentation.md R156). -/
theorem Keeps.descFetch (sel : BitVec 16) : Keeps (Machine.descFetch sel) :=
  .bind .get fun s => by
    cases s.descAddr sel with
    | none => exact .pure _
    | some lin => exact .bind (.linRead _ _) fun _ => .bind (.linRead _ _) fun _ => .pure _

/-- A descriptor or gate read as one access (60_exceptions.md R700, 49_system_misc.md R612). -/
theorem Keeps.descRead (lin : Dword) : Keeps (Machine.descRead lin) := .bind (.linRead _ _) fun _ => .pure _

/-- The look-up of LAR, LSL, VERR and VERW (49_system_misc.md R612). -/
theorem Keeps.inspect (sel : BitVec 16) : Keeps (Machine.inspect sel) :=
  .ite (.pure _) (.bind .get fun s => by
    cases s.descAddr sel with
    | none => exact .pure _
    | some lin => exact .bind (.descRead _) fun _ => .pure _)

theorem Keeps.descOr {sel : BitVec 16} {bad : Op Desc} (h : Keeps bad) : Keeps (Machine.descOr sel bad) :=
  .bind (.descFetch sel) fun o => by cases o with
    | none => exact h
    | some d => exact .pure d

/-- An accessed bit set (R176). -/
theorem Keeps.setAccessed (d : Desc) : Keeps (Machine.setAccessed d) :=
  .bind (.linRead _ _) fun _ => .linWrite _ _ _

theorem Keeps.prepare (k : Sreg) (off : Dword) (n : Nat) (w : Bool) : Keeps (Machine.prepare k off n w) :=
  fun _ _ _ h => (prepare_ok h).accessed

theorem Keeps.readRef (r : Ref) : Keeps (Machine.readRef r) := fun s _ _ h => by
  rw [readRef_run] at h
  cases h
  exact .seen r s

/-- Two parts of an operand. -/
theorem Keeps.readParts {lo hi : Op Ref} (hl : Keeps lo) (hh : Keeps hi) : Keeps (Machine.readParts lo hi) :=
  .bind hl fun _ => .bind hh fun _ => .bind (.readRef _) fun _ => .bind (.readRef _) fun _ => .pure _

/-- Several reads on the stack. -/
theorem Keeps.stackReads (sp : Dword) (n : Nat) (ks : List Nat) : Keeps (Machine.stackReads sp n ks) := fun _ _ _ h => by
  obtain ⟨l, u, h1, h2⟩ := op_bind_eq_ok h
  rw [readRefs_run] at h2
  cases h2
  exact (prepareStack_ok h1).accessed.trans (.readAllAt l u)

theorem Keeps.farPointer (s : State) (f : FarForm) : Keeps (Machine.farPointer s f) := by
  cases f with
  | ptr off sel => exact .pure _
  | rmOp rm =>
    refine .bind ?_ fun _ => .bind (.readParts (.prepare _ _ _ _) (.prepare _ _ _ _)) fun _ => .pure _
    cases rm with
    | reg r => exact .raise _ _
    | mem m => exact .bind .get fun _ => .pure _

/-- The inner stack's selector and pointer (61_protection_tasks.md R781). -/
theorem Keeps.innerStack (level : BitVec 2) (ex : BitVec 16) : Keeps (Machine.innerStack level ex) :=
  .bind .get fun _ => .ite
    (.ite (.raise _ _) (.bind (.linRead _ _) fun _ => .bind (.linRead _ _) fun _ => .pure _))
    (.ite (.raise _ _) (.bind (.linRead _ _) fun _ => .bind (.linRead _ _) fun _ => .pure _))

/-- The tests of an inner stack's descriptor (R767). -/
theorem Keeps.checkInner (level : BitVec 2) (sel ex : BitVec 16) : Keeps (Machine.checkInner level sel ex) :=
  .ite (.raise _ _) (.bind (.descOr (.raise _ _)) fun _ => .ite (.raise _ _) (.ite (.raise _ _) (.pure _)))

/-- A call gate's target (R759). -/
theorem Keeps.callGateTarget (sel : BitVec 16) (g : Desc) (isCall : Bool) :
    Keeps (Machine.callGateTarget sel g isCall) :=
  .bind .get fun _ => .ite (.raise _ _) (.ite (.raise _ _) (.ite (.raise _ _) (.bind (.descOr (.raise _ _)) fun _ =>
    .ite (.raise _ _) (.ite (.raise _ _) (.ite (.raise _ _) (.ite (.raise _ _) (.pure _)))))))

/-- A return's target (R772). -/
theorem Keeps.returnTarget (sel : BitVec 16) : Keeps (Machine.returnTarget sel) :=
  .bind .get fun _ => .ite (.raise _ _) (.ite (.raise _ _) (.bind (.descOr (.raise _ _)) fun _ =>
    .ite (.raise _ _) (.ite (.raise _ _) (.ite (.raise _ _) (.ite (.raise _ _) (.pure _))))))

theorem Keeps.preparePushes {ss : SegReg} {c : BitVec 16} {u : Bool} {sp : Dword} {items : List (Nat × Nat)} :
    Keeps (Machine.preparePushes ss c u sp items) := fun _ _ _ h => (preparePushes_ok h).accessed

/-- A selector drawn as an item. -/
theorem Accessed.itemOf (s : State) (n : Nat) (sel : BitVec 16) : Accessed s (s.itemOf n sel).2 := by
  unfold State.itemOf
  split
  · exact .drew s
  · exact .refl s

/-! ## What they answer -/

/-- The descriptor there is. -/
theorem descOr_some {sel : BitVec 16} {bad : Op Desc} {s t : State} {d : Desc} (h : descFetch sel s = .ok (some d) t) :
    descOr sel bad s = .ok d t := by
  unfold descOr
  rw [op_bind_ok h]
  rfl

/-- No descriptor: the stop of the rule that uses it. -/
theorem descOr_none {sel : BitVec 16} {bad : Op Desc} {s t : State} (h : descFetch sel s = .ok none t) :
    descOr sel bad s = bad t := by
  unfold descOr
  rw [op_bind_ok h]

/-- What a read of a descriptor as one access answers. -/
theorem descRead_ok {lin : Dword} {s t : State} {v : Nat} (h : linRead lin 8 s = .ok v t) :
    descRead lin s = .ok ⟨BitVec.ofNat 32 v, BitVec.ofNat 32 (v / 2 ^ 32), lin⟩ t := by
  unfold descRead
  rw [op_bind_ok h]
  rfl

/-- What the look-up of LAR, LSL, VERR and VERW does: nothing where there is no descriptor, else the one access, with
the stop of that access (R612). -/
theorem inspect_run (sel : BitVec 16) (s : State) :
    inspect sel s = if isNull sel then .ok none s else
      match s.descAddr sel with
      | none => .ok none s
      | some lin =>
        match descRead lin s with
        | .ok d t => .ok (some d) t
        | .error e t => .error e t := by
  unfold inspect
  rw [op_ite, op_get_bind]
  split
  · rfl
  · cases s.descAddr sel with
    | none => rfl
    | some lin =>
      show (descRead lin >>= fun d => pure (some d)) s = _
      rw [op_bind]
      cases hd : descRead lin s <;> simp [hd]

end Sys2Proof.Machine
end

