-- ==== Sys2Proof/Tests/Slice0.lean ====
section
/-!
SUPPORT. Tests/Slice0.lean: ill-formed terms that WellFormed refuses, words of the opcode maps written out, single steps
of 95_test_vectors.md, and for each statement with hypotheses a state and operands that meet them together.
-/
namespace Sys2Proof.Tests
open Sys2Proof Sys2Proof.Machine

set_option Elab.async false

/-! ## WellFormed refuses -/

def z16 : Sizes := ⟨false, false⟩
def z32 : Sizes := ⟨true, true⟩

/-- A memory operand of the other address size, a base that needs a displacement, a base that needs a SIB byte. -/
theorem test_wf_memory :
    RM.wf true (.mem (.abs16 0)) = false ∧ RM.wf true (.mem (.base16 .bx .none)) = false ∧
    RM.wf false (.mem (.base16 .bp .none)) = false ∧ RM.wf false (.mem (.abs32 0)) = false ∧
    RM.wf false (.mem (.base32 .eax .none)) = false ∧ RM.wf true (.mem (.base32 .esp .none)) = false ∧
    RM.wf true (.mem (.base32 .ebp .none)) = false ∧ RM.wf false (.mem (.sib 0 .eax .eax .none)) = false ∧
    RM.wf true (.mem (.sib 0 .eax .ebp .none)) = false ∧ RM.wf false (.mem (.sibAbs 0 .eax 0)) = false := by decide

/-- An immediate, displacement or offset of the other size, in each form that has one. -/
theorem test_wf_immediate :
    Instr.wf z32 (.add (.axImm (.w 0))) = false ∧ Instr.wf z16 (.add (.rmImm (.reg .eax) (.d 0))) = false ∧
    Instr.wf z32 (.test (.axImm (.w 0))) = false ∧ Instr.wf z32 (.test (.rmImm false (.reg .eax) (.w 0))) = false ∧
    Instr.wf z32 (.mov (.accMoff true (.w 0))) = false ∧ Instr.wf z16 (.mov (.moffAcc true (.d 0))) = false ∧
    Instr.wf z32 (.mov (.regImm .eax (.w 0))) = false ∧ Instr.wf z32 (.mov (.rmImm (.reg .eax) (.w 0))) = false ∧
    Instr.wf z32 (.push (.imm (.w 0))) = false ∧ Instr.wf z32 (.imul (.three .eax (.reg .eax) (.w 0))) = false ∧
    Instr.wf z32 (.jo (.near (.w 0))) = false ∧ Instr.wf z32 (.jmpNear (.near (.w 0))) = false ∧
    Instr.wf z32 (.callNear (.rel (.w 0))) = false ∧ Instr.wf z32 (.jmpFar (.ptr (.w 0) 0)) = false := by decide

/-- Each form that has an r/m operand refuses one of the other address size. -/
theorem test_wf_operand :
    let m := RM.mem (.abs16 0)
    [Instr.add (.rmReg true m .eax), .add (.regRm true .eax m), .add (.rmImm8 m 0), .add (.rmImm8Alias m 0),
      .add (.rmSext m 0), .test (.rmReg true m .eax), .test (.rmImm8 false m 0), .mov (.rmReg true m .eax),
      .mov (.regRm true .eax m), .mov (.rmImm8 m 0), .push (.rmOp m), .pop (.rmOp m), .xchg (.rmReg true m .eax),
      .bt (.rmReg m .eax), .bt (.rmImm m 0), .imul (.one true m), .imul (.two .eax m), .imul (.threeSext .eax m 0),
      .inc (.rmOp true m), .jmpNear (.rmOp m), .callNear (.rmOp m), .callFar (.rmOp m), .rol true m .one,
      .shld m .eax .cl, .seto m, .lea .eax m, .les .eax m, .bound .eax m, .arpl m .eax, .esc 0 0 m, .sldt m, .sgdt m,
      .lar .eax m, .scall .eax m, .movzx true .eax m, .mul true m, .not_ true m, .bsf .eax m,
      .movFromSreg m (.reg .ds)].all (fun i => !i.wf z32) = true := by decide

/-- NOP is not written as an exchange, there is no POP CS, 98 and 99 have one reading for each size, and a defined
opcode is no undefined pattern. -/
theorem test_wf_reading :
    Instr.wf z32 (.xchg (.acc .eax)) = false ∧ Instr.wf z32 (.popSreg .cs) = false ∧ Instr.wf z32 .cbw = false ∧
    Instr.wf z16 .cwde = false ∧ Instr.wf z32 .cwd = false ∧ Instr.wf z16 .cdq = false ∧
    Instr.wf z32 (.undefined (.op 0x90)) = false ∧ Instr.wf z32 (.undefined (.op0F 0x06)) = false ∧
    Instr.wf z32 (.undefined (.grp 0xFE 0xC0)) = false ∧ Instr.wf z32 (.undefined (.grp 0xC6 0x00)) = false ∧
    Instr.wf z32 (.undefined (.grp0F 0x00 0x00)) = false ∧ Instr.wf z32 (.undefined (.grp0F 0xBA 0xE0)) = false := by
  decide

/-! ## Small states -/

/-- Each byte sequence decodes to its instruction and no byte is left. -/
def wordsRead (z : Sizes) (l : List (List Byte × Instr)) : Bool := l.all fun p => decode z p.1 == some (p.2, [])

/-- Bytes placed at an address. -/
def put (s : State) (a : Nat) (l : List Byte) : State := s.placeBytes (BitVec.ofNat 32 a) l

/-- Other registers. -/
def regs (s : State) (f : Regs → Regs) : State := { s with regs := f s.regs }

/-- A 4-Gbyte segment. -/
def flat (sel : BitVec 16) (code : Bool) (dpl : BitVec 2) : SegReg :=
  { sel, base := 0, limit := 0xFFFFFFFF, null := false, attr := { Attr.atReset with g := true, db := true, dpl, e := code } }

/-- Real mode, CS based at 0, EIP 7000h. -/
def real16 : State :=
  let s := State.reset
  { s with eip := 0x7000, nextEip := 0x7000, segs := { s.segs with cs := { s.segs.cs with sel := 0, base := 0 } } }

/-- Protected mode at level 0, 4-Gbyte 32-bit segments, paging off, EIP 7000h, ESP 1000h. -/
def prot32 : State :=
  let s := State.reset
  let d := flat 0x10 false 0
  { s with eip := 0x7000, nextEip := 0x7000, cr0 := s.cr0 ||| 1, regs := { s.regs with esp := 0x1000 },
           segs := { es := d, cs := flat 8 true 0, ss := d, ds := d, fs := d, gs := d } }

/-- One step over the bytes at 7000h goes on to a state with a property. -/
def onStep (s : State) (bytes : List Byte) (p : State → Bool) : Bool :=
  match step (put s 0x7000 bytes) with
  | .next t => p t
  | _ => false

/-- Bytes stand at an address. -/
def holds (s : State) (a : Nat) (l : List Byte) : Bool :=
  (List.range l.length).all fun i => s.phys (BitVec.ofNat 32 (a + i)) == l.getD i 0

/-- CF as given. -/
def carry (s : State) (b : Bool) : State := { s with eflags := withBit s.eflags 0 b }


/-! ## Words written out from the opcode maps (30_encoding.md R285 to R288)

The bytes are those of the rules' tables; the expected instruction is their reading by R262 to R288. -/

/-- Prefixes, R252, R285. -/
theorem test_decode_words_1 :
    wordsRead z32 [
      ([0x26], .segEs),
      ([0x2E], .segCs),
      ([0x36], .segSs),
      ([0x3E], .segDs),
      ([0x64], .segFs),
      ([0x65], .segGs),
      ([0x66], .opsize),
      ([0x67], .adrsize),
      ([0xF0], .lock),
      ([0xF2], .repne),
      ([0xF3], .rep)] = true := by decide

/-- Arithmetic rows and GRP1, R285, R287. -/
theorem test_decode_words_2 :
    wordsRead z32 [
      ([0x01, 0xC8], .add (.rmReg true (.reg .eax) .ecx)),
      ([0x0A, 0x03], .or_ (.regRm false .eax (.mem (.base32 .ebx .none)))),
      ([0x14, 0x7F], .adc (.alImm 0x7F)),
      ([0x1D, 0x78, 0x56, 0x34, 0x12], .sbb (.axImm (.d 0x12345678))),
      ([0x80, 0xE1, 0x0F], .and_ (.rmImm8 (.reg .ecx) 0x0F)),
      ([0x82, 0xE9, 0x01], .sub (.rmImm8Alias (.reg .ecx) 0x01)),
      ([0x81, 0xF2, 0x01, 0x00, 0x00, 0x80], .xor_ (.rmImm (.reg .edx) (.d 0x80000001))),
      ([0x83, 0x7D, 0xFC, 0xFF], .cmp (.rmSext (.mem (.base32 .ebp (.d8 0xFC))) 0xFF)),
      ([0x84, 0xE0], .test (.rmReg false (.reg .eax) .esp)),
      ([0xF7, 0xC8, 0x01, 0x00, 0x00, 0x00], .test (.rmImm true (.reg .eax) (.d 1))),
      ([0xFE, 0x00], .inc (.rmOp false (.mem (.base32 .eax .none)))),
      ([0x4B], .dec (.reg .ebx))] = true := by decide

/-- Arithmetic rows and GRP1, R285, R287. -/
theorem test_decode_words_3 :
    wordsRead z32 [
      ([0xF7, 0xD8], .neg true (.reg .eax)),
      ([0xF6, 0xD3], .not_ false (.reg .ebx)),
      ([0xF6, 0xE3], .mul false (.reg .ebx)),
      ([0x6B, 0xC3, 0xFE], .imul (.threeSext .eax (.reg .ebx) 0xFE)),
      ([0xF7, 0xF1], .div true (.reg .ecx)),
      ([0xF7, 0xF9], .idiv true (.reg .ecx)),
      ([0x27], .daa),
      ([0x2F], .das),
      ([0x37], .aaa),
      ([0x3F], .aas),
      ([0xD4, 0x0A], .aam 0x0A),
      ([0xD5, 0x0A], .aad 0x0A)] = true := by decide

/-- Moves and conversions, R285, R286. -/
theorem test_decode_words_4 :
    wordsRead z32 [
      ([0x8B, 0x04, 0x8D, 0x10, 0x00, 0x00, 0x00], .mov (.regRm true .eax (.mem (.sibAbs 2 .ecx 0x10)))),
      ([0xA3, 0x78, 0x56, 0x34, 0x12], .mov (.moffAcc true (.d 0x12345678))),
      ([0xBB, 0x01, 0x00, 0x00, 0x00], .mov (.regImm .ebx (.d 1))),
      ([0x8C, 0xD8], .movFromSreg (.reg .eax) (.reg .ds)),
      ([0x8E, 0xD0], .movToSreg (.reg .ss) (.reg .eax)),
      ([0x0F, 0x20, 0xD8], .movFromCr 3 3 .eax),
      ([0x0F, 0x22, 0xC3], .movToCr 3 0 .ebx),
      ([0x0F, 0x21, 0xF9], .movFromDr 3 7 .ecx),
      ([0x0F, 0x23, 0xC2], .movToDr 3 0 .edx),
      ([0x0F, 0x24, 0xF0], .movFromTr 3 6 .eax),
      ([0x0F, 0x26, 0xF8], .movToTr 3 7 .eax),
      ([0xFF, 0x30], .push (.rmOp (.mem (.base32 .eax .none))))] = true := by decide

/-- Moves and conversions, R285, R286. -/
theorem test_decode_words_5 :
    wordsRead z32 [
      ([0x0F, 0xA0], .pushSreg .fs),
      ([0x8F, 0x04, 0x24], .pop (.rmOp (.mem (.sib 0 .esp .esp .none)))),
      ([0x17], .popSreg .ss),
      ([0x87, 0xD9], .xchg (.rmReg true (.reg .ecx) .ebx)),
      ([0x93], .xchg (.acc .ebx)),
      ([0x90], .nop),
      ([0x0F, 0xB6, 0xC3], .movzx false .eax (.reg .ebx)),
      ([0x0F, 0xBF, 0xC3], .movsx true .eax (.reg .ebx)),
      ([0x98], .cwde),
      ([0x99], .cdq),
      ([0x60], .pusha),
      ([0x61], .popa)] = true := by decide

/-- Moves and conversions, R285, R286. -/
theorem test_decode_words_6 :
    wordsRead z32 [
      ([0x8D, 0x44, 0x88, 0x04], .lea .eax (.mem (.sib 2 .ecx .eax (.d8 4)))),
      ([0xC4, 0x18], .les .ebx (.mem (.base32 .eax .none))),
      ([0xC5, 0x18], .lds .ebx (.mem (.base32 .eax .none))),
      ([0x0F, 0xB2, 0x20], .lss .esp (.mem (.base32 .eax .none))),
      ([0x0F, 0xB4, 0x18], .lfs .ebx (.mem (.base32 .eax .none))),
      ([0x0F, 0xB5, 0x18], .lgs .ebx (.mem (.base32 .eax .none))),
      ([0xD7], .xlatb),
      ([0x9C], .pushf),
      ([0x9D], .popf),
      ([0x9E], .sahf),
      ([0x9F], .lahf)] = true := by decide

/-- 16-bit sizes: addresses, offsets, pointers, R271, R276, R280. -/
theorem test_decode_words_7 :
    wordsRead z16 [
      ([0x8A, 0x00], .mov (.regRm false .eax (.mem (.base16 .bxsi .none)))),
      ([0x8A, 0x02], .mov (.regRm false .eax (.mem (.base16 .bpsi .none)))),
      ([0xA0, 0x34, 0x12], .mov (.accMoff false (.w 0x1234))),
      ([0xFF, 0x36, 0x00, 0x02], .push (.rmOp (.mem (.abs16 0x200)))),
      ([0x98], .cbw),
      ([0x99], .cwd),
      ([0xEA, 0x5B, 0xE0, 0x00, 0xF0], .jmpFar (.ptr (.w 0xE05B) 0xF000)),
      ([0x9A, 0x00, 0x01, 0x00, 0x20], .callFar (.ptr (.w 0x0100) 0x2000)),
      ([0x0F, 0x85, 0xF0, 0xFF], .jnz (.near (.w 0xFFF0))),
      ([0xE8, 0x00, 0x00], .callNear (.rel (.w 0)))] = true := by decide

/-- Shifts and bits, GRP2, GRP8, R286, R287. -/
theorem test_decode_words_8 :
    wordsRead z32 [
      ([0xC0, 0xC0, 0x03], .rol false (.reg .eax) (.imm 3)),
      ([0xD1, 0xC8], .ror true (.reg .eax) .one),
      ([0xD2, 0xD0], .rcl false (.reg .eax) .cl),
      ([0xD3, 0xD8], .rcr true (.reg .eax) .cl),
      ([0xD1, 0xE0], .shl false true (.reg .eax) .one),
      ([0xD0, 0xF0], .shl true false (.reg .eax) .one),
      ([0xC1, 0xE8, 0x04], .shr true (.reg .eax) (.imm 4)),
      ([0xD3, 0xF8], .sar true (.reg .eax) .cl),
      ([0x0F, 0xA4, 0xD8, 0x05], .shld (.reg .eax) .ebx (.imm 5)),
      ([0x0F, 0xAD, 0xD8], .shrd (.reg .eax) .ebx .cl),
      ([0x0F, 0xA3, 0x03], .bt (.rmReg (.mem (.base32 .ebx .none)) .eax)),
      ([0x0F, 0xAB, 0x03], .bts (.rmReg (.mem (.base32 .ebx .none)) .eax))] = true := by decide

/-- Shifts and bits, GRP2, GRP8, R286, R287. -/
theorem test_decode_words_9 :
    wordsRead z32 [
      ([0x0F, 0xBA, 0xF0, 0x1F], .btr (.rmImm (.reg .eax) 0x1F)),
      ([0x0F, 0xBB, 0xC8], .btc (.rmReg (.reg .eax) .ecx)),
      ([0x0F, 0xBC, 0xC3], .bsf .eax (.reg .ebx)),
      ([0x0F, 0xBD, 0xC3], .bsr .eax (.reg .ebx))] = true := by decide

/-- Input, output, strings, R285. -/
theorem test_decode_words_10 :
    wordsRead z32 [
      ([0xE4, 0x60], .in_ (.imm false 0x60)),
      ([0xEF], .out (.dx true)),
      ([0x6C], .insb),
      ([0x6D], .insv),
      ([0x6E], .outsb),
      ([0x6F], .outsv),
      ([0xA4], .movsb),
      ([0xA5], .movsv),
      ([0xA6], .cmpsb),
      ([0xA7], .cmpsv),
      ([0xAA], .stosb),
      ([0xAB], .stosv)] = true := by decide

/-- Input, output, strings, R285. -/
theorem test_decode_words_11 :
    wordsRead z32 [
      ([0xAC], .lodsb),
      ([0xAD], .lodsv),
      ([0xAE], .scasb),
      ([0xAF], .scasv)] = true := by decide

/-- The sixteen conditions, R285, R286. -/
theorem test_decode_words_12 :
    wordsRead z32 [
      ([0x70, 0x05], .jo (.short 5)),
      ([0x71, 0x05], .jno (.short 5)),
      ([0x72, 0x05], .jb (.short 5)),
      ([0x73, 0x05], .jnb (.short 5)),
      ([0x74, 0x05], .jz (.short 5)),
      ([0x75, 0x05], .jnz (.short 5)),
      ([0x76, 0x05], .jbe (.short 5)),
      ([0x77, 0x05], .jnbe (.short 5)),
      ([0x0F, 0x88, 0x01, 0x00, 0x00, 0x00], .js (.near (.d 1))),
      ([0x79, 0x05], .jns (.short 5)),
      ([0x7A, 0x05], .jp (.short 5)),
      ([0x7B, 0x05], .jnp (.short 5))] = true := by decide

/-- The sixteen conditions, R285, R286. -/
theorem test_decode_words_13 :
    wordsRead z32 [
      ([0x7C, 0x05], .jl (.short 5)),
      ([0x7D, 0x05], .jnl (.short 5)),
      ([0x7E, 0x05], .jle (.short 5)),
      ([0x7F, 0x05], .jnle (.short 5)),
      ([0x0F, 0x90, 0xC1], .seto (.reg .ecx)),
      ([0x0F, 0x91, 0xC1], .setno (.reg .ecx)),
      ([0x0F, 0x92, 0xC1], .setb (.reg .ecx)),
      ([0x0F, 0x93, 0xC1], .setnb (.reg .ecx)),
      ([0x0F, 0x94, 0xC1], .setz (.reg .ecx)),
      ([0x0F, 0x95, 0xC1], .setnz (.reg .ecx)),
      ([0x0F, 0x96, 0xC1], .setbe (.reg .ecx)),
      ([0x0F, 0x97, 0xC1], .setnbe (.reg .ecx))] = true := by decide

/-- The sixteen conditions, R285, R286. -/
theorem test_decode_words_14 :
    wordsRead z32 [
      ([0x0F, 0x98, 0xC1], .sets (.reg .ecx)),
      ([0x0F, 0x99, 0xC1], .setns (.reg .ecx)),
      ([0x0F, 0x9A, 0xC1], .setp (.reg .ecx)),
      ([0x0F, 0x9B, 0xC1], .setnp (.reg .ecx)),
      ([0x0F, 0x9C, 0xC1], .setl (.reg .ecx)),
      ([0x0F, 0x9D, 0xC1], .setnl (.reg .ecx)),
      ([0x0F, 0x9E, 0xC1], .setle (.reg .ecx)),
      ([0x0F, 0x9F, 0xC1], .setnle (.reg .ecx))] = true := by decide

/-- Control transfer, R285, R287. -/
theorem test_decode_words_15 :
    wordsRead z32 [
      ([0xEB, 0xFE], .jmpNear (.short 0xFE)),
      ([0xFF, 0xE3], .jmpNear (.rmOp (.reg .ebx))),
      ([0xFF, 0x2B], .jmpFar (.rmOp (.mem (.base32 .ebx .none)))),
      ([0xFF, 0xD0], .callNear (.rmOp (.reg .eax))),
      ([0xFF, 0x18], .callFar (.rmOp (.mem (.base32 .eax .none)))),
      ([0xC3], .retNear none),
      ([0xC2, 0x08, 0x00], .retNear (some 8)),
      ([0xCB], .retFar none),
      ([0xCA, 0x04, 0x00], .retFar (some 4)),
      ([0xCC], .int3),
      ([0xCD, 0x21], .int 0x21),
      ([0xCE], .into)] = true := by decide

/-- Control transfer, R285, R287. -/
theorem test_decode_words_16 :
    wordsRead z32 [
      ([0xCF], .iret),
      ([0xE0, 0xF0], .loopne 0xF0),
      ([0xE1, 0xF0], .loope 0xF0),
      ([0xE2, 0xFE], .loop 0xFE),
      ([0xE3, 0x10], .jcxz 0x10),
      ([0xC8, 0x10, 0x00, 0x01], .enter 0x10 1),
      ([0xC9], .leave),
      ([0x62, 0x03], .bound .eax (.mem (.base32 .ebx .none)))] = true := by decide

/-- Flags, system, undefined patterns, R285 to R288, R300, R301, R303. -/
theorem test_decode_words_17 :
    wordsRead z32 [
      ([0x63, 0xC8], .arpl (.reg .eax) .ecx),
      ([0x9B], .wait),
      ([0xDD, 0x05, 0x00, 0x10, 0x00, 0x00], .esc 5 0 (.mem (.abs32 0x1000))),
      ([0xF4], .hlt),
      ([0xF5], .cmc),
      ([0xF8], .clc),
      ([0xF9], .stc),
      ([0xFA], .cli),
      ([0xFB], .sti),
      ([0xFC], .cld),
      ([0xFD], .std),
      ([0x0F, 0x00, 0xC0], .sldt (.reg .eax))] = true := by decide

/-- Flags, system, undefined patterns, R285 to R288, R300, R301, R303. -/
theorem test_decode_words_18 :
    wordsRead z32 [
      ([0x0F, 0x00, 0xC8], .str (.reg .eax)),
      ([0x0F, 0x00, 0xD0], .lldt (.reg .eax)),
      ([0x0F, 0x00, 0xD8], .ltr (.reg .eax)),
      ([0x0F, 0x00, 0xE0], .verr (.reg .eax)),
      ([0x0F, 0x00, 0xE8], .verw (.reg .eax)),
      ([0x0F, 0x01, 0x00], .sgdt (.mem (.base32 .eax .none))),
      ([0x0F, 0x01, 0x08], .sidt (.mem (.base32 .eax .none))),
      ([0x0F, 0x01, 0x10], .lgdt (.mem (.base32 .eax .none))),
      ([0x0F, 0x01, 0x18], .lidt (.mem (.base32 .eax .none))),
      ([0x0F, 0x01, 0xE0], .smsw (.reg .eax)),
      ([0x0F, 0x01, 0xF0], .lmsw (.reg .eax)),
      ([0x0F, 0x02, 0xC3], .lar .eax (.reg .ebx))] = true := by decide

/-- Flags, system, undefined patterns, R285 to R288, R300, R301, R303. -/
theorem test_decode_words_19 :
    wordsRead z32 [
      ([0x0F, 0x03, 0xC3], .lsl .eax (.reg .ebx)),
      ([0x0F, 0x06], .clts),
      ([0x0F, 0x18, 0xC0], .scall .eax (.reg .eax)),
      ([0x0F, 0x14], .ssvLow 4),
      ([0x0F, 0xF3], .ssvHigh 3),
      ([0xD6], .undefined (.op 0xD6)),
      ([0x0F, 0x0B], .undefined (.op0F 0x0B)),
      ([0xFE, 0xD0], .undefined (.grp 0xFE 0xD0)),
      ([0x8F, 0xC8], .undefined (.grp 0x8F 0xC8)),
      ([0x0F, 0x01, 0x38], .undefined (.grp0F 0x01 0x38))] = true := by decide

/-! ## One step each: vectors of 95_test_vectors.md by name -/

theorem test_vector_MOV1 :
    onStep (regs real16 fun r => { r with eax := 0xAAAA0000 }) [0xB8, 0x34, 0x12]
      (fun t => t.regs.eax == 0xAAAA1234#32 && t.eip == 0x7003#32) = true := by decide +kernel

theorem test_vector_MOV1b :
    onStep real16 [0x66, 0xB8, 0x78, 0x56, 0x34, 0x12]
      (fun t => t.regs.eax == 0x12345678#32) = true := by decide +kernel

theorem test_vector_MOVX1 :
    onStep (regs prot32 fun r => { r with ebx := 0x80 }) [0x0F, 0xBE, 0xC3]
      (fun t => t.regs.eax == 0xFFFFFF80#32) = true := by decide +kernel

theorem test_vector_MOVX1b :
    onStep (regs prot32 fun r => { r with ebx := 0x80 }) [0x0F, 0xB6, 0xC3]
      (fun t => t.regs.eax == 0x80#32) = true := by decide +kernel

theorem test_vector_PUSH1 :
    onStep (put (regs real16 fun r => { r with esp := 0x100 }) 0x200 [0xEF, 0xBE]) [0xFF, 0x36, 0x00, 0x02]
      (fun t => t.regs.esp == 0xFE#32 && holds t 0xFE [0xEF, 0xBE]) = true := by decide +kernel

theorem test_vector_PUSH2 :
    onStep (regs prot32 fun r => { r with esp := 0x1000 }) [0x54]
      (fun t => t.regs.esp == 0xFFC#32 && holds t 0xFFC [0x00, 0x10, 0x00, 0x00]) = true := by decide +kernel

theorem test_vector_POP1 :
    onStep (put (regs prot32 fun r => { r with esp := 0xFFC }) 0xFFC [0xBE, 0xBA, 0xFE, 0xCA]) [0x58]
      (fun t => t.regs.esp == 0x1000#32 && t.regs.eax == 0xCAFEBABE#32) = true := by decide +kernel

theorem test_vector_POP2 :
    onStep (put (regs prot32 fun r => { r with esp := 0xFFC }) 0xFFC [0x0, 0x30, 0x0, 0x0]) [0x5C]
      (fun t => t.regs.esp == 0x3000#32) = true := by decide +kernel

theorem test_vector_PUSHA :
    onStep (regs real16 fun r =>
        { r with eax := 0x1, ecx := 0x2, edx := 0x3, ebx := 0x4, esp := 0x100, ebp := 0x6, esi := 0x7, edi := 0x8 }) [0x60]
      (fun t => t.regs.esp == 0xF0#32 && holds t 0xF0 [0x08, 0x00, 0x07, 0x00, 0x06, 0x00, 0x00, 0x01, 0x04, 0x00,
        0x03, 0x00, 0x02, 0x00, 0x01, 0x00]) = true := by decide +kernel

theorem test_vector_POPA :
    onStep (put (regs real16 fun r => { r with esp := 0xF0 }) 0xF0 [0x8, 0x0, 0x7, 0x0, 0x6, 0x0, 0x0, 0x1, 0x4,
        0x0, 0x3, 0x0, 0x2, 0x0, 0x1, 0x0]) [0x61]
      (fun t => t.regs.eax == 0x1#32 && t.regs.ecx == 0x2#32 && t.regs.edx == 0x3#32 && t.regs.ebx == 0x4#32 &&
        t.regs.esp == 0x100#32 && t.regs.ebp == 0x6#32 && t.regs.esi == 0x7#32 && t.regs.edi == 0x8#32) = true :=
        by decide

theorem test_vector_XCHG1 :
    onStep (put (regs real16 fun r => { r with ebx := 0x1111 }) 0x400 [0x22, 0x22]) [0x87, 0x1E, 0x00, 0x04]
      (fun t => t.regs.ebx == 0x2222#32 && holds t 0x400 [0x11, 0x11]) = true := by decide +kernel

theorem test_vector_XCHG2 :
    onStep (regs prot32 fun r => { r with eax := 0x1, ebx := 0x2 }) [0x93]
      (fun t => t.regs.eax == 0x2#32 && t.regs.ebx == 0x1#32) = true := by decide +kernel

theorem test_vector_CBW :
    onStep (regs real16 fun r => { r with eax := 0x80 }) [0x98]
      (fun t => t.regs.eax == 0xFF80#32) = true := by decide +kernel

theorem test_vector_CWDE :
    onStep (regs prot32 fun r => { r with eax := 0x8000 }) [0x98]
      (fun t => t.regs.eax == 0xFFFF8000#32) = true := by decide +kernel

theorem test_vector_CWD :
    onStep (regs real16 fun r => { r with eax := 0x8001 }) [0x99]
      (fun t => (t.regs.edx==0xFFFF)) = true := by decide +kernel

theorem test_vector_CDQ :
    onStep (regs prot32 fun r => { r with eax := 0x80000000 }) [0x99]
      (fun t => (t.regs.edx==0xFFFFFFFF)) = true := by decide +kernel

theorem test_vector_IO3 :
    onStep (regs real16 fun r => { r with eax := 0x55 }) [0xE6, 0x80]
      (fun t => (t.out.head? == some (.ioWrite 0x80 1 0x55))) = true := by decide +kernel

theorem test_vector_IO4 :
    onStep (regs real16 fun r => { r with eax := 0x1234, edx := 0x3F8 }) [0xEF]
      (fun t => (t.out.head? == some (.ioWrite 0x3F8 2 0x1234))) = true := by decide +kernel

theorem test_vector_ADD1 :
    onStep (regs prot32 fun r => { r with eax := 0x7F, ebx := 0x1 }) [0x00, 0xD8]
      (fun t => t.regs.eax == 0x80#32 && !t.status.cf && t.status.of && t.status.sf && !t.status.zf && t.status.af
        && !t.status.pf) = true := by decide +kernel

theorem test_vector_ADD2 :
    onStep (regs prot32 fun r => { r with eax := 0x1 }) [0x83, 0xC0, 0xFF]
      (fun t => t.regs.eax == 0x0#32 && t.status.cf && !t.status.of && !t.status.sf && t.status.zf && t.status.af
        && t.status.pf) = true := by decide +kernel

theorem test_vector_ADC1 :
    onStep ((fun s => carry s true) (regs prot32 fun r => { r with eax := 0xFF })) [0x14, 0x00]
      (fun t => t.regs.eax == 0x0#32 && t.status.cf && !t.status.of && !t.status.sf && t.status.zf && t.status.af
        && t.status.pf) = true := by decide +kernel

theorem test_vector_ADC2 :
    onStep ((fun s => carry s true) (regs prot32 fun r => { r with eax := 0xFF, ebx := 0xFF })) [0x10, 0xD8]
      (fun t => t.regs.eax == 0xFF#32 && t.status.cf && !t.status.of && t.status.sf && !t.status.zf && t.status.af
        && t.status.pf) = true := by decide +kernel

theorem test_vector_SUB1 :
    onStep (regs prot32 fun r => { r with eax := 0x0, ebx := 0x1 }) [0x28, 0xD8]
      (fun t => t.regs.eax == 0xFF#32 && t.status.cf && !t.status.of && t.status.sf && !t.status.zf && t.status.af
        && t.status.pf) = true := by decide +kernel

theorem test_vector_SUB2 :
    onStep (regs prot32 fun r => { r with eax := 0x80, ebx := 0x1 }) [0x28, 0xD8]
      (fun t => t.regs.eax == 0x7F#32 && !t.status.cf && t.status.of && !t.status.sf && !t.status.zf && t.status.af
        && !t.status.pf) = true := by decide +kernel

theorem test_vector_SBB1 :
    onStep ((fun s => carry s true) (regs prot32 fun r => { r with eax := 0x0 })) [0x1C, 0x00]
      (fun t => t.regs.eax == 0xFF#32 && t.status.cf && !t.status.of && t.status.sf && !t.status.zf && t.status.af
        && t.status.pf) = true := by decide +kernel

theorem test_vector_SBB2 :
    onStep ((fun s => carry s true) (regs prot32 fun r => { r with eax := 0x0 })) [0x1C, 0xFF]
      (fun t => t.regs.eax == 0x0#32 && t.status.cf && !t.status.of && !t.status.sf && t.status.zf && t.status.af
        && t.status.pf) = true := by decide +kernel

theorem test_vector_CMP1 :
    onStep (regs prot32 fun r => { r with eax := 0x5 }) [0x3C, 0x0A]
      (fun t => t.regs.eax == 0x5#32 && t.status.cf && !t.status.of && t.status.sf && !t.status.zf && t.status.af
        && !t.status.pf) = true := by decide +kernel

theorem test_vector_CMP2 :
    onStep (regs prot32 fun r => { r with eax := 0x5 }) [0x39, 0xC0]
      (fun t => t.regs.eax == 0x5#32 && !t.status.cf && !t.status.of && !t.status.sf && t.status.zf && !t.status.af
        && t.status.pf) = true := by decide +kernel

theorem test_vector_INC1 :
    onStep ((fun s => carry s true) (regs prot32 fun r => { r with eax := 0x7FFFFFFF })) [0x40]
      (fun t => t.regs.eax == 0x80000000#32 && t.status.cf && t.status.of && t.status.sf && !t.status.zf &&
        t.status.af && t.status.pf) = true := by decide +kernel

theorem test_vector_INC3 :
    onStep (regs prot32 fun r => { r with eax := 0x1234FFFF }) [0x66, 0x40]
      (fun t => t.regs.eax == 0x12340000#32 && !t.status.cf && !t.status.of && !t.status.sf && t.status.zf &&
        t.status.af && t.status.pf) = true := by decide +kernel

theorem test_vector_DEC1 :
    onStep (regs prot32 fun r => { r with eax := 0x80000000 }) [0x48]
      (fun t => t.regs.eax == 0x7FFFFFFF#32 && !t.status.cf && t.status.of && !t.status.sf && !t.status.zf &&
        t.status.af && t.status.pf) = true := by decide +kernel

theorem test_vector_DEC2 :
    onStep (regs prot32 fun r => { r with ecx := 0x1 }) [0xFE, 0xC9]
      (fun t => t.regs.ecx == 0x0#32 && !t.status.of && !t.status.sf && t.status.zf && !t.status.af && t.status.pf)
        = true := by decide +kernel

theorem test_vector_NEG1 :
    onStep (regs prot32 fun r => { r with eax := 0x1 }) [0xF6, 0xD8]
      (fun t => t.regs.eax == 0xFF#32 && t.status.cf && !t.status.of && t.status.sf && !t.status.zf && t.status.af
        && t.status.pf) = true := by decide +kernel

theorem test_vector_NEG1b :
    onStep (regs prot32 fun r => { r with eax := 0x80 }) [0xF6, 0xD8]
      (fun t => t.regs.eax == 0x80#32 && t.status.cf && t.status.of && t.status.sf && !t.status.zf && !t.status.af
        && !t.status.pf) = true := by decide +kernel

theorem test_vector_MUL1 :
    onStep (regs prot32 fun r => { r with eax := 0x10, ebx := 0x10 }) [0xF6, 0xE3]
      (fun t => t.regs.eax == 0x100#32) = true := by decide +kernel

theorem test_vector_MUL3 :
    onStep (regs prot32 fun r => { r with eax := 0xFFFFFFFF, ecx := 0x2 }) [0xF7, 0xE1]
      (fun t => t.regs.eax == 0xFFFFFFFE#32 && t.regs.edx == 0x1#32) = true := by decide +kernel

theorem test_vector_IMUL1 :
    onStep (regs prot32 fun r => { r with eax := 0xFF, ebx := 0x2 }) [0xF6, 0xEB]
      (fun t => t.regs.eax == 0xFFFE#32) = true := by decide +kernel

theorem test_vector_IMUL2 :
    onStep (regs prot32 fun r => { r with eax := 0x40, ebx := 0x2 }) [0xF6, 0xEB]
      (fun t => t.regs.eax == 0x80#32) = true := by decide +kernel

theorem test_vector_DIV1 :
    onStep (regs prot32 fun r => { r with eax := 0x64, ebx := 0x7 }) [0xF6, 0xF3]
      (fun t => t.regs.eax == 0x20E#32) = true := by decide +kernel

theorem test_vector_DIV4 :
    onStep (regs prot32 fun r => { r with edx := 0x1, ecx := 0x2 }) [0xF7, 0xF1]
      (fun t => t.regs.eax == 0x80000000#32 && t.regs.edx == 0x0#32) = true := by decide +kernel

theorem test_vector_IDIV1 :
    onStep (regs prot32 fun r => { r with eax := 0xFFF9, ebx := 0x2 }) [0xF6, 0xFB]
      (fun t => t.regs.eax == 0xFFFD#32) = true := by decide +kernel

theorem test_vector_IDIV2 :
    onStep (regs prot32 fun r => { r with eax := 0xFF80, ebx := 0x1 }) [0xF6, 0xFB]
      (fun t => t.regs.eax == 0x80#32) = true := by decide +kernel

theorem test_vector_DAA1 :
    onStep (regs prot32 fun r => { r with eax := 0xA }) [0x27]
      (fun t => t.regs.eax == 0x10#32) = true := by decide +kernel

theorem test_vector_DAA2 :
    onStep (regs prot32 fun r => { r with eax := 0x9A }) [0x27]
      (fun t => t.regs.eax == 0x0#32) = true := by decide +kernel

theorem test_vector_DAS2 :
    onStep ((fun s => {s with eflags := s.eflags ||| 0x11}) (regs prot32 fun r => { r with eax := 0xFF })) [0x2F]
      (fun t => t.regs.eax == 0x99#32) = true := by decide +kernel

theorem test_vector_AAA :
    onStep (regs prot32 fun r => { r with eax := 0xF }) [0x37]
      (fun t => t.regs.eax == 0x105#32) = true := by decide +kernel

theorem test_vector_AAS :
    onStep ((fun s => {s with eflags := s.eflags ||| 0x10}) (regs prot32 fun r => { r with eax := 0x1FF })) [0x3F]
      (fun t => t.regs.eax == 0x9#32) = true := by decide +kernel

/-- Nothing adjusted: V-AAS keeps AL; D37, the other value of the parameter, clears its upper half. -/
theorem test_vector_AAS2 :
    let s := regs prot32 fun r => { r with eax := 0x35 }
    onStep s [0x3F] (fun t => t.regs.eax == 0x35#32) = true ∧
    onStep { s with cfg := { s.cfg with aasKeepsAl := false } } [0x3F] (fun t => t.regs.eax == 0x5#32) = true := by
  decide +kernel

theorem test_vector_AAM :
    onStep (regs prot32 fun r => { r with eax := 0x3F }) [0xD4, 0x0A]
      (fun t => t.regs.eax == 0x603#32) = true := by decide +kernel

theorem test_vector_AAD :
    onStep (regs prot32 fun r => { r with eax := 0x603 }) [0xD5, 0x0A]
      (fun t => t.regs.eax == 0x3F#32) = true := by decide +kernel

theorem test_vector_AND1 :
    onStep (regs prot32 fun r => { r with eax := 0xF3 }) [0x24, 0x7F]
      (fun t => t.regs.eax == 0x73#32) = true := by decide +kernel

theorem test_vector_AND2 :
    onStep (regs prot32 fun r => { r with esp := 0x1FFFC }) [0x83, 0xE4, 0xF0]
      (fun t => t.regs.esp == 0x1FFF0#32) = true := by decide +kernel

theorem test_vector_XOR1 :
    onStep (regs prot32 fun r => { r with eax := 0xF3 }) [0x31, 0xC0]
      (fun t => t.regs.eax == 0x0#32) = true := by decide +kernel

theorem test_vector_NOT2 :
    onStep (regs real16 fun r => { r with eax := 0x12340000 }) [0xF7, 0xD0]
      (fun t => t.regs.eax == 0x1234FFFF#32) = true := by decide +kernel

theorem test_vector_TEST2 :
    onStep (regs prot32 fun r => { r with eax := 0x80000000 }) [0x85, 0xC0]
      (fun t => t.eip == 0x7002#32) = true := by decide +kernel

theorem test_vector_ROL1 :
    onStep (regs prot32 fun r => { r with eax := 0x81 }) [0xD0, 0xC0]
      (fun t => t.regs.eax == 0x3#32) = true := by decide +kernel

theorem test_vector_ROL2 :
    onStep (regs prot32 fun r => { r with eax := 0x81 }) [0xC0, 0xC0, 0x08]
      (fun t => t.regs.eax == 0x81#32) = true := by decide +kernel

theorem test_vector_ROR1 :
    onStep (regs prot32 fun r => { r with eax := 0x1 }) [0xD0, 0xC8]
      (fun t => t.regs.eax == 0x80#32) = true := by decide +kernel

theorem test_vector_ROR2 :
    onStep (regs prot32 fun r => { r with eax := 0x12345678 }) [0xC1, 0xC8, 0x10]
      (fun t => t.regs.eax == 0x56781234#32) = true := by decide +kernel

theorem test_vector_RCL1 :
    onStep (regs prot32 fun r => { r with eax := 0x80 }) [0xD0, 0xD0]
      (fun t => t.regs.eax == 0x0#32) = true := by decide +kernel

theorem test_vector_RCL2 :
    onStep ((fun s => carry s true) (regs prot32 fun r => { r with eax := 0x8D })) [0xC0, 0xD0, 0x09]
      (fun t => t.regs.eax == 0x8D#32) = true := by decide +kernel

theorem test_vector_RCR1 :
    onStep (regs prot32 fun r => { r with eax := 0x1 }) [0xD0, 0xD8]
      (fun t => t.regs.eax == 0x0#32) = true := by decide +kernel

theorem test_vector_RCR2 :
    onStep ((fun s => carry s true) (regs prot32 fun r => { r with eax := 0x2 })) [0xD0, 0xD8]
      (fun t => t.regs.eax == 0x81#32) = true := by decide +kernel

theorem test_vector_SHL1 :
    onStep (regs prot32 fun r => { r with eax := 0x40 }) [0xD0, 0xE0]
      (fun t => t.regs.eax == 0x80#32) = true := by decide +kernel

theorem test_vector_SHL2 :
    onStep (regs prot32 fun r => { r with eax := 0x12345678 }) [0xC1, 0xE0, 0x04]
      (fun t => t.regs.eax == 0x23456780#32) = true := by decide +kernel

theorem test_vector_SHR1 :
    onStep (regs prot32 fun r => { r with eax := 0x81 }) [0xD0, 0xE8]
      (fun t => t.regs.eax == 0x40#32) = true := by decide +kernel

theorem test_vector_SHR2 :
    onStep (regs prot32 fun r => { r with eax := 0x80 }) [0xC0, 0xE8, 0x08]
      (fun t => t.regs.eax == 0x0#32) = true := by decide +kernel

theorem test_vector_SAR1 :
    onStep (regs prot32 fun r => { r with eax := 0x81 }) [0xD0, 0xF8]
      (fun t => t.regs.eax == 0xC0#32) = true := by decide +kernel

theorem test_vector_SAR2 :
    onStep (regs prot32 fun r => { r with eax := 0x80 }) [0xC0, 0xF8, 0x1F]
      (fun t => t.regs.eax == 0xFF#32) = true := by decide +kernel

theorem test_vector_SHLD1 :
    onStep (regs prot32 fun r => { r with eax := 0x12345678, ebx := 0x9ABCDEF0 }) [0x0F, 0xA4, 0xD8, 0x04]
      (fun t => t.regs.eax == 0x23456789#32) = true := by decide +kernel

theorem test_vector_SHRD1 :
    onStep (regs prot32 fun r => { r with eax := 0x12345678, ebx := 0x9ABCDEF0 }) [0x0F, 0xAC, 0xD8, 0x04]
      (fun t => t.regs.eax == 0x1234567#32) = true := by decide +kernel

theorem test_vector_BT1 :
    onStep (regs prot32 fun r => { r with eax := 0x8 }) [0x0F, 0xBA, 0xE0, 0x23]
      (fun t => t.eip == 0x7004#32) = true := by decide +kernel

theorem test_vector_BT2 :
    onStep (put (regs prot32 fun r => { r with eax := 0xFFFFFFFF, ebx := 0x1000 }) 0xFFF [0x80]) [0x0F, 0xA3, 0x03]
      (fun t => t.eip == 0x7003#32) = true := by decide +kernel

theorem test_vector_BTS1 :
    onStep (regs prot32 fun r => { r with eax := 0x25, ebx := 0x1000 }) [0x0F, 0xAB, 0x03]
      (fun t => holds t 0x1004 [0x20, 0x00, 0x00, 0x00]) = true := by decide +kernel

theorem test_vector_BTR1 :
    onStep (regs prot32 fun r => { r with eax := 0x80000001 }) [0x0F, 0xBA, 0xF0, 0x1F]
      (fun t => t.regs.eax == 0x1#32) = true := by decide +kernel

theorem test_vector_BSF1 :
    onStep (regs prot32 fun r => { r with ebx := 0x18 }) [0x0F, 0xBC, 0xC3]
      (fun t => t.regs.eax == 0x3#32) = true := by decide +kernel

theorem test_vector_BSF2 :
    onStep (regs prot32 fun r => { r with eax := 0x4D, ebx := 0x0 }) [0x0F, 0xBC, 0xC3]
      (fun t => t.regs.eax == 0x4D#32) = true := by decide +kernel

theorem test_vector_BSR1 :
    onStep (regs prot32 fun r => { r with ebx := 0x18 }) [0x0F, 0xBD, 0xC3]
      (fun t => t.regs.eax == 0x4#32) = true := by decide +kernel

theorem test_vector_STR1 :
    onStep ((fun s => put {s with segs := {s.segs with ds := {s.segs.ds with sel:=0x1000,base:=0x10000}, es :=
        {s.segs.es with sel:=0x2000,base:=0x20000}}} 0x10000 [0x41]) (regs real16 fun r => { r with edi := 0x10 }))
        [0xA4]
      (fun t => t.regs.esi == 0x1#32 && t.regs.edi == 0x11#32 && holds t 0x20010 [0x41]) = true := by decide +kernel

theorem test_vector_STR3 :
    onStep real16 [0xF3, 0xA4]
      (fun t => t.eip == 0x7002#32) = true := by decide +kernel

theorem test_vector_JCC1 :
    onStep ((fun s => {s with eflags := 0x42}) prot32) [0x74, 0x05]
      (fun t => t.eip == 0x7007#32) = true := by decide +kernel

theorem test_vector_JCC1b :
    onStep prot32 [0x74, 0x05]
      (fun t => t.eip == 0x7002#32) = true := by decide +kernel

theorem test_vector_JCXZ :
    onStep (regs real16 fun r => { r with ecx := 0x10000 }) [0xE3, 0x10]
      (fun t => t.eip == 0x7012#32) = true := by decide +kernel

theorem test_vector_JCXZb :
    onStep (regs real16 fun r => { r with ecx := 0x10000 }) [0x67, 0xE3, 0x10]
      (fun t => t.eip == 0x7003#32) = true := by decide +kernel

theorem test_vector_LOOP2 :
    onStep (regs real16 fun r => { r with ecx := 0x12340000 }) [0xE2, 0xFE]
      (fun t => t.regs.ecx == 0x1234FFFF#32 && t.eip == 0x7000#32) = true := by decide +kernel

theorem test_vector_JMP3 :
    onStep real16 [0xEA, 0x5B, 0xE0, 0x00, 0xF0]
      (fun t => t.eip == 0xE05B#32 && (t.segs.cs.base==0xF0000)) = true := by decide +kernel

theorem test_vector_CALL1 :
    onStep (regs prot32 fun r => { r with esp := 0x2000 }) [0xE8, 0x10, 0x00, 0x00, 0x00]
      (fun t => t.eip == 0x7015#32 && holds t 0x1FFC [0x05, 0x70, 0x00, 0x00] && t.regs.esp == 0x1FFC#32) = true :=
        by decide

theorem test_vector_CALL3 :
    onStep (regs real16 fun r => { r with esp := 0x100 }) [0x9A, 0x00, 0x01, 0x00, 0x20]
      (fun t => t.eip == 0x100#32 && holds t 0xFC [0x05, 0x70, 0x00, 0x00] && t.regs.esp == 0xFC#32) = true := by
        decide

theorem test_vector_RET1 :
    onStep (put (regs prot32 fun r => { r with esp := 0x1FFC }) 0x1FFC [0x5, 0x10, 0x0, 0x0]) [0xC2, 0x08, 0x00]
      (fun t => t.eip == 0x1005#32 && t.regs.esp == 0x2008#32) = true := by decide +kernel

theorem test_vector_RET2 :
    onStep (put (regs real16 fun r => { r with esp := 0xFC }) 0xFC [0x5, 0x2, 0x0, 0x10]) [0xCB]
      (fun t => t.eip == 0x205#32 && t.regs.esp == 0x100#32 && (t.segs.cs.base==0x10000)) = true := by decide +kernel

theorem test_vector_SET1 :
    onStep ((fun s => {s with eflags := 0x42}) (regs prot32 fun r => { r with eax := 0x55555555 })) [0x0F, 0x94, 0xC0]
      (fun t => t.regs.eax == 0x55555501#32) = true := by decide +kernel

theorem test_vector_SET2 :
    onStep ((fun s => {s with eflags := 0x82}) (regs prot32 fun r => { r with ecx := 0xFF })) [0x0F, 0x9F, 0xC1]
      (fun t => t.regs.ecx == 0x0#32) = true := by decide +kernel

theorem test_vector_INT1 :
    onStep ((fun s => put {s with eflags:=0x202} 0x84 [0x34,0x12,0x60,0]) (regs real16 fun r =>
        { r with esp := 0x200 })) [0xCD, 0x21]
      (fun t => t.eip == 0x1234#32 && holds t 0x1FA [0x02, 0x70, 0x00, 0x00, 0x02, 0x02] && t.regs.esp == 0x1FA#32
        && (t.eflags==2) && (t.segs.cs.base==0x600)) = true := by decide +kernel

theorem test_vector_IRET1 :
    onStep (put (regs real16 fun r => { r with esp := 0x1FA }) 0x1FA [0x2, 0x1, 0x0, 0x10, 0x2, 0x2]) [0xCF]
      (fun t => t.eip == 0x102#32 && t.regs.esp == 0x200#32 && (t.eflags==0x202) && (t.segs.cs.base==0x10000)) =
        true := by decide +kernel

theorem test_vector_LAHF :
    onStep ((fun s => {s with eflags := 0x93}) real16) [0x9F]
      (fun t => t.regs.eax == 0x9300#32) = true := by decide +kernel

theorem test_vector_SAHF :
    onStep ((fun s => {s with eflags := 0xE02}) (regs real16 fun r => { r with eax := 0xD700 })) [0x9E]
      (fun t => t.eflags == 0xED7) = true := by decide +kernel

theorem test_vector_PUSHF :
    onStep (regs real16 fun r => { r with esp := 0x100 }) [0x9C]
      (fun t => holds t 0xFE [0x02, 0x00] && t.regs.esp == 0xFE#32) = true := by decide +kernel

theorem test_vector_POPF1 :
    onStep ((fun s => put {s with cpl:=3,eflags:=0x202} 0x100 [0xD5,0x3C,0,0]) (regs prot32 fun r =>
        { r with esp := 0x100 })) [0x9D]
      (fun t => (t.eflags==0xED7)) = true := by decide +kernel

theorem test_vector_POPF2 :
    onStep ((fun s => put {s with eflags:=0x202} 0x100 [0xD5,0x3C,0,0]) (regs prot32 fun r =>
        { r with esp := 0x100 })) [0x9D]
      (fun t => (t.eflags==0x3CD7)) = true := by decide +kernel

theorem test_vector_SEG1 :
    onStep (regs real16 fun r => { r with eax := 0x1234 }) [0x8E, 0xD8]
      (fun t => (t.segs.ds.sel==0x1234) && (t.segs.ds.base==0x12340) && (t.segs.ds.limit==0xFFFF)) = true := by decide +kernel

theorem test_vector_SEG2 :
    onStep (regs prot32 fun r => { r with eax := 0xFFFFFFFF }) [0x8C, 0xC8]
      (fun t => t.regs.eax == 0x8#32) = true := by decide +kernel

theorem test_vector_ARPL :
    onStep (regs prot32 fun r => { r with eax := 0x8, ecx := 0x23 }) [0x63, 0xC8]
      (fun t => t.regs.eax == 0xB#32 && t.status.zf) = true := by decide +kernel

theorem test_vector_LAR :
    onStep ((fun s => put {s with gdtr:={base:=0x800,limit:=0x1F}} 0x808 [0xFF,0xFF,0,0,0x10,0x93,0xCF,0,
        0,0,0,0,0,0,0,0, 0x67,0,0,0x10,0,0x89,0,0]) (regs prot32 fun r => { r with ebx := 0x8 })) [0x0F, 0x02, 0xC3]
      (fun t => t.eip == 0x7003#32 && t.status.zf) = true := by decide +kernel

theorem test_vector_LSL :
    onStep ((fun s => put {s with gdtr:={base:=0x800,limit:=0x1F}} 0x808 [0xFF,0xFF,0,0,0x10,0x93,0xCF,0,
        0,0,0,0,0,0,0,0, 0x67,0,0,0x10,0,0x89,0,0]) (regs prot32 fun r => { r with ebx := 0x8 })) [0x0F, 0x03, 0xC3]
      (fun t => t.regs.eax == 0xFFFFFFFF#32 && t.status.zf) = true := by decide +kernel

theorem test_vector_LTR :
    onStep ((fun s => put {s with gdtr:={base:=0x800,limit:=0x1F}} 0x808 [0xFF,0xFF,0,0,0x10,0x93,0xCF,0,
        0,0,0,0,0,0,0,0, 0x67,0,0,0x10,0,0x89,0,0]) (regs prot32 fun r => { r with eax := 0x18 })) [0x0F, 0x00, 0xD8]
      (fun t => (t.tr.sel==0x18) && (t.tr.base==0x1000) && holds t 0x81D [0x8B]) = true := by decide +kernel

theorem test_vector_LGDT :
    onStep (put real16 0x800 [0x17, 0x0, 0x0, 0x10, 0x0, 0x0]) [0x0F, 0x01, 0x16, 0x00, 0x08]
      (fun t => (t.gdtr == {base:=0x1000,limit:=0x17})) = true := by decide +kernel

theorem test_vector_LGDTb :
    onStep (put real16 0x800 [0xFF, 0xFF, 0x0, 0x0, 0x10, 0x80]) [0x66, 0x0F, 0x01, 0x16, 0x00, 0x08]
      (fun t => (t.gdtr == {base:=0x80100000,limit:=0xFFFF})) = true := by decide +kernel

theorem test_vector_LMSW :
    onStep (regs real16 fun r => { r with eax := 0x1 }) [0x0F, 0x01, 0xF0]
      (fun t => (t.cr0==0x7FFFFFE1)) = true := by decide +kernel

/-- LMSW that sets PE with 3 in the low bits of CS's selector: CPL stays 0 by R626, the reading of State.reset; 3 by R48
and R814, the other value of the parameter. Behind MOV CR0, of which R626 does not speak, it is 3. -/
theorem test_lmsw_level :
    let s := regs { real16 with segs := { real16.segs with cs := { real16.segs.cs with sel := 3 } } } fun r =>
      { r with eax := 0x1 }
    onStep s [0x0F, 0x01, 0xF0] (fun t => t.pe && t.cpl == 0) = true ∧
    onStep { s with cfg := { s.cfg with lmswKeepsCpl := false } } [0x0F, 0x01, 0xF0] (fun t => t.pe && t.cpl == 3) = true ∧
    onStep s [0x0F, 0x22, 0xC0] (fun t => t.pe && t.cpl == 3) = true := by
  decide +kernel

theorem test_vector_SMSW :
    onStep prot32 [0x0F, 0x01, 0xE0]
      (fun t => ((t.regs.eax &&& 0xFFFF)==0xFFE1)) = true := by decide +kernel

theorem test_vector_CR0b :
    onStep real16 [0x0F, 0x20, 0xC0]
      (fun t => t.regs.eax == 0x7FFFFFE0#32) = true := by decide +kernel

theorem test_vector_ENTER1 :
    onStep (regs prot32 fun r => { r with esp := 0x1000, ebp := 0x2000 }) [0xC8, 0x10, 0x00, 0x00]
      (fun t => t.regs.esp == 0xFEC#32 && t.regs.ebp == 0xFFC#32 && holds t 0xFFC [0x00, 0x20, 0x00, 0x00]) = true
        := by decide +kernel

theorem test_vector_ENTER2 :
    onStep (regs prot32 fun r => { r with esp := 0x1000, ebp := 0x2000 }) [0xC8, 0x08, 0x00, 0x01]
      (fun t => t.regs.esp == 0xFF0#32 && t.regs.ebp == 0xFFC#32 && holds t 0xFF8 [0xFC, 0x0F, 0x00, 0x00]) = true
        := by decide +kernel

theorem test_vector_LEAVE :
    onStep (put (regs prot32 fun r => { r with esp := 0xFEC, ebp := 0xFFC }) 0xFFC [0x0, 0x20, 0x0, 0x0]) [0xC9]
      (fun t => t.regs.esp == 0x1000#32 && t.regs.ebp == 0x2000#32) = true := by decide +kernel

theorem test_vector_LEA1 :
    onStep (regs prot32 fun r => { r with eax := 0x1000, ecx := 0x3 }) [0x8D, 0x44, 0x88, 0x04]
      (fun t => t.regs.eax == 0x1010#32) = true := by decide +kernel

theorem test_vector_LEA2 :
    onStep (regs prot32 fun r => { r with ebx := 0xFFFF }) [0x67, 0x8D, 0x07]
      (fun t => t.regs.eax == 0xFFFF#32) = true := by decide +kernel

theorem test_vector_XLAT :
    onStep (put (regs real16 fun r => { r with eax := 0x5, ebx := 0x400 }) 0x405 [0x7A]) [0xD7]
      (fun t => t.regs.eax == 0x7A#32) = true := by decide +kernel

theorem test_vector_HLT :
    onStep real16 [0xF4]
      (fun t => t.run == .halted && t.eip == 0x7001#32) = true := by decide +kernel

theorem test_vector_SCALL :
    onStep ((fun s => {s with cfg:={s.cfg with stepping:=1}}) real16) [0x0F, 0x18, 0xC0]
      (fun t => t.regs.eax == 0x102#32 && !t.status.cf) = true := by decide +kernel

theorem test_vector_EXCe :
    onStep ((fun s => put {s with eflags:=0x246} 0 [0,1,0x70,0]) (regs real16 fun r =>
        { r with esp := 0x100, eax := 0x5 })) [0xF6, 0xF3]
      (fun t => t.eip == 0x100#32 && t.segs.cs.sel == 0x70 &&
        holds t 0xFA [0x00, 0x70, 0x00, 0x00, 0x46, 0x02]) = true := by decide +kernel

theorem test_vector_EXCf :
    onStep ((fun s => {s with idtr:={base:=0,limit:=3}}) (regs real16 fun r => { r with esp := 0x100 })) [0xCD, 0x01]
      (fun t => t.run == .shutdown) = true := by decide +kernel

theorem test_vector_ENC14 :
    onStep (put (regs real16 fun r => { r with esp := 0x100 }) 0x18 [0x33, 0x3, 0x0, 0x0]) [0xF0, 0x90]
      (fun t => t.eip == 0x333#32 && holds t 0xFA [0x00, 0x70]) = true := by decide +kernel

theorem test_vector_ENC15 :
    onStep (regs prot32 fun r => { r with ebx := 0x100, eax := 0x3 }) [0xF0, 0x01, 0x03]
      (fun t => holds t 0x100 [0x03] && t.eip == 0x7003#32) = true := by decide +kernel

theorem test_vector_SIDT32 :
    onStep real16 [0x66, 0x0F, 0x01, 0x0E, 0x00, 0x05] (fun t => holds t 0x500 [0xFF, 0x03, 0, 0, 0, 0]) = true := by
  decide

/-- V-RST1 and V-RST2: the far jump at FFFFFFF0h. -/
theorem test_first_jump :
    (match step (State.reset.withFetchWord 40 0xF0000000EA) with
      | .next t => t.eip == 0 && t.segs.cs.base == 0xF0000
      | _ => false) = true := by decide +kernel


/-- A store into a queued byte empties the queue, for the instruction behind the next one at the latest (20_memory.md R136,
R137); a device's doubleword is read once while the cache holds it (R135). -/
theorem test_store_empties_queue :
    let s := { prot32 with queue := [(0x7001, 0x9000)] }
    (s.putByte 0x9000 1).queue = [] ∧ (s.putByte 0x9000 1).flushed = s.queue ∧ (s.putByte 0x9001 1).queue = s.queue ∧
    (let t := { s with icache := ({ s with icache := { s.icache with enabled := true } }.codeFetch 0x9800).2.icache }
     (t.putByte 0x9800 1).queue = []) ∧
    (let t := { prot32 with icache := { prot32.icache with enabled := true }
                            cfg := { prot32.cfg with physMap := [⟨0x9000, 0x9FFF, .device 1⟩] } }
     ((t.codeFetch 0x9001).2.codeFetch 0x9002).2.out.length = 4) := by decide +kernel

/-- REP STOSB over its own bytes goes on as the instruction it began as (46_string.md R510; 70_reset_and_hazards.md R903). -/
theorem test_rep_not_refetched :
    let s := regs prot32 fun r => { r with eax := 0x90, ecx := 2, edi := 0x7000 }
    (match step (put s 0x7000 [0xF3, 0xAA]) with
      | .next t => t.eip == 0x7000 && holds t 0x7000 [0x90, 0xAA] && (match step t with
        | .next u => u.eip == 0x7002 && u.regs.ecx == 0 && u.again == none && holds u 0x7000 [0x90, 0x90]
        | _ => false)
      | _ => false) = true := by decide +kernel

/-- LDS whose selector would lie past FFFFh is #GP (30_encoding.md R270): the handler at 1234h:0 is entered. -/
theorem test_LDS_does_not_wrap :
    onStep (put (regs real16 fun r => { r with esp := 0x100 }) 0x34 [0, 0, 0x34, 0x12]) [0xC5, 0x06, 0xFE, 0xFF]
      (fun t => t.segs.cs.sel == 0x1234) = true := by decide +kernel

/-- Entering SuperState V leaves CPL 0 (61_protection_tasks.md R750). -/
theorem test_ssv_level :
    (State.enterSsv { prot32 with cpl := 3 } 0 0 0).cpl = 0 := by decide +kernel

/-- The unlisted bits of TR7 behind a search that finds nothing (93_implementation_defined.md). -/
theorem test_search_keeps_tr7 :
    (tlbSearchCommand 0x004037E1 0x12345678 { prot32 with tr7 := 0xFFFFFFFF }).tr7 = 0x12345FEB := by decide +kernel

/-- Another bus master stores over a byte that stands in the queue: memory has it, the queue is empty, the next instruction
may run from the old byte, and no device hears of it (20_memory.md R136, R137). -/
theorem test_bus_master_store :
    let s := put { prot32 with queue := [(0x7001, 0x7001)], lines := { prot32.lines with stores := [(0x7001, 0x43)] } }
      0x7000 [0x90, 0x42]
    s.masters.cell 0x7001 = 0x43 ∧ s.masters.queue = [] ∧ s.masters.stale = [(0x7001, 0x42)] ∧
    s.masters.lines.stores = [] ∧ s.masters.out = s.out := by decide +kernel

/-- A breakpoint of four bytes on reads and writes at 2003h watches 2000h to 2003h (62_debug_superstate.md R833). -/
theorem test_data_breakpoint :
    let s := { prot32 with dregs := { prot32.dregs with dr0 := 0x2003, dr7 := 0x000F0000 } }
    let r := fun a : Dword => (⟨a, 1, ⟨2, 2, none⟩, none⟩ : Ref)
    ((r 0x1FFF).seen s).pend.hits = 0 ∧ ((r 0x2000).seen s).pend.hits = 1 ∧ ((r 0x2003).stored 0 s).pend.hits = 1 ∧
    ((r 0x2004).stored 0 s).pend.hits = 0 := by decide +kernel

/-- WAIT with ERROR* and EM = 1: #MF by R656 and D61, the reading of State.reset (the delivery fails on the empty IDT,
which shuts down); no exception where EM masks it (R693, R728), the other value of the parameter. -/
theorem test_wait_em :
    let s := { prot32 with cr0 := prot32.cr0 ||| 4, lines := { prot32.lines with error := true } }
    (match exec .wait { s with cfg := { s.cfg with emMasksWait := true } }, exec .wait { s with idtr := ⟨0, 0⟩ } with
      | .next t, .next u => t.run == .running && u.run == .shutdown
      | _, _ => false) = true := by decide +kernel

/-! ## States and operands that meet the statements' hypotheses -/

/-- An operation completes. -/
def okay {α : Type} (r : EStateM.Result Stop State α) : Bool :=
  match r with
  | .ok _ _ => true
  | .error _ _ => false

/-- An operation completes with a value and a state that pass a test. -/
def okThen {α : Type} (r : EStateM.Result Stop State α) (p : α → State → Bool) : Bool :=
  match r with
  | .ok a t => p a t
  | .error _ _ => false

theorem of_okay {α : Type} {r : EStateM.Result Stop State α} (h : okay r = true) : ∃ a t, r = .ok a t := by
  cases r with
  | ok a t => exact ⟨a, t, rfl⟩
  | error _ _ => cases h

/-- What okThen says. -/
theorem okThen_iff {α : Type} (r : EStateM.Result Stop State α) (p : α → State → Bool) :
    okThen r p = true ↔ ∃ a t, r = .ok a t ∧ p a t = true := by
  cases r with
  | ok a t => exact ⟨fun h => ⟨a, t, rfl, h⟩, fun ⟨_, _, e, h⟩ => by cases e; exact h⟩
  | error _ _ => exact ⟨fun h => (nomatch h), fun ⟨_, _, e, _⟩ => (nomatch e)⟩

theorem of_next {o : Host.Outcome State Fault Refusal}
    (h : (match o with | .next _ => true | _ => false) = true) : ∃ t, o = .next t := by
  cases o with
  | next t => exact ⟨t, rfl⟩
  | fault _ => cases h
  | refused _ => cases h

theorem operand_of {s : State} {k : Width} {rm : RM} {w : Bool} (h : okay (locate k rm w s) = true) :
    ∃ p a t, s.operand k rm w p a t := by
  obtain ⟨p, t, e⟩ := of_okay h
  exact ⟨p, _, _, t, e, rfl, rfl⟩

/-- The state with LOCK before the instruction. -/
def locked (s : State) : State := { s with pfx := { s.pfx with lock := true } }

/-- The state with a repeat prefix. -/
def repeated (s : State) (b : Bool) : State := { s with pfx := { s.pfx with rep := some b } }

/-- Another EFLAGS. -/
def flags (s : State) (v : Dword) : State := { s with eflags := v }

/-- A memory operand at 2000h. -/
def cell : RM := .mem (.abs32 0x2000)

/-- prot32 with a GDT at 800h (code, data, an available and a busy 32-bit TSS, an LDT, level-3 data) and an IDT at 1800h
(a 32-bit interrupt gate 21h and trap gate 22h to 8:3000h), as 21_segmentation.md R160 and 60_exceptions.md R702 lay
them out; TR holds the busy TSS. -/
def tables : State :=
  let s := put prot32 0x808
    [0xFF, 0xFF, 0, 0, 0, 0x9B, 0xCF, 0, 0xFF, 0xFF, 0, 0, 0, 0x93, 0xCF, 0, 0x67, 0, 0, 0x51, 0, 0x89, 0, 0,
     0x67, 0, 0, 0x50, 0, 0x8B, 0, 0, 0x0F, 0, 0, 0x60, 0, 0x82, 0, 0, 0xFF, 0xFF, 0, 0, 0, 0xF3, 0xCF, 0]
  let s := put s 0x1908 [0, 0x30, 8, 0, 0, 0x8E, 0, 0, 0, 0x30, 8, 0, 0, 0x8F, 0, 0]
  { s with gdtr := ⟨0x800, 0x37⟩, idtr := ⟨0x1800, 0x7FF⟩, tr := (Desc.mk 0x50000067 0x00008B00 0x820).toReg 0x20 }

/-- Virtual-8086 mode at IOPL 0, its segments those of real mode. -/
def v86 : State :=
  { tables with eflags := 0x20002, cpl := 3, segs :=
      let z := SegReg.ofV86 0
      { es := z, cs := z, ss := z, ds := z, fs := z, gs := z } }

/-- tables with more descriptors: level-3 code 38h, a call gate 40h for every level to 8:400h with one parameter, code 48h of
100h bytes, gates that are not present (50h), hold a null selector (58h), name data (60h), lead beyond the limit of 48h
(68h), are level 0's (78h), name code that is not present (88h) and no descriptor (90h), code (70h) and data (80h) that are
not present. The TSS names the level-0 stack 10h:2000h. -/
def gates : State :=
  let s := put tables 0x838
    [0xFF, 0xFF, 0, 0, 0, 0xFB, 0xCF, 0, 0, 4, 8, 0, 1, 0xEC, 0, 0, 0xFF, 0, 0, 0, 0, 0x9B, 0x40, 0, 0, 4, 8, 0, 0, 0x6C,
     0, 0, 0, 4, 0, 0, 0, 0xEC, 0, 0, 0, 4, 0x10, 0, 0, 0xEC, 0, 0, 0, 1, 0x48, 0, 0, 0xEC, 0, 0, 0xFF, 0xFF, 0, 0, 0,
     0x1B, 0xCF, 0]
  let s := put s 0x878
    [0, 4, 8, 0, 0, 0x8C, 0, 0, 0xFF, 0xFF, 0, 0, 0, 0x13, 0xCF, 0, 0, 4, 0x70, 0, 0, 0xEC, 0, 0, 0, 4, 0xF8, 3, 0, 0xEC]
  { put s 0x5004 [0, 0x20, 0, 0, 0x10] with gdtr := ⟨0x800, 0x97⟩ }

/-- gates at level 3. -/
def user3 : State :=
  let d := flat 0x33 false 3
  { gates with cpl := 3, segs := { es := d, cs := flat 0x3B true 3, ss := d, ds := d, fs := d, gs := d } }

/-- A selector's descriptor is there and passes a test. -/
def described (sel : BitVec 16) (s : State) (p : Desc → State → Bool) : Bool :=
  okThen (descFetch sel s) fun o u => o.any fun d => p d u

/-- A far pointer's descriptor is there and passes a test. -/
def pointed (s : State) (sel : BitVec 16) (off : Dword) (p : Desc → State → Bool) : Bool :=
  okThen (farPointer s (.ptr (.d off) sel) s) fun x t => decide (x = (sel, off)) && described sel t p

/-- Paging on with the tables of 22_paging.md R248. -/
def paged : State :=
  let s := put (put prot32 0x123004 [0x07, 0x00, 0x20, 0x00]) 0x20000C [0x05, 0xC0, 0xAB, 0x00]
  { s with cr0 := s.cr0 ||| 0x80000000, cr3 := 0x00123000 }

theorem witness_ResetValues : ∃ s : State, s.lines.reset = true :=
  ⟨{ real16 with lines := { real16.lines with reset := true } }, rfl⟩

theorem witness_ResetInvariant : Mem.wf [(0, 1), (0xFFFFFFFF, 2)] = true := by decide +kernel

theorem witness_StepKeepsInvariant : ∃ s t : State, s.Inv ∧ step s = .next t := by
  obtain ⟨t, h⟩ := of_next (o := step (put real16 0x7000 [0x90])) (by decide +kernel)
  exact ⟨_, t, ⟨by decide +kernel, by decide +kernel, by decide +kernel, by decide +kernel, by decide +kernel,
    by decide +kernel, by decide +kernel, by decide +kernel⟩, h⟩

/-- The state StepRunsInstruction fetches from. -/
def starting (s : State) : State :=
  { s.boundary with held := s.boundary.inhibit, inhibit := .none, pfx := .none }

/-- The hypotheses of StepRunsInstruction, with a test of the instruction and its length and of what exec answers. -/
def stepRuns (s : State) (l : Instr → Nat → Bool) (p : Host.Outcome State Fault Refusal → Bool) : Bool :=
  s.lines.reset == false && s.run == .running && s.boundary.due == .nothing && (starting s).again == none &&
  okThen (fetch (starting s)) fun x u => l x.1 x.2 && p (exec x.1 (u.fetched x.1 x.2).prefetched)

theorem stepRuns_spec {s : State} {l : Instr → Nat → Bool} {p : Host.Outcome State Fault Refusal → Bool}
    (h : stepRuns s l p = true) :
    s.lines.reset = false ∧ s.run = .running ∧ s.boundary.due = .nothing ∧
    (starting s).again = none ∧
    ∃ u i len, fetch (starting s) = .ok (i, len) u ∧ l i len = true ∧
      p (exec i (u.fetched i len).prefetched) = true := by
  simp only [stepRuns, Bool.and_eq_true, beq_iff_eq] at h
  obtain ⟨⟨i, len⟩, u, e, h'⟩ := (okThen_iff _ _).1 h.2
  simp only [Bool.and_eq_true] at h'
  exact ⟨h.1.1.1.1, h.1.1.1.2, h.1.1.2, h.1.2, u, i, len, e, h'.1, h'.2⟩

theorem witness_StepRunsInstruction_next :
    stepRuns (put real16 0x7000 [0x66, 0x90]) (fun _ n => decide (n ≤ maxLength))
      (fun o => match o with | .next _ => true | _ => false) = true := by decide +kernel

/-- A repeated string instruction in progress. -/
theorem witness_StepRunsInstruction_again :
    let s := { real16 with again := some ⟨.stosb, { Prefixes.none with rep := some true }, 2⟩ }
    s.lines.reset = false ∧ s.run = .running ∧ s.boundary.due = .nothing ∧ (starting s).again = s.again := by
  decide +kernel

theorem witness_StepRunsInstruction_refused :
    stepRuns (put { real16 with cfg := { real16.cfg with coprocessorPresent := true } } 0x7000 [0xD9, 0xC0])
      (fun _ n => decide (n ≤ maxLength)) (fun o => match o with | .refused _ => true | _ => false) = true := by
  decide +kernel

/-- Fifteen bytes; sixteen; sixteen of an undefined opcode; a fetch beyond the limit of CS. -/
theorem witness_StepRunsInstruction_length :
    let long := fun k b => put real16 0x7000 (List.replicate k 0x66 ++ [b])
    stepRuns (long 14 0x90) (fun i n => decide (n ≤ maxLength ∧ i = .nop)) (fun _ => true) = true ∧
    stepRuns (long 15 0x90) (fun i n => decide (maxLength < n) && !i.undecodable true) (fun _ => true) = true ∧
    stepRuns (long 15 0xF1) (fun i n => decide (maxLength < n) && i.undecodable true) (fun _ => true) = true ∧
    (match fetch (starting { real16 with eip := 0x10000 }) with
      | .error (.exc x) _ => x == ⟨13, some 0⟩
      | _ => false) = true := by decide +kernel

/-- The instruction ends with the last byte of the segment; a byte stands in the queue. -/
theorem witness_FetchDecodesBytes :
    (let s := put { prot32 with eip := 0xFFFFFFFE } 0xFFFFFFFE [0x01, 0xC8]
     s.pg = false ∧ s.caches = false ∧ s.stale = [] ∧ s.queue = [] ∧ s.flushed = [] ∧
     (s.prot && s.segs.cs.null) = false ∧ 2 ≤ maxLength ∧
     s.eip.toNat + 2 ≤ s.segs.cs.limit.toNat + 1 ∧
     Instr.isPrefix (.add (.rmReg true (.reg .eax) .ecx)) = false ∧
     (∀ j, j < 2 → s.holds (s.segs.cs.base + (s.eip + BitVec.ofNat 32 j)) = true) ∧
     decode ⟨s.os32, s.as32⟩ ((List.range 2).map fun j => s.phys (s.segs.cs.base + (s.eip + BitVec.ofNat 32 j)))
      = some (.add (.rmReg true (.reg .eax) .ecx), [])) ∧
    (let s := { prot32 with queue := [(0x7000, 0x9000)] }
     (0x7000 : Dword).toNat ≤ s.segs.cs.limit.toNat ∧
     s.queue.find? (fun c => c.1 == s.segs.cs.base + 0x7000) = some (s.segs.cs.base + 0x7000, 0x9000) ∧
     s.holds 0x9000 = true) := by decide +kernel

/-- A byte of RAM that another bus master changes, the first of two such stores, an instruction that follows a store, a
byte that was replaced and one that was not. -/
theorem witness_FetchDecodesBytes_stores :
    let s := put { prot32 with lines := { prot32.lines with stores := [(0x7000, 0x43), (0x7001, 0x44)] } } 0x7000 [0x90]
    let t := s.masters
    Mem.wf s.mem = true ∧ s.kindAt 0x7000 = .ram ∧ s.cell 0x7000 ≠ 0x43 ∧ s.stale.find? (fun x => x.1 == 0x7000) = none ∧
    s.lines.stores = (0x7000, 0x43) :: [(0x7001, 0x44)] ∧ t.stale ≠ [] ∧
    okThen (fetchAddress 0x7000 t) (fun pa u => (u.stale.find? fun x => x.1 == pa.toNat) == some (0x7000, 0x90)) = true ∧
    okThen (fetchAddress 0x7002 t) (fun pa u => (u.stale.find? fun x => x.1 == pa.toNat) == none) = true := by
  decide +kernel

/-- The cache in use, for a byte of RAM and for one of a device; nothing that could be fetched ahead. -/
theorem witness_FetchDecodesBytes_cache :
    let s := { prot32 with icache := { prot32.icache with enabled := true } }
    let t := { s with cfg := { s.cfg with physMap := [⟨0x9000, 0x9FFF, .device 1⟩] } }
    (s.caches = true ∧ s.holds 0x9000 = true) ∧ (t.caches = true ∧ t.kindAt 0x9000 = .device 1) ∧
    (prot32.pg = false ∧ prot32.caches = false ∧ prot32.cfg.physMap = []) := by decide +kernel

theorem witness_DecodeEncode : Instr.wf z32 (.add (.rmReg true (.reg .eax) .ecx)) = true := by decide +kernel

theorem witness_DecodeSound :
    decode z32 [0x90, 0x01] = some (.nop, [0x01]) ∧ ∀ k rm, Instr.nop ≠ setccInstr k rm := by
  refine ⟨by decide +kernel, fun k rm h => ?_⟩
  unfold setccInstr at h
  split at h <;> cases h

/-- At the last offset of the segment, one beyond it, through SS, through a null selector. -/
theorem witness_SegmentedReference :
    real16.pg = false ∧ (real16.segs.get .ds).check real16.prot (0xFFFC : Dword).toNat 4 true = .ok ∧
    (real16.segs.get .ds).check real16.prot (0xFFFD : Dword).toNat 4 true = .violation ∧
    (real16.segs.get .ss).check real16.prot (0xFFFD : Dword).toNat 4 true = .violation ∧
    (let s := { prot32 with segs := { prot32.segs with ds := prot32.segs.ds.loadNull 0 } }
     (s.segs.get .ds).check s.prot (0 : Dword).toNat 4 false = .nullSelector) ∧
    (prot32.prot && prot32.segs.ds.null) = false := by decide +kernel

/-- A page no entry serves, one that an entry serves, entries of tables in RAM. -/
theorem witness_PageTranslation :
    let page := (0x00403004 : Dword).extractLsb' 12 20
    paged.pg = true ∧ paged.tlb.ways page = [] ∧ Mem.wf paged.mem = true ∧
    ({ paged with tlb := paged.tlb.put page 2 ⟨true, page, 0xABC, false, true, false⟩ } : State).tlb.ways page = [2] ∧
    (0x00123004 : Dword).extractLsb' 0 2 = 0 ∧ (0x0020000C : Dword).extractLsb' 0 2 = 0 ∧
    (∀ i, i < 4 → paged.kindAt (0x00123004 + BitVec.ofNat 32 i) = .ram ∧
      paged.kindAt (0x0020000C + BitVec.ofNat 32 i) = .ram) := by decide +kernel

/-- An access within one page, and accesses over two pages in either order: both present, none present, the upper one not
present. -/
theorem witness_PageTranslation_two :
    let s := { put { paged with cr0 := prot32.cr0 } 0x200010 [0x05, 0xD0, 0xAB, 0x00] with cr0 := paged.cr0 }
    let low := fun s => probePage 0x00403FFE 0x00403FFE false true s
    let high := fun s => probePage 0x00404001 0x00404000 false true s
    (s.pg = true ∧ (s.segs.get .ds).check s.prot (0x00403FFE : Dword).toNat 4 false = .ok) ∧ okay (low s) = true ∧
    okThen (low s.drew) (fun _ t => okay (high t)) = true ∧ okThen (high s.drew) (fun _ t => okay (low t)) = true ∧
    okThen (low paged.drew) (fun _ t => !okay (high t)) = true ∧ okay (high paged.drew) = false ∧
    okay (probePage 0x00500000 0x00500000 false true paged) = false := by decide +kernel

/-- An access that crosses a page and the edges of RAM, ROM and a device. -/
theorem witness_AccessUnpaged :
    let r : Ref := ⟨0xFFE, 4, ⟨0, 0, none⟩, some ⟨1, 1, none⟩⟩
    let s := { prot32 with cfg := { prot32.cfg with physMap := [⟨0xFFF, 0xFFF, .rom⟩, ⟨0x1000, 0x1000, .device 1⟩] } }
    s.pg = false ∧ Mem.wf s.mem = true ∧ (∀ i, i < r.n → ∀ j, j < r.n → r.pa i = r.pa j → i = j) ∧
    (∀ i, i < r.n → prot32.holds (r.pa i) = true) ∧ s.kindAt (r.pa 0) = .ram ∧ s.kindAt (r.pa 1) = .rom ∧
    s.kindAt (r.pa 2) = .device 1 ∧ s.kindAt (r.pa 3) = .ram := by decide +kernel

theorem witness_LockIllegal :
    Instr.isPrefix .nop = false ∧ Instr.mayLock .nop = false ∧ (locked prot32).pfx.lock = true := by decide +kernel

/-- Every form, memory destinations under LOCK. -/
theorem witness_AddSubResult :
    ((locked prot32).pfx.lock = true → AluForm.lockable (.rmReg true cell .ecx) = true) ∧
    (∃ p a b t, AluForm.reads (locked prot32) true (.rmReg true cell .ecx) p a b t) ∧
    (∃ p a b t, AluForm.reads prot32 true (.regRm true .ecx cell) p a b t) ∧
    (∃ p a b t, AluForm.reads prot32 true (.alImm 5) p a b t) ∧
    (∃ p a b t, AluForm.reads prot32 true (.axImm (.d 5)) p a b t) ∧
    (∃ p a b t, AluForm.reads prot32 true (.rmImm8 cell 5) p a b t) ∧
    (∃ p a b t, AluForm.reads prot32 true (.rmImm8Alias cell 5) p a b t) ∧
    (∃ p a b t, AluForm.reads prot32 true (.rmImm cell (.d 5)) p a b t) ∧
    (∃ p a b t, AluForm.reads prot32 true (.rmSext cell 5) p a b t) ∧
    prot32.pfx.lock = false ∧ ∃ p a b t, AluForm.reads prot32 false (.rmReg true cell .ecx) p a b t := by
  have op : ∀ {s : State} {k : Width} {w : Bool} (x : Val k), okay (locate k cell w s) = true →
      ∃ p a b t, s.operand k cell w p a t ∧ b = x := fun x h => by
    obtain ⟨p, a, t, e⟩ := operand_of h
    exact ⟨p, a, x, t, e, rfl⟩
  refine ⟨by decide +kernel, op _ (by decide +kernel), ?_, ⟨_, _, _, _, rfl, rfl, rfl, rfl⟩, ⟨_, _, _, _, rfl, rfl, rfl, rfl⟩,
    op _ (by decide +kernel), op _ (by decide +kernel), op _ (by decide +kernel), op _ (by decide +kernel), rfl, op _ (by decide +kernel)⟩
  obtain ⟨q, b, t, e⟩ := operand_of (s := prot32) (k := prot32.width true) (rm := cell) (w := false) (by decide +kernel)
  exact ⟨_, _, b, t, rfl, rfl, q, e⟩

theorem witness_ArithmeticFlags : ∃ (n : Nat) (_ _ : BitVec n), 8 ≤ n := ⟨8, 0x7F, 1, by decide +kernel⟩

theorem witness_StatusAndRegisterWrites :
    Width.w ≠ .b ∧ Reg.ecx ≠ .esp ∧ Reg.ecx ≠ Reg.byteHome .esp ∧ bit prot32.eflags 9 = false := by decide +kernel

theorem witness_IncDecNegNot :
    ((locked prot32).pfx.lock = true → IncForm.lockable (.rmOp false cell) = true ∧ cell.isReg = false) ∧
    (∃ p a t, (locked prot32).operand ((locked prot32).width false) cell true p a t) ∧
    ∃ p a t, prot32.operand (IncForm.width prot32 (.reg .ecx)) (IncForm.rm (.reg .ecx)) true p a t :=
  ⟨by decide +kernel, operand_of (by decide +kernel), operand_of (by decide +kernel)⟩

/-- MUL, IMUL, DIV, IDIV, BSF, BSR, the one-operand reads. -/
theorem witness_operand_read :
    prot32.pfx.lock = false ∧ (∃ p a t, prot32.operand (prot32.width true) cell false p a t) ∧
    (∃ p a t, prot32.operand (prot32.width false) (.reg .esp) false p a t) ∧
    ∃ p a t, prot32.operand prot32.ow cell false p a t :=
  ⟨rfl, operand_of (by decide +kernel), operand_of (by decide +kernel), operand_of (by decide +kernel)⟩

theorem witness_MultiplyResult :
    prot32.pfx.lock = false ∧ (∃ p a t, prot32.operand (prot32.width true) cell false p a t) ∧
    ∃ p a t, prot32.operand prot32.ow cell false p a t := ⟨rfl, operand_of (by decide +kernel), operand_of (by decide +kernel)⟩

/-- A divisor of 0, one that fits, one whose quotient does not fit (V-DIV). -/
theorem witness_DivideResult :
    prot32.pfx.lock = false ∧ (∃ p t, prot32.operand .b (.reg .ebx) false p 0 t) ∧
    (let s := regs prot32 fun r => { r with eax := 100, ebx := 7 }
     ∃ p t, s.operand .b (.reg .ebx) false p 7 t) ∧
    (let s := regs prot32 fun r => { r with eax := 0x100, ebx := 1 }
     ∃ p t, s.operand .b (.reg .ebx) false p 1 t) :=
  ⟨rfl, ⟨.reg .ebx, _, _, rfl, rfl, rfl⟩, ⟨.reg .ebx, _, _, rfl, rfl, rfl⟩, ⟨.reg .ebx, _, _, rfl, rfl, rfl⟩⟩

theorem witness_DecimalAdjust : prot32.pfx.lock = false ∧ (10 : BitVec 8) ≠ 0 := by decide +kernel

theorem witness_LogicResult :
    (∃ p a b t, AluForm.reads prot32 true (.alImm 5) p a b t) ∧ prot32.pfx.lock = false ∧
    (∃ p a t, prot32.operand (prot32.width true) cell false p a t) ∧ (∃ p a t, prot32.operand .b cell false p a t) ∧
    ∃ p a t, prot32.operand prot32.ow cell false p a t :=
  ⟨⟨_, _, _, _, rfl, rfl, rfl, rfl⟩, rfl, operand_of (by decide +kernel), operand_of (by decide +kernel), operand_of (by decide +kernel)⟩

theorem witness_ShiftsAsAWhole : ∃ (n c : Nat) (_ : BitVec n), 1 < n ∧ 0 < c ∧ c ≤ n :=
  ⟨8, 8, 0x81, by decide +kernel, by decide +kernel, by decide +kernel⟩

/-- Counts of 0, 1 and more. -/
theorem witness_ShiftRotateResult :
    prot32.pfx.lock = false ∧ (∃ p a t, prot32.operand (prot32.width true) cell true p a t) ∧
    shiftCount prot32 (.imm 0x20) = 0 ∧ shiftCount prot32 .one = 1 ∧ shiftCount prot32 (.imm 0x1F) = 31 :=
  ⟨rfl, operand_of (by decide +kernel), by decide +kernel, by decide +kernel, by decide +kernel⟩

/-- Counts of 0, of the width, and beyond a 16-bit width. -/
theorem witness_DoubleShiftResult :
    real16.pfx.lock = false ∧ (∃ p a t, real16.operand real16.ow (.reg .eax) true p a t) ∧
    doubleCount real16 (.imm 0) = 0 ∧ doubleCount real16 (.imm 16) = real16.ow.bits ∧
    real16.ow.bits < doubleCount real16 (.imm 17) :=
  ⟨rfl, operand_of (by decide +kernel), by decide +kernel, by decide +kernel, by decide +kernel⟩

theorem witness_BitResult :
    prot32.pfx.lock = false ∧
    (∃ x t, bitSelect prot32.ow false (.rmReg cell .ecx) prot32 = .ok x t) ∧
    (((locked prot32).pfx.lock = true → BitForm.lockable (.rmImm cell 5) = true) ∧
     ∃ x t, bitSelect (locked prot32).ow true (.rmImm cell 5) (locked prot32) = .ok x t) ∧
    (∃ r t, prepare (prot32.segFor (MemOp.defaultSeg (.abs32 0x2000))) 0x2004 4 true
      (regs prot32 fun r => { r with ecx := 37 }) = .ok r t) ∧
    (∃ p t, locate .d cell true prot32 = .ok p t) ∧
    (∃ p t, prot32.operand .d (.reg .ebx) false p 0 t) ∧
    (let s := regs prot32 fun r => { r with ebx := 0x18 }
     (∃ p t, s.operand .d (.reg .ebx) false p 0x18 t) ∧ (0x18 : BitVec 32).getLsbD 3 = true ∧
     (∀ j, j < 3 → (0x18 : BitVec 32).getLsbD j = false)) :=
  ⟨rfl, of_okay (by decide +kernel), ⟨by decide +kernel, of_okay (by decide +kernel)⟩, of_okay (by decide +kernel), of_okay (by decide +kernel),
    ⟨.reg .ebx, _, _, rfl, rfl, rfl⟩, ⟨.reg .ebx, _, _, rfl, rfl, rfl⟩, by decide +kernel, by decide +kernel⟩

theorem witness_MovResult :
    prot32.pfx.lock = false ∧ (∃ p t, locate (prot32.width true) cell true prot32 = .ok p t) ∧
    (∃ p a t, prot32.operand (prot32.width true) cell false p a t) ∧
    (∃ x t, prepare (prot32.segFor .ds) (Imm.zext (.d 0x2000)) 4 false prot32 = .ok x t) ∧
    (∃ x t, prepare (prot32.segFor .ds) (Imm.zext (.d 0x2000)) 4 true prot32 = .ok x t) ∧
    (∃ p t, locate .b cell true prot32 = .ok p t) ∧ (∃ p t, locate prot32.ow cell true prot32 = .ok p t) ∧
    ∃ p a t, prot32.operand (extendFrom true) cell false p a t :=
  ⟨rfl, of_okay (by decide +kernel), operand_of (by decide +kernel), of_okay (by decide +kernel), of_okay (by decide +kernel), of_okay (by decide +kernel),
    of_okay (by decide +kernel), operand_of (by decide +kernel)⟩

theorem witness_ExchangeResult :
    ((locked prot32).pfx.lock = true → cell.isReg = false) ∧
    (∃ p a t, (locked prot32).operand ((locked prot32).width true) cell true p a t) ∧ prot32.pfx.lock = false :=
  ⟨by decide +kernel, operand_of (by decide +kernel), rfl⟩

theorem witness_ConvertAccumulator : prot32.pfx.lock = false ∧ (locked prot32).pfx.lock = true := by decide +kernel

theorem witness_StackResult :
    prot32.pfx.lock = false ∧ prot32.v86 = false ∧
    okay (prepare .ss (prot32.below 4) 4 true prot32) = true ∧
    okThen (locate prot32.ow cell false prot32)
      (fun _ t => okay (prepare .ss (prot32.below 4) 4 true t)) = true ∧
    okay (prepare .ss (prot32.below 4) 4 true prot32.drew) = true ∧
    okThen (prepare .ss prot32.sp 4 false prot32) (fun x t =>
      okay (locate prot32.ow (.mem (.sib 0 .esp .esp .none)) true (t.setSp (prot32.above 4))) &&
      okay (loadSeg .es (BitVec.ofNat 16 (x.value t)) ((x.seen t).setSp (prot32.above 4)))) = true := by decide +kernel

/-- PUSHA with the stack pointer at the least value that leaves room; POPA; two pushes. -/
theorem witness_PushAllPopAll :
    let s := regs real16 fun r => { r with esp := 0x10 }
    s.pfx.lock = false ∧
    (∃ l t, preparePushes s.segs.ss 0 s.user s.sp [(2, 1), (2, 2), (2, 3), (2, 4), (2, 0x10), (2, 6), (2, 7), (2, 8)] s
      = .ok l t) ∧
    (∃ l t, preparePops s.ow.bytes 8 s.sp s = .ok l t) ∧ [(2, 1), (4, 2)] ≠ ([] : List (Nat × Nat)) ∧
    (∃ l t, prepareStack s.sp 2 [0, 2, 4] s = .ok l t) :=
  ⟨rfl, of_okay (by decide +kernel), of_okay (by decide +kernel), by decide +kernel, of_okay (by decide +kernel)⟩

theorem witness_AddressResult :
    prot32.pfx.lock = false ∧ Reg.eax ≠ .esp ∧
    (let s := regs real16 fun r => { r with eax := 3, ebx := 0xFFFE }
     s.pfx.lock = false ∧ ∃ x t, prepare (s.segFor .ds) 1 1 false s = .ok x t) :=
  ⟨rfl, by decide +kernel, rfl, of_okay (by decide +kernel)⟩

/-- ENTER at level 0 and level 2, LEAVE, BOUND. -/
theorem witness_FrameResult :
    let s := regs prot32 fun r => { r with ebp := 0x2000 }
    s.pfx.lock = false ∧
    okThen (prepare .ss (s.below 4) 4 true s)
      (fun _ t1 => okay (prepareDisplay true 4 (0 % 32 - 1) s.regs.ebp (s.below 4) t1)) = true ∧
    okThen (prepare .ss (s.below 4) 4 true s) (fun _ t1 =>
      okThen (prepareDisplay true 4 (2 % 32 - 1) s.regs.ebp (s.below 4) t1) fun x t2 =>
        okay (prepare .ss (spAdd true x.2.2 (0 - 4)) 4 true t2)) = true ∧
    okay (prepare .ss s.regs.ebp 4 false s) = true ∧
    okThen (prepare (s.segFor .ds) 0x2000 4 false s) (fun _ t1 =>
      okay (prepare (s.segFor .ds) (eaAdd true 0x2000 4) 4 false t1)) = true := by decide +kernel

/-- Real mode; CPL ≤ IOPL; CPL > IOPL with a TSS of no 32-bit type, with one a byte too short for the word at 66h, and with
one that holds it; virtual-8086 mode; each number of bytes. -/
theorem witness_IoPermission :
    let tss := fun l : Dword => { user3 with tr := { user3.tr with limit := l } }
    real16.pe = false ∧ (prot32.prot = true ∧ prot32.cpl.toNat ≤ prot32.iopl.toNat) ∧
    (let s := { prot32 with cpl := 3 }
     s.pe = true ∧ s.iopl.toNat < s.cpl.toNat ∧ s.tr.attr.e = false) ∧
    (user3.pe = true ∧ user3.iopl.toNat < user3.cpl.toNat ∧ (tss 0x66).tr.attr.e = true ∧
      (tss 0x66).tr.limit.toNat < 0x67 ∧ 0x67 ≤ (tss 0x67).tr.limit.toNat ∧ user3.pg = false) ∧
    (v86.pe = true ∧ v86.vm = true ∧ v86.tr.attr.e = true ∧ 0x67 ≤ v86.tr.limit.toNat ∧ v86.pg = false) ∧
    (0 < 1 ∧ 4 ≤ 4) := by decide +kernel

theorem witness_PortResult :
    let s := regs prot32 fun r => { r with edx := 0x60, esi := 0x2000, edi := 0x3000 }
    s.pfx.lock = false ∧ s.pfx.rep = none ∧ okay (ioCheck (s.portOf (.dx true)).2 4 s) = true ∧
    okThen (ioCheck (s.reg .w .edx) 4 s) (fun _ t1 => okay (prepare .es (s.index .edi) 4 true t1) &&
      okay (prepare (s.segFor .ds) (s.index .esi) 4 false t1)) = true := by decide +kernel

theorem witness_StringElement :
    let s := regs prot32 fun r => { r with esi := 0x2000, edi := 0x3000 }
    s.pfx.lock = false ∧ s.pfx.rep = none ∧
    okThen (prepare (s.segFor .ds) (s.index .esi) 4 false s) (fun _ t1 =>
      okay (prepare .es (s.index .edi) 4 true t1) && okay (prepare .es (s.index .edi) 4 false t1)) = true ∧
    okay (prepare .es (s.index .edi) 4 true s) = true ∧ okay (prepare .es (s.index .edi) 4 false s) = true := by
  decide +kernel

/-- REPE CMPSB: a count of 0; a count of 1, the last element; a count that goes on. -/
theorem witness_RepeatStep :
    let s := repeated (regs prot32 fun r => { r with esi := 0x2000, edi := 0x3000 }) true
    let s1 := regs s fun r => { r with ecx := 1 }
    (∃ elem, stringOf s .cmpsb = some (true, elem) ∧ s.pfx.lock = false ∧ s.pfx.rep = some true ∧
      s.countZero = true) ∧
    (∃ elem, stringOf s1 .cmpsb = some (true, elem) ∧ s1.pfx.rep = some true ∧ s1.countZero = false ∧
      ∃ u t, elem s1 = .ok u t) :=
  ⟨⟨_, rfl, rfl, rfl, by decide +kernel⟩, ⟨_, rfl, rfl, by decide +kernel, of_okay (by decide +kernel)⟩⟩

theorem witness_ConditionResult :
    prot32.pfx.lock = false ∧ ∃ p t, locate .b cell true prot32 = .ok p t := ⟨rfl, of_okay (by decide +kernel)⟩

/-- A target at the limit and one beyond it; CALL, and RET with and without an operand. -/
theorem witness_NearTransfer :
    let s := regs real16 fun r => { r with esp := 0x100 }
    let z := { s with segs := { s.segs with cs := { s.segs.cs with limit := 0xFFFE } } }
    s.pfx.lock = false ∧ (s.relTarget (Imm.sext (.w 0x8FFF))).toNat = s.segs.cs.limit.toNat ∧
    z.segs.cs.limit.toNat < (z.relTarget (Imm.sext (.w 0x8FFF))).toNat ∧
    okay (prepare .ss (s.below 2) 2 true s) = true ∧
    okThen (locate s.ow (.reg .ebx) false s) (fun p t => okay (prepare .ss (s.below 2) 2 true (p.seen t))) = true ∧
    okay (prepare .ss (s.above 0) 2 false s) = true := by decide +kernel

theorem witness_FarTransferReal :
    let s := regs real16 fun r => { r with esp := 0x100 }
    s.pfx.lock = false ∧ s.prot = false ∧
    okThen (farPointer s (.ptr (.w 0xFFFF) 0xF000) s) (fun x _ => decide (x.2.toNat ≤ s.segs.cs.limit.toNat)) = true ∧
    (let z := { s with segs := { s.segs with cs := { s.segs.cs with limit := 0xFFFE } } }
     okThen (farPointer z (.ptr (.w 0xFFFF) 0xF000) z) (fun x _ => decide (z.segs.cs.limit.toNat < x.2.toNat)) = true) ∧
    okay (preparePushes s.segs.ss 0 s.user s.sp [(2, 0), (2, 0x7005)] s) = true ∧
    okThen (stackReads s.sp 2 [0, 2] s) (fun l _ => l.length == 2 && decide (l.getD 0 0 ≤ s.segs.cs.limit.toNat)) = true ∧
    okThen (prepare (s.segFor .ds) 0x500 2 false s) (fun _ t1 =>
      okay (prepare (s.segFor .ds) (eaAdd false 0x500 2) 2 false t1)) = true := by decide +kernel

/-- A null selector; no descriptor; data; code of another level; code not present; an offset at the limit and one beyond; a
call; a return to 8:0 and one beyond the limit. -/
theorem witness_FarTransferProtected :
    let s := put gates 0x1000 [0, 1, 0, 0, 8]
    s.pfx.lock = false ∧ s.prot = true ∧ isNull 3 = true ∧
    okThen (descFetch 0x98 s) (fun o _ => o.isNone) = true ∧
    pointed s 0x10 0 (fun d _ => !d.isCode && decide (d.type ∉ [1#5, 3#5, 4#5, 5#5, 9#5, 11#5, 12#5])) = true ∧
    pointed s 0x38 0 (fun d _ => d.isCode && !d.isConforming && d.dpl != s.cpl) = true ∧
    pointed s 0x70 0 (fun d _ => d.isCode && d.dpl == s.cpl && !d.p) = true ∧
    pointed s 0x48 0x100 (fun d _ => d.p && decide (d.limit.toNat < 0x100)) = true ∧
    pointed s 0x48 0xFF (fun d u => d.isCode && !d.isConforming && d.dpl == s.cpl && d.p && decide (0xFF ≤ d.limit.toNat)
      && okay (setAccessed d u) &&
      okThen (preparePushes s.segs.ss 0 s.user s.sp [(u.csItem 4).1, (4, 7)] (u.csItem 4).2) fun _ v =>
        okay (setAccessed d v)) = true ∧
    (∀ cs ∈ ([8, 0x48] : List Byte), let s := put s 0x1004 [cs]
      okThen (stackReads s.sp 4 [0, 4] s) (fun l t => l == [0x100, cs.toNat] &&
        okThen (returnTarget (BitVec.ofNat 16 cs.toNat) t) fun d u => decide (rpl (BitVec.ofNat 16 cs.toNat) = s.cpl) &&
          (if cs = 8 then decide (0x100 ≤ d.limit.toNat) && okay (setAccessed d (u.setSp 0x1008))
           else decide (d.limit.toNat < 0x100))) = true) := by decide +kernel

/-- A return's selector: null; inside the level; data; not present; code of the outer level. -/
theorem witness_FarTransferProtected_target :
    isNull 3 = true ∧ (isNull 8 = false ∧ (rpl 8).toNat < user3.cpl.toNat) ∧
    described 0x10 gates (fun d _ => !d.isCode) = true ∧
    described 0x70 gates (fun d _ => d.isCode && d.dpl == rpl 0x70 && !d.p) = true ∧
    described 0x3B gates (fun d _ => d.isCode && d.dpl == rpl 0x3B && d.p) = true ∧
    gates.cpl.toNat ≤ (rpl 0x3B).toNat := by decide +kernel

/-- Gates not reachable; not present; with a null selector, one without a descriptor, data, code not present. -/
theorem witness_FarTransferProtected_gate :
    let with_ := fun (sel : BitVec 16) (p : BitVec 16 → Desc → State → Bool) =>
      described sel gates fun g u => decide (0 ≤ g.dpl.toNat ∧ (rpl sel).toNat ≤ g.dpl.toNat) &&
        p (g.lo.extractLsb' 16 16) g u
    described 0x78 user3 (fun g _ => decide (¬ user3.cpl.toNat ≤ g.dpl.toNat)) = true ∧
    with_ 0x50 (fun _ g _ => !g.p) = true ∧ with_ 0x58 (fun c g _ => g.p && isNull c) = true ∧
    with_ 0x90 (fun c g u => g.p && !isNull c && okThen (descFetch c u) fun o _ => o.isNone) = true ∧
    with_ 0x60 (fun c g u => g.p && !isNull c && described c u fun d _ => !d.isCode) = true ∧
    with_ 0x88 (fun c g u => g.p && described c u fun d _ => d.isCode && d.dpl == 0 && !d.p) = true ∧
    with_ 0x40 (fun c g u => g.p && described c u fun d _ => d.isCode && d.dpl == 0 && d.p) = true := by decide +kernel

/-- Through a gate at the same level, to the offset and beyond the limit; and to the inner level with one parameter. -/
theorem witness_FarTransferProtected_call :
    pointed gates 0x40 0 (fun d u => d.type == 12 && okThen (callGateTarget 0x40 d false u) fun g v =>
      decide (g.off.toNat ≤ g.d.limit.toNat) && okay (setAccessed g.d v)) = true ∧
    pointed gates 0x68 0 (fun d u => okThen (callGateTarget 0x68 d false u) fun g _ =>
      decide (g.d.limit.toNat < g.off.toNat)) = true ∧
    (let s := gates
     pointed s 0x40 0 (fun d u => okThen (callGateTarget 0x40 d true u) fun g v => decide (¬ g.d.dpl.toNat < s.cpl.toNat) &&
      okThen (preparePushes s.segs.ss 0 s.user s.sp [(v.csItem g.n).1, (g.n, s.nextEip.toNat % 256 ^ g.n)]
        (v.csItem g.n).2) fun _ w => okay (setAccessed g.d w)) = true) ∧
    (let s := user3
     pointed s 0x43 0 (fun d u => okThen (callGateTarget 0x43 d true u) fun g v =>
      !g.d.isConforming && decide (g.d.dpl.toNat < s.cpl.toNat ∧ g.count = 1 ∧ g.off.toNat ≤ g.d.limit.toNat) &&
      okThen (innerStack g.d.dpl 0 v) fun x u1 => okThen (checkInner g.d.dpl x.1 0 u1) fun ds u2 =>
      okThen (preparePushes (ds.toReg x.1) (x.1 &&& 0xFFFC) false x.2 (List.replicate (4 + g.count) (g.n, 0)) u2)
      fun _ u3 => okThen (stackReads s.sp g.n ((List.range g.count).map fun i => i * g.n) u3) fun _ u4 =>
      okThen (setAccessed ds (u4.drew).drew) fun _ u5 => okay (setAccessed g.d u5)) = true) ∧
    (let s := user3
     pointed s 0x6B 0 (fun d u => okThen (callGateTarget 0x6B d true u) fun g _ =>
      decide (g.d.dpl.toNat < s.cpl.toNat ∧ g.d.limit.toNat < g.off.toNat)) = true) := by decide +kernel

/-- Inner stacks: null; no descriptor; another level; not present; good. The TSS one byte too short, and just long enough. -/
theorem witness_FarTransferProtected_stack :
    isNull 2 = true ∧ okThen (descFetch 0x98 gates) (fun o _ => o.isNone) = true ∧
    described 0x33 gates (fun d _ => d.dpl != 0) = true ∧
    described 0x80 gates (fun d _ => rpl 0x80 == 0 && d.dpl == 0 && d.isWritable && !d.p) = true ∧
    described 0x10 gates (fun d _ => rpl 0x10 == 0 && d.dpl == 0 && d.isWritable && d.p) = true ∧
    gates.pg = false ∧ gates.tr.attr.e = true ∧ real16.tr.attr.e = false ∧
    (∀ l ∈ [8, 9, 0x18, 0x19], (l < 8 * (if l < 0x10 then 0 else 2) + 9 ↔ (l = 8 ∨ l = 0x18))) := by decide +kernel

/-- A return to level 3: the frame at 1000h is 100h, 3Bh, 900h, 33h; and the outer selectors that fail. -/
theorem witness_FarTransferProtected_outer :
    let frame := fun (ss : Byte) (p : Desc → BitVec 16 → BitVec 16 → State → Bool) =>
      let s := put gates 0x1000 [0, 1, 0, 0, 0x3B, 0, 0, 0, 0, 9, 0, 0, ss]
      okThen (stackReads s.sp 4 [0, 4] s) fun l t => l == [0x100, 0x3B] &&
        let cs : BitVec 16 := 0x3B
        okThen (returnTarget cs t) fun d t3 => decide (rpl cs ≠ s.cpl) &&
          okThen (stackReads s.sp 4 [8, 12] t3) fun l u => l.length == 2 && p d (BitVec.ofNat 16 (l.getD 1 0)) cs u
    frame 3 (fun _ sel _ _ => isNull sel) = true ∧
    frame 0x30 (fun _ sel cs _ => !isNull sel && rpl sel != rpl cs) = true ∧
    frame 0x9B (fun _ sel cs u => rpl sel == rpl cs && okThen (descFetch sel u) fun o _ => o.isNone) = true ∧
    frame 0x13 (fun _ sel cs u => described sel u fun ds _ => ds.dpl != rpl cs) = true ∧
    frame 0x33 (fun d sel cs u => described sel u fun ds v => ds.isWritable && ds.dpl == rpl cs && ds.p &&
      decide (0x100 ≤ d.limit.toNat) && okThen (setAccessed d v) fun _ w =>
        okay (setAccessed ds (w.enterCS cs d (rpl cs) 0x100))) = true := by decide +kernel

/-- gates with the task whose image stands at 5100h (EIP 400h, EFLAGS 2, CS 8, data segments 10h), a TSS 0Ch in the LDT, and
task gates to 18h (98h), to 18h but not present (A0h), to the LDT's 0Ch (A8h), a null selector (B0h), no descriptor (B8h) and
data (C0h). -/
def taskGates : State :=
  let s := put gates 0x5120
    ([0, 4, 0, 0, 2] ++ List.replicate 35 0 ++ [0x10, 0, 0, 0, 8, 0, 0, 0, 0x10, 0, 0, 0, 0x10])
  let s := put s 0x898
    [0, 0, 0x18, 0, 0, 0x85, 0, 0, 0, 0, 0x18, 0, 0, 0x05, 0, 0, 0, 0, 0x0C, 0, 0, 0x85, 0, 0,
     0, 0, 0, 0, 0, 0x85, 0, 0, 0, 0, 0xF8, 3, 0, 0x85, 0, 0, 0, 0, 0x10, 0, 0, 0x85, 0, 0]
  { put s 0x6008 [0x67, 0, 0, 0x51, 0, 0x89, 0, 0] with
    gdtr := ⟨0x800, 0xC7⟩, ldtr := (Desc.mk 0x6000000F 0x00008200 0x828).toReg 0x28 }

/-- A far JMP or CALL to a TSS: one in the LDT, one above its level, one that completes, one that is refused, one whose new
task faults. Through a task gate: not reachable, not present, each wrong target, and one that completes. -/
theorem witness_FarTransferProtected_task :
    let s := taskGates
    let may := fun (s : State) (sel : BitVec 16) (d : Desc) => decide (s.cpl.toNat ≤ d.dpl.toNat ∧ (rpl sel).toNat ≤ d.dpl.toNat)
    let gate := fun (sel : BitVec 16) (p : BitVec 16 → Desc → State → Bool) =>
      pointed s sel 0 fun d u => d.type == 5 && may s sel d && p (d.lo.extractLsb' 16 16) d u
    s.pfx.lock = false ∧ s.prot = true ∧ pointed s 0x0C 0 (fun d _ => d.isTss && selTI 0x0C) = true ∧
    pointed s 0x1B 0 (fun d _ => d.isTss && !may s 0x1B d) = true ∧
    (∀ reason ∈ [TaskReason.jump, .call], pointed s 0x18 0 (fun d u => d.isTss && may s 0x18 d &&
      okay (taskSwitch 0x18 d reason s.nextEip s.eflags 0 u)) = true) ∧
    pointed s 0x20 0 (fun d u => d.isTss && may s 0x20 d && (match taskSwitch 0x20 d .jump s.nextEip s.eflags 0 u with
      | .error (.exc x) _ => x.vector != 0
      | _ => false)) = true ∧
    (let s := put s 0x514C [0x10]
     pointed s 0x18 0 (fun d u => d.isTss && (match taskSwitch 0x18 d .call s.nextEip s.eflags 0 u with
      | .error (.late _) _ => true
      | _ => false)) = true) ∧
    pointed s 0x9B 0 (fun d _ => d.type == 5 && !may s 0x9B d) = true ∧ gate 0xA0 (fun _ d _ => !d.p) = true ∧
    gate 0xA8 (fun x d _ => d.p && selTI x) = true ∧ gate 0xB0 (fun x d _ => d.p && isNull x) = true ∧
    gate 0xB8 (fun x d u => d.p && !selTI x && !isNull x && okThen (descFetch x u) fun o _ => o.isNone) = true ∧
    gate 0xC0 (fun x d u => d.p && !selTI x && !isNull x && described x u fun e _ => !e.isTss) = true ∧
    gate 0x98 (fun x d u => d.p && !selTI x && !isNull x && described x u fun e v => e.isTss &&
      okay (taskSwitch x e .jump s.nextEip s.eflags 0 v)) = true := by decide +kernel

/-- The last vector inside the table, the first one beyond it, and the frame of each entry. -/
theorem witness_RealInterrupt :
    let s := { regs real16 fun r => { r with esp := 0x100 } with idtr := ⟨0, 0x83⟩ }
    s.pe = false ∧ s.pg = false ∧ s.pfx.lock = false ∧ 4 * (0x20 : Byte).toNat + 3 ≤ s.idtr.limit.toNat ∧
    ¬ 4 * (0x21 : Byte).toNat + 3 ≤ s.idtr.limit.toNat ∧
    Event.isDouble ⟨0x20, .external, s.eip, none, false⟩ = false ∧
    okay (preparePushes s.segs.ss 0 s.user s.sp (s.realFrame s.eip) (s.atVector 0x20)) = true ∧
    okay (preparePushes s.segs.ss 0 s.user s.sp (s.realFrame s.nextEip) (s.atVector 3)) = true ∧
    (flags s 0x802).status.of = true ∧ s.status.of = false ∧ s.cfg.coprocessorPresent = false := by decide +kernel

/-- INT 21h through the interrupt gate. -/
theorem witness_SameLevelInterrupt :
    let s := tables
    let lo := (s.idtEntry 0x21).1
    let hi := (s.idtEntry 0x21).2.1
    let sel := lo.extractLsb' 16 16
    s.prot = true ∧ s.pg = false ∧ s.pfx.lock = false ∧ 8 * (0x21 : Byte).toNat + 7 ≤ s.idtr.limit.toNat ∧
    hi.extractLsb' 8 5 = 14 ∧ bit hi 15 = true ∧ s.cpl.toNat ≤ (hi.extractLsb' 13 2).toNat ∧ isNull sel = false ∧
    described sel (s.idtEntry 0x21).2.2 (fun d t => decide (d.isCode = true ∧ d.p = true ∧ d.isConforming = false ∧
        d.dpl = s.cpl ∧ (0x3000 : Dword).toNat ≤ d.limit.toNat) &&
      okThen (preparePushes s.segs.ss 0 s.user s.sp [(4, 2), (t.csItem 4).1, (4, 0x7000)] (t.csItem 4).2) fun _ u =>
        okay (setAccessed d u)) = true := by decide +kernel

/-- INT n refused: the first vector beyond the IDT and the last one in it; no gate; a gate of level 0 at level 3; a gate that
is not present. -/
theorem witness_SameLevelInterrupt_refused :
    let s := { user3 with idtr := ⟨0x1800, 0x117⟩ }
    s.prot = true ∧ s.pg = false ∧ s.pfx.lock = false ∧ s.idtr.limit.toNat < 8 * (0x23 : Byte).toNat + 7 ∧
    8 * (0x22 : Byte).toNat + 7 ≤ s.idtr.limit.toNat ∧ (s.idtEntry 0x20).2.1.extractLsb' 8 5 = 0 ∧
    (let hi := (s.idtEntry 0x21).2.1
     hi.extractLsb' 8 5 = 14 ∧ ¬ s.cpl.toNat ≤ (hi.extractLsb' 13 2).toNat) ∧
    (let hi := ((put s 0x190D [0x6E]).idtEntry 0x21).2.1
     hi.extractLsb' 8 5 = 14 ∧ s.cpl.toNat ≤ (hi.extractLsb' 13 2).toNat ∧ bit hi 15 = false) := by decide +kernel

/-- An external interrupt through vector 21h, whose IDT entry is given: the entry, with a test of its selector and of the
state behind reading it. -/
def handled (s : State) (entry : List Byte) (p : BitVec 16 → State → Bool) : Bool :=
  let s := put s 0x1908 entry
  let hi := (s.idtEntry 0x21).2.1
  s.pe && !s.pg && bit hi 15 && p ((s.idtEntry 0x21).1.extractLsb' 16 16) (s.idtEntry 0x21).2.2

/-- The handler's code segment: null, without a descriptor, data, code above CPL, not present; from virtual-8086 mode code of
level 3 and a 16-bit gate; an offset beyond the limit at the same level. -/
theorem witness_SameLevelInterrupt_segment :
    let gate := fun (sel type : Byte) => [0, 0x30, sel, 0, 0, 0x80 + type, 0, 0]
    let code := fun (s : State) (p : Desc → State → Bool) (sel : BitVec 16) (u : State) =>
      !isNull sel && described sel u fun d t => d.isCode && decide (d.dpl.toNat ≤ s.cpl.toNat) && p d t
    let v := { gates with eflags := 0x20002, cpl := 3, segs := v86.segs }
    8 * (0x21 : Byte).toNat + 7 ≤ gates.idtr.limit.toNat ∧
    handled gates (gate 3 14) (fun sel _ => isNull sel) = true ∧
    handled gates (gate 0xF8 14) (fun sel u => !isNull sel && okThen (descFetch sel u) fun o _ => o.isNone) = true ∧
    handled gates (gate 0x10 14) (fun sel u => described sel u fun d _ => !d.isCode) = true ∧
    handled gates (gate 0x38 15) (fun sel u => described sel u fun d _ => d.isCode && decide (¬ d.dpl.toNat ≤ gates.cpl.toNat)) = true ∧
    handled gates (gate 0x70 14) (code gates fun d _ => !d.p) = true ∧
    v.vm = true ∧ handled v (gate 0x38 14) (code v fun d _ => d.p && d.dpl != 0) = true ∧
    handled v (gate 8 6) (code v fun d _ => d.p && d.dpl == 0) = true ∧
    handled gates (gate 0x48 14) (code gates fun d t => d.p && d.dpl == gates.cpl &&
      decide (d.limit.toNat < (0x3000 : Dword).toNat) &&
      okay (preparePushes t.segs.ss 1 t.user t.sp [(4, 2), (t.csItem 4).1, (4, 0x7000)] (t.csItem 4).2)) = true := by
  decide +kernel

/-- Through a task gate: each wrong selector; a switch that faults; one that completes, and a stack with and without room for
the error code. -/
theorem witness_SameLevelInterrupt_task :
    let s := taskGates
    let gate := fun sel : Byte => [0, 0, sel, 0, 0, 0x85, 0, 0]
    let tss := fun (p : EStateM.Result Stop State Unit → Bool) (sel : BitVec 16) (u : State) =>
      !selTI sel && !isNull sel && described sel u fun d t => d.isTss && p (taskSwitch sel d .interrupt 0x7000 s.eflags 1 t)
    let code := fun w : State => preparePushes w.segs.ss 1 w.user w.sp [(4, 0)] w
    handled s (gate 0x0C) (fun sel _ => selTI sel) = true ∧ handled s (gate 2) (fun sel _ => isNull sel) = true ∧
    handled s (gate 0xF8) (fun sel u => okThen (descFetch sel u) fun o _ => o.isNone) = true ∧
    handled s (gate 0x10) (fun sel u => described sel u fun d _ => !d.isTss) = true ∧
    handled s (gate 0x20) (tss fun r => !okay r) = true ∧
    handled s (gate 0x18) (tss fun r => okThen r fun _ w => okay (code w)) = true ∧
    handled (put s 0x5138 [2]) (gate 0x18) (tss fun r => okThen r fun _ w => match code w with
      | .error (.exc _) _ => true
      | _ => false) = true := by decide +kernel

/-- The hypotheses of an entry to the inner level through vector v, with a test of the offset against the limit. -/
def innerEntry (s : State) (e : Event) : Bool :=
  let lo := (s.idtEntry e.vector).1
  let hi := (s.idtEntry e.vector).2.1
  let sel := lo.extractLsb' 16 16
  s.pe && !s.pg && bit hi 11 && bit hi 15 && (hi.extractLsb' 8 5 == 14 || hi.extractLsb' 8 5 == 15) && !isNull sel &&
  described sel (s.idtEntry e.vector).2.2 fun d u1 => d.isCode && d.p && !d.isConforming && d.dpl == 0 &&
    (s.vm || decide (0 < s.cpl.toNat)) &&
    okThen (innerStack d.dpl 1 u1) fun x u2 => okThen (checkInner d.dpl x.1 1 u2) fun ds u3 =>
      let g := s.segs
      let drawn := itemsOf 4 [g.gs.sel, g.fs.sel, g.ds.sel, g.es.sel, g.ss.sel, g.cs.sel] u3
      let item := fun i => drawn.1.getD i (0, 0)
      let frame := (if s.vm then [item 0, item 1, item 2, item 3] else []) ++
        [item 4, (4, s.regs.esp.toNat), (4, s.eflags.toNat), item 5, (4, e.ret.toNat)]
      okThen (preparePushes (ds.toReg x.1) ((x.1 &&& 0xFFFC) + 1) false x.2 frame drawn.2) fun _ u4 =>
        decide ((lo.extractLsb' 0 16).toNat ≤ d.limit.toNat) &&
        okThen (setAccessed ds u4) fun _ u5 => okay (setAccessed d u5)

/-- Through the trap gate at the same level; and from virtual-8086 mode and from level 3 through the interrupt gate onto the
inner stack that the TSS names; an offset beyond the limit of the gate's code. -/
theorem witness_HandlerEntry :
    let s := put v86 0x5004 [0, 0x20, 0, 0, 0x10]
    let e : Event := ⟨0x21, .external, 0x7000, none, false⟩
    tables.pe = true ∧ tables.pg = false ∧
    okThen (interrupt ⟨0x22, .external, 0x7000, none, false⟩ tables) (fun switched _ => !switched) = true ∧
    s.vm = true ∧ innerEntry s e = true ∧ user3.vm = false ∧ innerEntry user3 e = true ∧
    described 0x48 (put user3 0x190A [0x48]) (fun d _ => decide (d.limit.toNat < 0x3000)) = true := by
  decide +kernel

/-- A first event and the exception its delivery raises: behind a double fault; contributory after contributory;
contributory after a benign one. -/
theorem witness_DoubleFault :
    let s := { prot32 with idtr := ⟨0, 7⟩ }
    let run := fun v k => match interrupt ⟨v, k, s.eip, some 0, false⟩ s with
      | .error (.exc x) _ => some x.vector
      | _ => none
    s.pe = true ∧ run 8 .exception = some 13 ∧ run 14 .exception = some 13 ∧ run 11 .exception = some 13 ∧
    run 3 .exception = some 13 ∧ run 0x40 .software = some 13 := by decide +kernel

/-- An exception behind the commit of a task switch (the new task's CS is data): of a double fault, a page fault, a
contributory exception, a benign one and an interrupt. -/
theorem witness_DoubleFault_late :
    let run := fun v k =>
      let s := put (put taskGates 0x514C [0x10]) (0x1800 + 8 * v) [0, 0, 0x18, 0, 0, 0x85, 0, 0]
      match interrupt ⟨BitVec.ofNat 8 v, k, s.eip, none, false⟩ s with
      | .error (.late x) _ => s.pe && x.vector == 10
      | _ => false
    run 8 .exception = true ∧ run 14 .exception = true ∧ run 11 .exception = true ∧ run 3 .exception = true ∧
    run 0x40 .external = true := by decide +kernel

/-- Real mode, at the limit and beyond, and protected mode at the same level: the frame at 1000h is 0, 8, 2. -/
theorem witness_InterruptReturn :
    (∀ ip ∈ ([0xFE, 0xFF] : List Byte), let s := put (regs real16 fun r => { r with esp := 0x100 }) 0x100 [ip]
     let s := { s with segs := { s.segs with cs := { s.segs.cs with limit := 0xFE } } }
     s.pfx.lock = false ∧ s.pe = false ∧
     okThen (stackReads s.sp 2 [0, 2, 4] s) (fun l _ => l == [ip.toNat, 0, 0] &&
       (decide (ip.toNat ≤ s.segs.cs.limit.toNat) == (ip == 0xFE))) = true) ∧
    (let s := put tables 0x1004 [8, 0, 0, 0, 2]
     s.pfx.lock = false ∧ s.prot = true ∧ bit s.eflags 14 = false ∧
     okThen (stackReads s.sp 4 [0, 4, 8] s) (fun l t => l == [0, 8, 2] &&
        okThen (returnTarget 8 t) fun d u => decide (rpl 8 = s.cpl) && decide (0 ≤ d.limit.toNat) &&
          okay (setAccessed d (u.setSp (s.above 12)))) = true) := by decide +kernel

/-- To level 3: the frame is 100h, 3Bh, 2, 900h, 33h. To virtual-8086 mode: EIP at the bound and beyond it, six selectors. To
the task behind a back-link: TSS 18h made busy, its image at 5100h; a link that is null, in the LDT, without a descriptor,
no busy TSS; a TSS too short for the link and one just long enough. -/
theorem witness_InterruptReturn_outer :
    (let s := put gates 0x1000 [0, 1, 0, 0, 0x3B, 0, 0, 0, 2, 0, 0, 0, 0, 9, 0, 0, 0x33]
     okThen (stackReads s.sp 4 [0, 4, 8] s) (fun l t => l == [0x100, 0x3B, 2] &&
        let cs : BitVec 16 := 0x3B
        okThen (returnTarget cs t) fun d u => decide (rpl cs ≠ s.cpl) &&
          okThen (stackReads s.sp 4 [12, 16] u) fun l u1 => described (BitVec.ofNat 16 (l.getD 1 0)) u1 fun ds u2 =>
            ds.isWritable && ds.dpl == rpl cs && ds.p && decide (0x100 ≤ d.limit.toNat) &&
            okThen (setAccessed d u2) fun _ u3 => okay (setAccessed ds (u3.enterCS cs d (rpl cs) 0x100))) = true) ∧
    (∀ hi ∈ ([0, 1] : List Byte), let s := put gates 0x1000 [0xFF, 0xFF, hi, 0, 0, 0, 0, 0, 2, 0, 2]
     s.prot = true ∧ bit s.eflags 14 = false ∧ s.os32 = true ∧ s.cpl = 0 ∧
     okThen (stackReads s.sp 4 [0, 4, 8] s) (fun l t => l == [0xFFFF + 0x10000 * hi.toNat, 0, 0x20002] &&
        bit 0x20002 17 && okThen (stackReads s.sp 4 [12, 16, 20, 24, 28, 32] t) fun l _ => l.length == 6) = true) ∧
    (let s := flags (put (put gates 0x5000 [0x18]) 0x81D [0x8B]) 0x4002
     let s := put s 0x5120
       ([0, 4, 0, 0, 2] ++ List.replicate 35 0 ++ [0x10, 0, 0, 0, 8, 0, 0, 0, 0x10, 0, 0, 0, 0x10])
     s.pfx.lock = false ∧ s.prot = true ∧ bit s.eflags 14 = true ∧ 1 ≤ s.tr.limit.toNat ∧
     okThen (linRead s.tr.base 2 s) (fun v t => decide (v = 0x18) && described 0x18 t fun d u => d.type == 11 &&
       okay (taskSwitch 0x18 d .iret s.nextEip s.eflags 0 u)) = true) ∧
    isNull 0 = true ∧ selTI 0x2C = true ∧ okThen (descFetch 0x98 gates) (fun o _ => o.isNone) = true ∧
    described 0x10 gates (fun d _ => decide (d.type ≠ 3 ∧ d.type ≠ 11)) = true := by decide +kernel

/-- The tests that fail, at the limit below the least one of each size, and a jump, a call and a nested return that complete:
the image at 5100h names EIP 400h, EFLAGS 2, CS 8 and data segments 10h. -/
theorem witness_TaskSwitch :
    let short := fun d : Desc => d.limit.toNat < (if bit d.hi 11 then 0x67 else 0x2B)
    let s := put tables 0x5120
      ([0, 4, 0, 0, 2] ++ List.replicate 35 0 ++ [0x10, 0, 0, 0, 8, 0, 0, 0, 0x10, 0, 0, 0, 0x10])
    (Desc.mk 0x51000067 0x00000900 0x818).p = false ∧
    ((Desc.mk 0x51000067 0x00008B00 0x818).p = true ∧ (Desc.mk 0x51000067 0x00008B00 0x818).isTssBusy = true) ∧
    (Desc.mk 0x51000067 0x00008900 0x818).isTssBusy = false ∧ short ⟨0x51000066, 0x00008900, 0x818⟩ ∧
    short ⟨0x5100002A, 0x00008100, 0x818⟩ ∧ ¬ short ⟨0x51000067, 0x00008900, 0x818⟩ ∧
    ((prot32.tr.limit.toNat < 0x2B ∧ prot32.tr.attr.e = false) ∧ ¬ s.tr.limit.toNat < 0x67) ∧
    okay (taskSwitch 0x18 ⟨0x51000067, 0x00008900, 0x818⟩ .jump 0x7007 2 0 s) = true ∧
    okay (taskSwitch 0x18 ⟨0x51000067, 0x00008900, 0x818⟩ .call 0x7007 2 0 s) = true ∧
    okay (taskSwitch 0x18 ⟨0x51000067, 0x00008B00, 0x818⟩ .iret 0x7001 0x4002 0 s) = true ∧
    (match taskSwitch 0x18 ⟨0x51000067, 0x00008900, 0x818⟩ .call 0x7007 2 0 (put s 0x514C [0x10]) with
      | .error (.late x) _ => x == ⟨10, some 0x10⟩
      | _ => false) = true := by decide +kernel

/-- The parts of a jump to a 32-bit TSS: everything prepared, both descriptors updated. -/
theorem witness_TaskSwitch_parts :
    let s := tables
    let d : Desc := ⟨0x51000067, 0x00008900, 0x818⟩
    okThen (prepareSaves s.tr.base ((List.range 10).map (fun i => (0x20 + 4 * i, 4, i)) ++
        (List.range 6).map fun i => (0x48 + 4 * i, 2, i)) s) (fun _ t1 =>
      okThen (prepareReads d.base ((List.range 11).map (fun i => (0x1C + 4 * i, 4)) ++
        (List.range 8).map fun i => (0x48 + 4 * i, 2)) t1) fun _ t2 =>
      okThen (prepareSaves d.base [] t2) fun _ t3 =>
      okThen (prepareUpdate true (s.gdtr.base + BitVec.ofNat 32 (8 * (s.tr.sel >>> 3).toNat + 4)) t3) fun old t4 =>
      okThen (prepareUpdate true (d.lin + 4) t4) fun new t5 =>
      okThen (makeUpdate 0 0xFFFFFDFF old t5) fun _ u1 => okay (makeUpdate 0x200 0xFFFFFFFF new u1)) = true ∧
    s.pg = false ∧ Mem.wf s.mem = true ∧ (∀ i, i < 4 → s.kindAt (0x81C + BitVec.ofNat 32 i) = .ram) := by decide +kernel

/-- The new task's loads: null selectors, the LDT's own, no descriptor; each register's good descriptor, and one that is not
present or of another kind; code with the limit 0FFh; a V86 task. -/
theorem witness_TaskSwitch_loads :
    isNull 3 = true ∧ (isNull 0x2C = false ∧ selTI 0x2C = true) ∧
    okThen (descFetch 0x98 gates) (fun o _ => o.isNone) = true ∧ selTI 0x98 = false ∧
    described 0x28 gates (fun d _ => d.type == 2 && d.p) = true ∧
    described 8 gates (fun d u => d.isCode && d.dpl == rpl 8 && d.p && okay (setAccessed d u)) = true ∧
    described 0x70 gates (fun d _ => d.isCode && d.dpl == rpl 0x70 && !d.p) = true ∧
    described 0x10 gates (fun d u => !d.isCode && d.isWritable && d.isReadable && d.dpl == gates.cpl && rpl 0x10 == 0 &&
      d.p && okay (setAccessed d u)) = true ∧
    described 0x80 gates (fun d _ => d.isWritable && d.isReadable && d.dpl == gates.cpl && !d.p) = true ∧
    described 0x18 gates (fun d _ => !d.isCode && !d.isWritable && !d.isReadable) = true ∧
    okThen (taskLoadCs 0x48 0 gates) (fun _ t => decide (t.segs.cs.limit = 0xFF)) = true ∧
    okThen (taskLoadLdtr 0 0 v86) (fun _ t => t.vm) = true := by decide +kernel

theorem witness_FlagInstructions : prot32.pfx.lock = false ∧ prot32.eflags &&& 0x2A = 2 := by decide +kernel

/-- Real mode, CPL = IOPL, CPL above IOPL, virtual-8086 mode. -/
theorem witness_InterruptFlag :
    real16.pfx.lock = false ∧ real16.pe = false ∧
    (let s := { flags prot32 0x3002 with cpl := 3 }
     s.pfx.lock = false ∧ s.cpl.toNat ≤ s.iopl.toNat) ∧
    (let s := { flags prot32 0x2002 with cpl := 3 }
     s.pfx.lock = false ∧ s.pe = true ∧ s.iopl.toNat < s.cpl.toNat) ∧
    (v86.pfx.lock = false ∧ v86.pe = true ∧ v86.vm = true ∧ v86.iopl ≠ 3) := by decide +kernel

/-- Each event alone at the boundary, and what holds it off: a debug trap, a breakpoint, ANMI*, NMI, INTR. -/
theorem witness_InterruptFlag_boundary :
    let events := { prot32.lines with anmiPending := true, nmiPending := true, intr := true }
    let s : State := flags { prot32 with ssv := { prot32.ssv with enabled := true }, lines := events } 0x202
    let bp := fun s : State => { s with dregs := { s.dregs with dr0 := 0x7000, dr7 := 1 } }
    let trap := fun s : State => { s with pend := { s.pend with bs := true } }
    s.lines.reset = false ∧ s.run ≠ .superstate ∧ (trap (bp s)).boundary.due = .trap ∧ (bp s).boundary.due = .breakpoint ∧ s.boundary.due = .anmi ∧
    ({ s with ssv := prot32.ssv } : State).boundary.due = .nmi ∧
    ({ s with ssv := prot32.ssv, nmiMasked := true } : State).boundary.due = .intr ∧
    ({ s with ssv := prot32.ssv, nmiMasked := true, inhibit := .sti } : State).boundary.due = .nothing ∧
    ({ trap s with inhibit := .ss } : State).boundary.due = .nothing ∧
    ({ trap (bp s) with inhibit := .ss } : State).boundary.due = .breakpoint ∧
    ({ trap (bp s) with run := .shutdown } : State).boundary.due = .nmi ∧
    (flags (bp { prot32 with run := .running }) 0x10002).boundary.due = .nothing ∧
    (prot32.pg = false ∧ prot32.caches = false ∧ prot32.cfg.physMap = [] ∧ prot32.lines.flush = false ∧
      prot32.lines.stores = []) := by decide +kernel

theorem witness_DescriptorFetch :
    tables.pg = false ∧ Mem.wf tables.mem = true ∧ (∀ i, i < 4 → tables.holds (0x814 + BitVec.ofNat 32 i) = true) ∧
    (∀ i, i < 8 → tables.holds (0x810 + BitVec.ofNat 32 i) = true) ∧ tables.kindAt 0x815 = .ram ∧
    (let s := { tables with cfg := { tables.cfg with physMap := [⟨0x800, 0x837, .rom⟩] } }
     (∀ i, i < 4 → s.holds (0x814 + BitVec.ofNat 32 i) = true) ∧ s.kindAt 0x815 ≠ .ram) := by decide +kernel

/-- Each mode; a null selector; no descriptor beyond the limit; an allowed one, one of another level, one not present. -/
theorem witness_SegmentLoad :
    Sreg.ds ≠ .cs ∧ real16.pe = false ∧ (v86.pe = true ∧ v86.vm = true) ∧ tables.prot = true ∧ isNull 3 = true ∧
    isNull 0x38 = false ∧ okThen (descFetch 0x38 tables) (fun o _ => o.isNone) = true ∧
    okThen (descFetch 0x10 tables) (fun o u => o.any fun d => decide (rpl 0x10 = tables.cpl ∧ d.isWritable = true ∧
      d.dpl = tables.cpl ∧ d.isReadable = true ∧ d.p = true) && okay (setAccessed d u)) = true ∧
    okThen (descFetch 0x30 tables) (fun o _ => o.any fun d => !(d.dpl == tables.cpl)) = true ∧
    okThen (descFetch 0x10 (put tables 0x815 [0x13])) (fun o _ => o.any fun d => d.isWritable && !d.p) = true := by
  decide +kernel

theorem witness_SegmentMoves :
    real16.pfx.lock = false ∧ Sreg.ss ≠ .cs ∧
    okThen (locate .w (.reg .eax) false real16) (fun p t => okay (loadSeg .ss (p.value .w t) (p.seen t))) = true ∧
    okay (locate .w (.mem (.abs16 0x500)) true real16) = true ∧
    (real16.segs.get .ds).check real16.prot 0xFFFC 4 false = .ok ∧
    (real16.segs.get .ds).check real16.prot 0xFFFD 4 false = .violation ∧
    okThen (prepare .ds 0xFFFC 2 false real16) (fun x t1 => okThen (prepare .ds 0xFFFE 2 false t1) fun y t2 =>
      okay (loadSeg .es (BitVec.ofNat 16 (y.value (x.seen t2))) (y.seen (x.seen t2)))) = true := by
  decide +kernel

theorem witness_SelectorChecks :
    let s := regs tables fun r => { r with eax := 8 }
    tables.pfx.lock = false ∧ tables.prot = true ∧ real16.prot = false ∧ isNull 0 = true ∧ isNull 8 = false ∧
    okay (locate .w cell true tables) = true ∧
    okThen (locate .w (.reg .eax) false s) (fun p t => okay (inspect (p.value .w t) (p.seen t))) = true ∧
    tables.pg = false ∧ tables.gdtr.limit = 0x37 ∧ selTI 0xC = true ∧ tables.ldtr.null = true := by
  decide +kernel

/-- With paging on: a descriptor whose page is present, and one whose page is not, for LAR to LSL of a register. -/
theorem witness_SelectorChecks_paged :
    let s := fun base : Dword => regs { paged with gdtr := ⟨base, 0x37⟩ } fun r => { r with eax := 8 }
    let looked := fun (base : Dword) => match locate .w (.reg .eax) false (s base) with
      | .ok p t => inspect (p.value .w t) (p.seen t)
      | .error e t => .error e t
    (s 0).prot = true ∧ okay (looked 0x00403000) = true ∧ okay (linRead 0x00403008 8 (s 0)) = true ∧
    okay (linRead 0x00500008 8 (s 0)) = false ∧
    (match looked 0x00500000 with
      | .error (.exc x) t => x.vector == 14 && t.cr2 == 0x00500008
      | _ => false) = true := by decide +kernel

/-- Paging on, with the descriptor of selector 8 over two pages, the lower one a device's, the upper one not present. -/
def splitTable : State :=
  { paged with gdtr := ⟨0x00403FF4, 0x37⟩, cfg := { paged.cfg with physMap := [⟨0xABC000, 0xABCFFF, .device 0⟩] } }

/-- #PF with CR2 at the upper page, whichever page is checked first, and the device in the lower one is not read
(49_system_misc.md R612; 22_paging.md R224, R226). -/
theorem test_inspect_two_pages :
    (match inspect 8 splitTable with
      | .error (.exc x) t => x.vector == 14 && t.cr2 == 0x00404000 && t.out == []
      | _ => false) = true := by
  have h : splitTable.descAddr 8 = some 0x00403FFC := by decide +kernel
  rw [inspect_run, h]
  simp only [descRead, linRead, op_bind]
  rw [probe_two (by decide +kernel) (by decide +kernel)]
  generalize Config.upperPageFirst splitTable.free = first
  cases first <;> decide +kernel

/-- LLDT of the LDT and of a null selector, LTR of the available TSS; a TSS for LLDT and an LDT for LTR; an LDT selector;
descriptors that are not present. -/
theorem witness_SystemSegments :
    tables.pfx.lock = false ∧ tables.prot = true ∧ tables.cpl = 0 ∧ real16.prot = false ∧
    okay (locate .w cell true tables) = true ∧ okay (locate .w (.reg .eax) false tables) = true ∧
    okay (loadLdtr 0x28 tables) = true ∧ okay (loadTr 0x18 tables) = true ∧
    isNull 0 = true ∧ selTI 0x2C = true ∧ selTI 0x28 = false ∧
    okThen (descFetch 0x28 tables) (fun o _ => o.any fun d => d.type == 2 && d.p) = true ∧
    okThen (descFetch 0x18 tables) (fun o u => o.any fun d => d.type == 9 && d.p && okay (setBusy d u)) = true ∧
    okThen (descFetch 0x28 (put tables 0x82D [0x02])) (fun o _ => o.any fun d => d.type == 2 && !d.p) = true ∧
    okThen (descFetch 0x18 (put tables 0x81D [0x09])) (fun o _ => o.any fun d => d.type == 9 && !d.p) = true := by
  decide +kernel

theorem witness_TablesAndMachineStatus :
    prot32.pfx.lock = false ∧ prot32.level = 0 ∧
    (∀ w : Bool, (prot32.segs.get .ds).check prot32.prot 0x2000 6 w = .ok ∧
      (real16.segs.get .ds).check real16.prot 0xFFFA 6 w = .ok ∧
      (real16.segs.get .ds).check real16.prot 0xFFFB 6 w = .violation) ∧ real16.level = 0 ∧
    okThen (prepare .ds 0x2000 2 false prot32) (fun _ t => okay (prepare .ds 0x2002 4 false t)) = true ∧
    okThen (prepare .ds 0x2000 2 true prot32) (fun _ t => okay (prepare .ds 0x2002 4 true t)) = true ∧
    okay (locate .w cell true prot32) = true ∧ okay (locate .w cell false prot32) = true := by decide +kernel

/-- Level 0 with GD clear, with GD set, and another level. -/
theorem witness_SpecialRegisters :
    prot32.pfx.lock = false ∧ prot32.level = 0 ∧ bit prot32.dregs.dr7 13 = false ∧
    (let s := { prot32 with dregs := { prot32.dregs with dr7 := 0x2000 } }
     s.level = 0 ∧ bit s.dregs.dr7 13 = true) ∧ ({ prot32 with cpl := 1 } : State).level ≠ 0 ∧
    prot32.pg = false ∧ paged.pg = true ∧ paged.level = 0 := by decide +kernel

/-- A search that finds way 2 and one that finds nothing; the entry a write command without REP picks by the counter. -/
theorem witness_SpecialRegisters_tlb :
    let c : Dword := 0x004037E0
    let page := c.extractLsb' 12 20
    let s : State := { prot32 with tlb := prot32.tlb.put page 2 ⟨true, page, 0xABC, false, true, false⟩ }
    (∀ k : BitVec 2, s.tlb.entries[tlbIndex page k].tag = page ↔ k = 2) ∧ c.extractLsb' 9 2 = 3 ∧ c.extractLsb' 7 2 = 3 ∧
    c.extractLsb' 5 2 = 3 ∧ (∀ k : BitVec 2, prot32.tlb.entries[tlbIndex page k].tag ≠ page) ∧ bit s.tr7 4 = false ∧
    (0 : Fin 32) ≠ tlbIndex page 2 ∧ paged.pg = true ∧ bit (0x60000011 : Dword) 31 = false := by decide +kernel

theorem witness_PrivilegedInstructions :
    (let s := { prot32 with cpl := 1 }
     s.pfx.lock = false ∧ s.pe = true ∧ s.cpl ≠ 0) ∧ (v86.pe = true ∧ v86.cpl ≠ 0 ∧ v86.vm = true) ∧
    (let s := real16
     s.pfx.lock = false ∧ s.pe = false ∧ s.pg = false ∧ bit s.dregs.dr7 13 = false ∧
     (s.segs.get .ds).check false 0x500 6 false = .ok ∧
     okThen (prepare .ds 0x500 2 false s) (fun _ t => okay (prepare .ds 0x502 4 false t)) = true ∧
     okay (locate .w (.mem (.abs16 0x500)) false s) = true ∧ bit (s.reg .d .ecx) 31 = false) := by decide +kernel

theorem witness_UserKeepsSystemRegisters :
    ∃ (i : Instr) (s t : State), s.pe = true ∧ s.cpl ≠ 0 ∧ exec i s = .next t := by
  obtain ⟨t, h⟩ := of_next (o := exec .nop { prot32 with cpl := 3 }) (by decide +kernel)
  exact ⟨_, _, t, by decide +kernel, by decide +kernel, h⟩

theorem witness_ScallResult :
    prot32.pfx.lock = false ∧ prot32.cfg.part.hasSsv = true ∧ prot32.cfg.part.hasIcache = true ∧
    (∃ p a t, prot32.operand .d (.reg .eax) true p a t) ∧
    ({ prot32.cfg with part := .p38600DX } : Config.Params).part.hasSsv = false ∧
    (prot32.enterSsv 0x7000 1 2).lines.reset = false ∧ prot32.icache.enabled = false :=
  ⟨rfl, by decide +kernel, by decide +kernel, operand_of (by decide +kernel), by decide +kernel, by decide +kernel,
    by decide +kernel⟩

theorem witness_HaltWaitEscape : prot32.pfx.lock = false ∧ prot32.level = 0 := by decide +kernel

end Sys2Proof.Tests
end

section
/-!
What reading code may change: fetching ahead (20_memory.md R140) and predicted translations (22_paging.md R232(f)). The
boundary in front of an instruction does no more, and the step then runs the instruction fetched at CS:EIP
(00_scope.md R25).
-/
namespace Sys2Proof.Machine

/-! ## What reading code may change -/

/-- Only what reading code touches differs: memory, as page tables are marked, the replaced bytes, the queue, the
caches, the counter of free values, and what devices are told. -/
def CodeRead (s t : State) : Prop :=
  t = { s with mem := t.mem, stale := t.stale, queue := t.queue, flushed := t.flushed, icache := t.icache,
               tlb := t.tlb, free := t.free, out := t.out }

theorem CodeRead.refl (s : State) : CodeRead s s := rfl

theorem CodeRead.trans {s t u : State} (h : CodeRead s t) (h' : CodeRead t u) : CodeRead s u := by
  unfold CodeRead at *
  rw [h']; conv => lhs; rw [h]

/-- Reading code is an access that meets no data breakpoint. -/
theorem codeRead_iff {s t : State} : CodeRead s t ↔ Accessed s t ∧ t.pend = s.pend := by
  constructor
  · intro h
    exact ⟨by rw [h]; rfl, by rw [h]⟩
  · rintro ⟨h, hp⟩
    unfold CodeRead
    unfold Accessed at h
    rwa [hp] at h

theorem CodeRead.accessed {s t : State} (h : CodeRead s t) : Accessed s t := (codeRead_iff.1 h).1

theorem Prepared.codeRead {s t : State} (h : Prepared s t) : CodeRead s t := by rw [h]; rfl

theorem CodeRead.drew (s : State) : CodeRead s s.drew := rfl

theorem CodeRead.noteReads (s : State) (l : List Dword) : CodeRead s (s.noteReads l) := rfl

theorem CodeRead.bus (s : State) (pa : Dword) (n : Nat) : CodeRead s (s.bus pa n) := rfl

theorem CodeRead.putByte (s : State) (pa : Dword) (v : Byte) : CodeRead s (s.putByte pa v) := rfl

theorem CodeRead.putPhys32 (s : State) (pa v : Dword) : CodeRead s (s.putPhys32 pa v) :=
  (((CodeRead.putByte s _ _).trans (.putByte _ _ _)).trans (.putByte _ _ _)).trans (.putByte _ _ _)

theorem CodeRead.orPhys32 (s : State) (pa bits : Dword) : CodeRead s (s.orPhys32 pa bits) := by
  simp only [State.orPhys32]
  split
  · exact .bus s pa 4
  · exact (CodeRead.bus s pa 4).trans (.putPhys32 _ pa _)

/-! ## Translations -/

/-- Making a prepared page's translation happen marks its table entries and fills the TLB; it meets no breakpoint. -/
theorem CodeRead.touch {p : Piece} {w : Bool} {s t : State} (h : touch p w s = .ok () t) : CodeRead s t := by
  unfold Machine.touch at h
  simp only [op_bind, op_get, op_ite] at h
  split at h
  · cases hf : p.fill with
    | none => rw [hf] at h; cases h; rfl
    | some x =>
      obtain ⟨pdeAddr, pteAddr, u, w'⟩ := x
      rw [hf] at h
      cases h
      exact (CodeRead.drew s).trans (((CodeRead.orPhys32 _ _ _).trans (.orPhys32 _ _ _)).trans rfl)
  · cases h; rfl

theorem CodeRead.predict (s : State) (page : BitVec 20) : CodeRead s (s.predict page) := by
  unfold State.predict
  cases s.walk (page ++ 0#12) false false with
  | notPresent => exact .noteReads s _
  | protection => exact .noteReads s _
  | ok pdeAddr pteAddr pa u w =>
    obtain ⟨t, ht, -⟩ := touch_ok ⟨page, pa, some (pdeAddr, pteAddr, u, w)⟩ false
      (s.noteReads (s.walkReads (page ++ 0#12)))
    simp only [ht, endState]
    exact (CodeRead.noteReads s _).trans (.touch ht)

theorem CodeRead.predictAll : ∀ (l : List (BitVec 20)) (s : State), CodeRead s (l.foldl State.predict s)
  | [], s => .refl s
  | page :: l, s => (CodeRead.predict s page).trans (.predictAll l _)

/-! ## Fetching ahead -/

/-- Translating by the TLB and the tables, and then keeping something that reading code touches. -/
theorem CodeRead.walked {lin fa pa : Dword} {w u : Bool} {keep : State → State} {addr : Piece → Dword} {s t : State}
    (h : (do let p ← probePage lin fa w u; Machine.touch p w; modify keep; return addr p : Op Dword) s = .ok pa t)
    (hkeep : ∀ v, CodeRead v (keep v)) :
    CodeRead s t := by
  obtain ⟨p, v, hprobe, h⟩ := op_bind_eq_ok h
  obtain ⟨⟨⟩, v', htouch, h⟩ := op_bind_eq_ok h
  cases h
  exact ((probePage_ok hprobe).codeRead.trans (.touch htouch)).trans (hkeep v')

/-- Translating the address of an instruction byte: from the queue, with paging off, from the fetch unit's own
translation, or by the TLB and the tables. -/
theorem CodeRead.fetchPage {lin pa : Dword} {s t : State} (h : fetchPage lin s = .ok pa t) : CodeRead s t := by
  unfold Machine.fetchPage at h
  rw [op_get_bind] at h
  cases hq : s.queue.find? (fun c => c.1 == lin) with
  | some c => simp only [hq] at h; cases h; rfl
  | none =>
    simp only [hq, op_ite, fresh_bind] at h
    split at h
    · cases h; rfl
    · cases hp : s.tlb.fetch with
      | none =>
        simp only [hp] at h
        exact (CodeRead.drew s).trans (.walked h fun _ => rfl)
      | some e =>
        simp only [hp] at h
        by_cases he : (e.v && e.tag == lin.extractLsb' 12 20 && pageAllows e.u e.w false s.user &&
            Config.fetchUsesPrivate s.free) = true
        · simp only [if_pos he] at h
          cases h; rfl
        · simp only [if_neg he] at h
          exact (CodeRead.drew s).trans (.walked h fun _ => rfl)

theorem CodeRead.fetchAddress {off pa : Dword} {s t : State} (h : fetchAddress off s = .ok pa t) : CodeRead s t := by
  simp only [Machine.fetchAddress, op_get_bind, op_ite] at h
  split at h
  · cases h
  · exact .fetchPage h

theorem CodeRead.codeFetch (s : State) (pa : Dword) : CodeRead s (s.codeFetch pa).2 := by
  unfold State.codeFetch
  split
  · exact .bus s pa 1
  · split
    · exact .refl s
    · rfl

theorem CodeRead.readAhead : ∀ (n : Nat) (off : Dword) (s : State), CodeRead s (readAhead n off s).2
  | 0, _, s => .refl s
  | n + 1, off, s => by
    unfold Machine.readAhead
    cases h : Machine.fetchAddress off s with
    | error e t => rfl
    | ok pa t => exact ((CodeRead.fetchAddress h).trans (.codeFetch t pa)).trans (.readAhead n _ _)

theorem CodeRead.fetchAhead (s : State) (off : Dword) : CodeRead s (s.fetchAhead off) :=
  (CodeRead.drew s).trans (.readAhead _ off _)

theorem CodeRead.prefetched (s : State) : CodeRead s s.prefetched := by
  unfold State.prefetched
  split
  · exact .refl s
  · exact .fetchAhead s _

/-- With paging and cache off and no device in the map, fetching ahead changes nothing. -/
theorem State.prefetched_eq_self {s : State} (hpg : s.pg = false) (hc : s.caches = false) (hm : s.cfg.physMap = []) :
    s.prefetched = s := by
  simp [State.prefetched, State.unwatched, hpg, hc, hm]

/-! ## The boundary -/

theorem CodeRead.background (s : State) : CodeRead s s.background := by
  unfold State.background
  split
  · exact .refl s
  · split
    · exact ((CodeRead.drew s).trans (.predictAll _ _)).trans (.fetchAhead _ _)
    · exact .fetchAhead s _

theorem Accessed.sampleFlush (s : State) : Accessed s s.sampleFlush := by
  unfold State.sampleFlush
  split <;> rfl

theorem Accessed.settle (s : State) : Accessed s s.settle := by
  unfold State.settle
  split
  · rfl
  · split <;> rfl

/-- Between two instructions only what accesses touch changes, and the stores of other bus masters are used up. -/
theorem State.boundary_frame (s : State) : Accessed { s with lines := s.masters.lines } s.boundary := by
  obtain ⟨hmasters, -, -⟩ := s.masters_frame
  exact ((hmasters.trans (.sampleFlush _)).trans (CodeRead.background _).accessed).trans (.settle _)

theorem State.boundary_run (s : State) : s.boundary.run = s.run := s.boundary_frame.run

theorem State.boundary_cfg (s : State) : s.boundary.cfg = s.cfg := s.boundary_frame.cfg

/-! ## The instruction -/

/-- With nothing due at the boundary, a running machine runs the next instruction. -/
theorem step_runs {s : State} (hreset : s.lines.reset = false) (hrun : s.run = .running)
    (hdue : s.boundary.due = .nothing) : step s = runInstr exec s.boundary := by
  simp [step, stepWith, hreset, hrun, hdue, State.boundary_run]

section
variable {run : Instr → State → Host.Outcome State Fault Refusal} {s u : State}

/-- A repeated string instruction that goes on runs without another fetch. -/
theorem runInstr_again {r : Repeat} (h : s.begun.again = some r) :
    runInstr run s = endUnit (run r.instr (s.begun.resumed r)) := by
  simp only [runInstr, h]

/-- An instruction fetched that is short enough, or is #UD before its length counts, runs. -/
theorem runInstr_fetched {i : Instr} {len : Nat} (ha : s.begun.again = none) (hf : fetch s.begun = .ok (i, len) u)
    (h : len ≤ maxLength ∨ i.undecodable s.cfg.part.hasSsv = true) :
    runInstr run s = endUnit (run i (u.fetched i len).prefetched) := by
  have hshort : (decide (maxLength < len) && !i.undecodable s.begun.cfg.part.hasSsv) = false := by
    rcases h with h | h
    · simp [Nat.not_lt.2 h]
    · simp [State.begun, h]
  simp only [runInstr, ha, hf, hshort, Bool.false_eq_true, if_false]

/-- An instruction fetched that is too long, and no undefined opcode, raises #GP(0). -/
theorem runInstr_tooLong {i : Instr} {len : Nat} (ha : s.begun.again = none) (hf : fetch s.begun = .ok (i, len) u)
    (hlen : maxLength < len) (hd : i.undecodable s.cfg.part.hasSsv = false) :
    runInstr run s = endUnit (deliver (faultEvent ⟨13, some 0⟩ s.begun.eip) (s.begun.rollback u)) := by
  have hlong : (decide (maxLength < len) && !i.undecodable s.begun.cfg.part.hasSsv) = true := by
    simp [State.begun, hlen, hd]
  simp only [runInstr, ha, hf, hlong, if_true]

/-- A fetch that faults has its exception delivered. -/
theorem runInstr_fetchFault {x : Exn} (ha : s.begun.again = none) (hf : fetch s.begun = .error (.exc x) u) :
    runInstr run s = endUnit (deliver (faultEvent x s.begun.eip) (s.begun.rollback u)) := by
  simp only [runInstr, ha, hf]

end

theorem State.fetched_eq (s : State) (i : Instr) (len : Nat) :
    s.fetched i len = { s with
      nextEip := s.eip + BitVec.ofNat 32 len
      stale := []
      queue := if s.flushed = [] then s.queue else []
      flushed := []
      again := some ⟨i, s.pfx, len⟩ } := by
  simp only [State.fetched, List.isEmpty_iff]

/-- Settles O4: the step is the boundary and then `runInstr`, whose four ways to go are the lemmas above; that fetching
ahead changes nothing else is `CodeRead.prefetched`. -/
theorem stepRunsInstruction : Obligations.StepRunsInstruction := by
  unfold Obligations.StepRunsInstruction
  refine ⟨?_, fun s i len r => ⟨State.fetched_eq s i len, rfl, CodeRead.prefetched s, State.prefetched_eq_self⟩⟩
  intro s hreset hrun hdue b ends
  have hends : ends = endUnit := funext fun o => by cases o <;> rfl
  rw [hends, step_runs hreset hrun hdue]
  refine ⟨fun r ha => runInstr_again ha, fun u i len ha hf => ⟨fun h => ?_, fun hlen hd => ?_⟩,
    fun x u ha hf => runInstr_fetchFault ha hf⟩
  · exact runInstr_fetched ha hf (by rwa [State.boundary_cfg])
  · exact runInstr_tooLong ha hf hlen (by rwa [State.boundary_cfg])

end Sys2Proof.Machine
end

section
namespace Sys2Proof.Machine
variable {α β : Type} {s t u : State}

/-! # The invariant under operations

`Quiet` is the frame of an operation that writes nothing the invariant reads. Unlike `Keeps` it speaks of memory's
canonical form, and of the states where an operation stops, from which a delivery goes on. -/

/-! ## Bits under a mask -/

theorem getLsbD_of_and_zero {m k : Dword} (h : m &&& k = 0) (i : Nat) : (m.getLsbD i && k.getLsbD i) = false := by
  rw [← BitVec.getLsbD_and, h]
  exact BitVec.getLsbD_zero

/-- Setting bits leaves the bits of a disjoint mask. -/
theorem set_and {e v k : Dword} (hv : v &&& k = 0) : (e ||| v) &&& k = e &&& k := by
  refine BitVec.eq_of_getLsbD_eq fun i _ => ?_
  rw [BitVec.getLsbD_and, BitVec.getLsbD_or, BitVec.getLsbD_and, Bool.and_or_distrib_right, getLsbD_of_and_zero hv,
    Bool.or_false]

/-- Clearing bits leaves the bits of a disjoint mask. -/
theorem clear_and {e m k : Dword} (hm : m &&& k = 0) : (e &&& ~~~ m) &&& k = e &&& k := by
  refine BitVec.eq_of_getLsbD_eq fun i hi => ?_
  have hmi := getLsbD_of_and_zero hm i
  simp only [BitVec.getLsbD_and, BitVec.getLsbD_not, hi, decide_true, Bool.true_and]
  cases hk : k.getLsbD i <;> simp_all

/-- Replacing the bits of one mask leaves the bits of a disjoint one. -/
theorem merge_and {e m v k : Dword} (hm : m &&& k = 0) (hv : v &&& k = 0) :
    ((e &&& ~~~ m) ||| v) &&& k = e &&& k := (set_and hv).trans (clear_and hm)

theorem or_and_zero {a b k : Dword} (ha : a &&& k = 0) (hb : b &&& k = 0) : (a ||| b) &&& k = 0 :=
  (set_and hb).trans ha

theorem and_and_zero (v : Dword) {m k : Dword} (h : m &&& k = 0) : (v &&& m) &&& k = 0 := by
  rw [BitVec.and_assoc, h]
  exact BitVec.and_zero

theorem and_of_and {a b k k' : Dword} (h : a &&& k = b &&& k) (hk : k &&& k' = k') : a &&& k' = b &&& k' := by
  rw [← hk, ← BitVec.and_assoc, h, BitVec.and_assoc]

theorem bit_of_and {a b k : Dword} {n : Nat} (h : a &&& k = b &&& k) (hn : bit k n = true) : bit a n = bit b n := by
  have := congrArg (bit · n) h
  unfold bit at *
  simpa [hn] using this

theorem flagBit_getLsbD (n : Nat) (b : Bool) {i : Nat} (hi : i < 32) :
    (flagBit n b).getLsbD i = (b && decide (i = n)) := by
  unfold flagBit
  rcases Nat.lt_trichotomy i n with hl | rfl | hl
  · simp [hl, hl.ne]
  · simp [hi]
  · have : i - n ≠ 0 := by omega
    simp [this, hl.ne', hi]

theorem flagBit_and {n : Nat} {k : Dword} (b : Bool) (h : bit k n = false) : flagBit n b &&& k = 0 := by
  refine BitVec.eq_of_getLsbD_eq fun i hi => ?_
  simp only [BitVec.getLsbD_and, flagBit_getLsbD n b hi]
  by_cases hin : i = n
  · subst hin; simp [show k.getLsbD i = false from h]
  · simp [hin]

theorem clear_bit {e : Dword} {n : Nat} (h : bit e n = false) : e &&& ~~~ flagBit n true = e := by
  refine BitVec.eq_of_getLsbD_eq fun i hi => ?_
  simp only [BitVec.getLsbD_and, BitVec.getLsbD_not, flagBit_getLsbD n true hi]
  by_cases hin : i = n
  · subst hin; simp [show e.getLsbD i = false from h]
  · simp [hin, hi]

theorem and_flagBit {e : Dword} {n : Nat} (h : bit e n = false) : e &&& flagBit n true = 0 := by
  rw [BitVec.and_comm]
  exact flagBit_and true h

/-- Where the bits loaded are those there, nothing changes under a mask. -/
theorem loadFlags_and {e m v k : Dword} (h : v &&& (m &&& k) = e &&& (m &&& k)) : loadFlags e m v &&& k = e &&& k := by
  refine BitVec.eq_of_getLsbD_eq fun i hi => ?_
  have hi' := congrArg (BitVec.getLsbD · i) h
  simp only [loadFlags, BitVec.getLsbD_and, BitVec.getLsbD_or, BitVec.getLsbD_not, hi, decide_true,
    Bool.true_and] at hi' ⊢
  cases hm : m.getLsbD i <;> simp_all

/-! ## What the invariant reads -/

/-- The bits of EFLAGS the invariant reads: the stuck ones and VM. -/
def fixedFlags : Dword := 0xFFFE802A

theorem withStatus_and_fixed (e : Dword) (f : Status) : withStatus e f &&& fixedFlags = e &&& fixedFlags := by
  refine merge_and rfl ?_
  unfold Status.bits
  exact or_and_zero (or_and_zero (or_and_zero (or_and_zero (or_and_zero (flagBit_and _ rfl)
    (flagBit_and _ rfl)) (flagBit_and _ rfl)) (flagBit_and _ rfl)) (flagBit_and _ rfl))
    (flagBit_and _ rfl)

theorem loadFlags_and_fixed (e v : Dword) {m : Dword} (h : m &&& fixedFlags = 0) :
    loadFlags e m v &&& fixedFlags = e &&& fixedFlags := merge_and h (and_and_zero v h)

theorem withBit_and_fixed (e : Dword) {n : Nat} (b : Bool) (h : bit fixedFlags n = false) :
    withBit e n b &&& fixedFlags = e &&& fixedFlags := merge_and (flagBit_and true h) (flagBit_and b h)

/-- What the invariant reads beside memory. -/
structure Mode where
  flags : Dword
  cr0 : Dword
  cr3 : Dword
  cpl : BitVec 2
  run : RunState
  cfg : Config.Params

def State.mode (s : State) : Mode :=
  { flags := s.eflags &&& fixedFlags, cr0 := s.cr0, cr3 := s.cr3, cpl := s.cpl, run := s.run, cfg := s.cfg }

/-- Nothing the invariant reads differs, but that memory in canonical form may be another memory in that form. -/
structure Calm (s t : State) : Prop where
  mode : t.mode = s.mode
  mem : Mem.wf s.mem = true → Mem.wf t.mem = true

theorem Calm.idle {s t : State} (h : t.mode = s.mode) (hm : t.mem = s.mem) : Calm s t := ⟨h, fun h => by rw [hm, h]⟩

theorem Calm.refl (s : State) : Calm s s := ⟨rfl, id⟩

theorem Calm.trans {s t u : State} (h : Calm s t) (h' : Calm t u) : Calm s u :=
  ⟨h'.mode.trans h.mode, h'.mem ∘ h.mem⟩

theorem Calm.accessed {s t : State} (h : Accessed s t) (hm : Mem.wf s.mem = true → Mem.wf t.mem = true) : Calm s t :=
  ⟨by rw [h]; rfl, hm⟩

theorem Calm.of_flags {s t : State} {e : Dword} (h : t = { s with eflags := e })
    (he : e &&& fixedFlags = s.eflags &&& fixedFlags) : Calm s t := by
  subst h
  exact .idle (by simp only [State.mode, he]) rfl

section
variable {s t : State}

theorem Calm.flags (h : Calm s t) : t.eflags &&& fixedFlags = s.eflags &&& fixedFlags := congrArg Mode.flags h.mode
theorem Calm.cr0 (h : Calm s t) : t.cr0 = s.cr0 := congrArg Mode.cr0 h.mode
theorem Calm.cr3 (h : Calm s t) : t.cr3 = s.cr3 := congrArg Mode.cr3 h.mode
theorem Calm.cpl (h : Calm s t) : t.cpl = s.cpl := congrArg Mode.cpl h.mode
theorem Calm.run (h : Calm s t) : t.run = s.run := congrArg Mode.run h.mode
theorem Calm.cfg (h : Calm s t) : t.cfg = s.cfg := congrArg Mode.cfg h.mode
theorem Calm.pe (h : Calm s t) : t.pe = s.pe := by unfold State.pe; rw [h.cr0]
theorem Calm.pg (h : Calm s t) : t.pg = s.pg := by unfold State.pg; rw [h.cr0]

theorem Calm.vm (h : Calm s t) : t.vm = s.vm := bit_of_and h.flags rfl

theorem Calm.prot (h : Calm s t) : t.prot = s.prot := by unfold State.prot; rw [h.pe, h.vm]

theorem Calm.inv (h : Calm s t) (hs : s.Inv) : t.Inv where
  mem := h.mem hs.mem
  flags := (and_of_and h.flags rfl).trans hs.flags
  paging := by rw [h.pg, h.pe]; exact hs.paging
  cr0 := by rw [h.cr0, h.cfg]; exact hs.cr0
  cr3 := by rw [h.cr3]; exact hs.cr3
  v86 := by rw [h.vm, h.pe, h.run, h.cpl]; exact hs.v86
  real := by rw [h.pe, h.cpl]; exact hs.real
  ssv := by rw [h.run, h.cpl]; exact hs.ssv

end

theorem Calm.setStatus (s : State) (f : Status) : Calm s (s.setStatus f) :=
  .of_flags rfl (withStatus_and_fixed _ f)

/-! ## Memory -/

theorem Calm.putByte (s : State) (pa : Dword) (v : Byte) : Calm s (s.putByte pa v) :=
  .accessed (.putByte s pa v) (State.putByte_wf pa v)

theorem Calm.noteReads (s : State) (l : List Dword) : Calm s (s.noteReads l) := .idle rfl rfl
theorem Calm.bus (s : State) (pa : Dword) (n : Nat) : Calm s (s.bus pa n) := .idle rfl rfl
theorem Calm.drew (s : State) : Calm s s.drew := .idle rfl rfl

theorem Calm.putPhys32 (s : State) (pa v : Dword) : Calm s (s.putPhys32 pa v) :=
  (((Calm.putByte s _ _).trans (.putByte _ _ _)).trans (.putByte _ _ _)).trans (.putByte _ _ _)

theorem Calm.orPhys32 (s : State) (pa v : Dword) : Calm s (s.orPhys32 pa v) := by
  simp only [State.orPhys32]
  split
  · exact .bus s pa 4
  · exact (Calm.bus s pa 4).trans (.putPhys32 _ pa _)

theorem Calm.store (r : Ref) (v : Nat) : ∀ (n i : Nat) (s : State), Calm s (r.store v n i s)
  | 0, _, s => .refl s
  | n + 1, i, s => (Calm.putByte s _ _).trans (Calm.store r v n (i + 1) _)

theorem Calm.busStore (s : State) (c : Dword × Byte) : Calm s (s.busStore c) := ⟨rfl, State.putByte_wf c.1 c.2⟩

theorem Calm.busStores : ∀ (l : List (Dword × Byte)) (s : State), Calm s (l.foldl State.busStore s)
  | [], s => .refl s
  | c :: l, s => (Calm.busStore s c).trans (.busStores l _)

/-! ## Quiet operations -/

/-- The operation leaves a calm state, also where it stops; it never stops behind the commit of a task switch. -/
def Quiet (x : Op α) : Prop := ∀ s, Calm s (endState (x s)) ∧ ∀ e t, x s ≠ .error (.late e) t

namespace Quiet

theorem pure (a : α) : Quiet (Pure.pure a : Op α) := fun s => ⟨.refl s, fun _ _ h => nomatch h⟩

theorem get : Quiet (MonadState.get : Op State) := fun s => ⟨.refl s, fun _ _ h => nomatch h⟩

theorem raise (v : Byte) (c : Option (BitVec 16)) : Quiet (Machine.raise v c : Op α) :=
  fun s => ⟨.refl s, fun _ _ h => nomatch h⟩

theorem fault (f : Fault) : Quiet (throw (.fault f) : Op α) := fun s => ⟨.refl s, fun _ _ h => nomatch h⟩

theorem refuse (r : Refusal) : Quiet (throw (.refuse r) : Op α) := fun s => ⟨.refl s, fun _ _ h => nomatch h⟩

theorem change {f : State → State} (h : ∀ s, Calm s (f s)) : Quiet (modify f : Op Unit) :=
  fun s => ⟨h s, fun _ _ h => nomatch h⟩

/-- An update of fields the invariant does not read. -/
theorem update {f : State → State} (h : ∀ s, (f s).mode = s.mode := by intro _; rfl)
    (hm : ∀ s, (f s).mem = s.mem := by intro _; rfl) : Quiet (modify f : Op Unit) := .change fun s => .idle (h s) (hm s)

theorem bind {x : Op α} {f : α → Op β} (hx : Quiet x) (hf : ∀ a, Quiet (f a)) : Quiet (x >>= f) := by
  intro s
  obtain ⟨hc, hl⟩ := hx s
  rw [op_bind]
  cases h : x s with
  | ok a t =>
    rw [h] at hc
    exact ⟨hc.trans (hf a t).1, (hf a t).2⟩
  | error e t =>
    rw [h] at hc hl
    exact ⟨hc, fun e' t' h' => by cases h'; exact hl _ _ rfl⟩

theorem ite {c : Prop} [Decidable c] {x y : Op α} (hx : Quiet x) (hy : Quiet y) : Quiet (if c then x else y) := by
  split <;> assumption

/-- What may come first, and the rest. -/
theorem first {c : Prop} [Decidable c] {x : Op Unit} {k : Unit → Op β} (hx : Quiet x) (hk : Quiet (k ())) :
    Quiet (if c then x >>= k else k ()) := .ite (.bind hx fun _ => hk) hk

end Quiet

end Sys2Proof.Machine
end

section
namespace Sys2Proof.Machine
variable {α β : Type} {s t u : State}

/-! ## Quiet parts of the machine -/

namespace Quiet

/-! ### Memory -/

theorem fresh : Quiet Machine.fresh := fun s => ⟨.drew s, fun _ _ h => nomatch h⟩

theorem freshMany (n : Nat) : Quiet (Machine.freshMany n) := fun _ => ⟨.idle rfl rfl, fun _ _ h => nomatch h⟩

theorem raisePF (fa : Dword) (w p : Bool) : Quiet (Machine.raisePF fa w p : Op α) :=
  fun _ => ⟨.idle rfl rfl, fun _ _ h => nomatch h⟩

theorem probeWalk (la fa : Dword) (w u : Bool) : Quiet (Machine.probeWalk la fa w u) := fun s => by
  unfold Machine.probeWalk
  have hread := Calm.noteReads s (s.walkReads la)
  cases s.walk la w u with
  | notPresent => exact ⟨hread.trans (raisePF (α := Piece) fa w false _).1, (raisePF fa w false _).2⟩
  | protection => exact ⟨hread.trans (raisePF (α := Piece) fa w true _).1, (raisePF fa w true _).2⟩
  | ok pdeAddr pteAddr pa u w => exact ⟨hread, fun _ _ h => nomatch h⟩

theorem probePage (la fa : Dword) (w u : Bool) : Quiet (Machine.probePage la fa w u) :=
  .bind .get fun _ => .ite (.pure _) (by
    dsimp only
    split
    · exact .probeWalk _ _ _ _
    · exact .bind .fresh fun _ => .ite (.ite (.pure _) (.probeWalk _ _ _ _))
        (.bind .update fun _ => .probeWalk _ _ _ _)
    · exact .fault _)

theorem probe (lin : Dword) (n : Nat) (w u : Bool) : Quiet (Machine.probe lin n w u) :=
  have page la fa : Quiet (Machine.probePage la fa w u) := .probePage la fa w u
  .ite (.bind (page _ _) fun _ => .pure _) (.bind .get fun _ => .ite
    (.bind (page _ _) fun _ => .bind (page _ _) fun _ => .pure _)
    (.bind .fresh fun _ => .ite
      (.bind (page _ _) fun _ => .bind (page _ _) fun _ => .pure _)
      (.bind (page _ _) fun _ => .bind (page _ _) fun _ => .pure _)))

theorem touch (p : Piece) (w : Bool) : Quiet (Machine.touch p w) :=
  .bind .get fun _ => .ite (by
    dsimp only
    split
    · exact .update
    · exact .bind .fresh fun _ => .bind (.change fun s => (Calm.orPhys32 s _ _).trans (.orPhys32 _ _ _)) fun _ =>
        .bind .get fun _ => .bind .update fun _ => .update)
    (.pure _)

theorem touchRef (r : Ref) (w : Bool) : Quiet (Machine.touchRef r w) :=
  .bind (.touch _ _) fun _ => by cases r.hi with
    | none => exact .pure _
    | some p => exact .touch p w

theorem loadRef (r : Ref) : Quiet (Machine.loadRef r) := fun s => ⟨.noteReads s _, fun _ _ h => nomatch h⟩

theorem readRef (r : Ref) : Quiet (Machine.readRef r) :=
  .bind (.touchRef _ _) fun _ => .bind .update fun _ => .loadRef _

theorem writeRef (r : Ref) (v : Nat) : Quiet (Machine.writeRef r v) :=
  .bind (.touchRef _ _) fun _ => .change fun s => (Calm.store r v r.n 0 s).trans (.idle rfl rfl)

theorem linRead (lin : Dword) (n : Nat) : Quiet (Machine.linRead lin n) :=
  .bind (.probe _ _ _ _) fun _ => .bind (.touchRef _ _) fun _ => .loadRef _

theorem sysWrite (r : Ref) (v : Nat) : Quiet (Machine.sysWrite r v) :=
  .bind (.touchRef _ _) fun _ => .change fun s => .store r v r.n 0 s

theorem linWrite (lin : Dword) (n v : Nat) : Quiet (Machine.linWrite lin n v) :=
  .bind (.probe _ _ _ _) fun _ => .sysWrite _ _

/-! ### Segments -/

theorem checkVia (r : SegReg) (k : Bool) (c : BitVec 16) (off : Dword) (n : Nat) (w : Bool) :
    Quiet (Machine.checkVia r k c off n w) :=
  .bind .get fun s => by cases r.check s.prot off.toNat n w with
    | ok => exact .pure _
    | nullSelector => exact .raise _ _
    | violation => exact .ite (.raise _ _) (.raise _ _)

theorem prepareVia (r : SegReg) (k : Bool) (c : BitVec 16) (off : Dword) (n : Nat) (w u : Bool) :
    Quiet (Machine.prepareVia r k c off n w u) := .bind (.checkVia _ _ _ _ _ _) fun _ => .probe _ _ _ _

theorem prepare (k : Sreg) (off : Dword) (n : Nat) (w : Bool) : Quiet (Machine.prepare k off n w) :=
  .bind .get fun _ => .prepareVia _ _ _ _ _ _ _

theorem checkWhole (k : Sreg) (off : Dword) (n : Nat) (w : Bool) : Quiet (Machine.checkWhole k off n w) :=
  .bind .get fun _ => .checkVia _ _ _ _ _ _

theorem readRefs : ∀ l : List Ref, Quiet (Machine.readRefs l)
  | [] => .pure _
  | _ :: l => .bind (.readRef _) fun _ => .bind (.readRefs l) fun _ => .pure _

theorem memRead (k : Sreg) (off : Dword) (n : Nat) : Quiet (Machine.memRead k off n) :=
  .bind (.prepare _ _ _ _) fun _ => .readRef _

theorem memWrite (k : Sreg) (off : Dword) (n v : Nat) : Quiet (Machine.memWrite k off n v) :=
  .bind (.prepare _ _ _ _) fun _ => .writeRef _ _

theorem descFetch (sel : BitVec 16) : Quiet (Machine.descFetch sel) :=
  .bind .get fun s => by cases s.descAddr sel with
    | none => exact .pure _
    | some lin => exact .bind (.linRead _ _) fun _ => .bind (.linRead _ _) fun _ => .pure _

theorem descRead (lin : Dword) : Quiet (Machine.descRead lin) := .bind (.linRead _ _) fun _ => .pure _

theorem descOr {sel : BitVec 16} {bad : Op Desc} (h : Quiet bad) : Quiet (Machine.descOr sel bad) :=
  .bind (.descFetch sel) fun o => by cases o with
    | none => exact h
    | some d => exact .pure d

theorem descUpdate (d : Desc) (a b : Dword) : Quiet (Machine.descUpdate d a b) :=
  .bind (.linRead _ _) fun _ => .linWrite _ _ _

theorem setAccessed (d : Desc) : Quiet (Machine.setAccessed d) := .descUpdate _ _ _

theorem setSeg {k : Sreg} {r : State → SegReg} : Quiet (modify fun s => s.setSeg k (r s)) :=
  .update

theorem checkData {level : BitVec 2} {sel : BitVec 16} {bad : Op Desc} (h : Quiet bad) :
    Quiet (Machine.checkData level sel bad) :=
  .bind (.descOr h) fun _ => .ite h (.ite h (.ite (.raise _ _) (.pure _)))

theorem checkStack {level : BitVec 2} {sel : BitVec 16} {bad : Op Desc} (h : Quiet bad) :
    Quiet (Machine.checkStack level sel bad) :=
  .bind (.descOr h) fun _ => .ite h (.ite h (.ite h (.ite (.raise _ _) (.pure _))))

theorem loadDataProt (k : Sreg) (sel : BitVec 16) : Quiet (Machine.loadDataProt k sel) :=
  .bind .get fun _ => .ite .setSeg
    (.bind (.checkData (.raise _ _)) fun _ => .bind (.setAccessed _) fun _ => .setSeg)

theorem loadStackProt (sel : BitVec 16) : Quiet (Machine.loadStackProt sel) :=
  .bind .get fun _ => .ite (.raise _ _)
    (.bind (.checkStack (.raise _ _)) fun _ => .bind (.setAccessed _) fun _ => .setSeg)

theorem loadSeg (k : Sreg) (sel : BitVec 16) : Quiet (Machine.loadSeg k sel) :=
  .bind .get fun _ => .ite .setSeg (.ite .setSeg (.ite (.loadStackProt _) (.loadDataProt _ _)))

theorem loadLdtr (sel : BitVec 16) : Quiet (Machine.loadLdtr sel) :=
  .ite .update (.ite (.raise _ _) (.bind (.descOr (.raise _ _)) fun _ =>
    .ite (.raise _ _) (.ite (.raise _ _) .update)))

theorem loadTr (sel : BitVec 16) : Quiet (Machine.loadTr sel) :=
  .ite (.raise _ _) (.ite (.raise _ _) (.bind (.descOr (.raise _ _)) fun _ =>
    .ite (.raise _ _) (.ite (.raise _ _) (.bind (.descUpdate _ _ _) fun _ => .update))))

/-! ### The stack -/

theorem setSp (v : State → Dword) : Quiet (modify fun s => s.setSp (v s)) := .update

theorem jump (off : Dword) : Quiet (modify fun s => s.jump off) := .update

theorem preparePushes (ss : SegReg) (c : BitVec 16) (u : Bool) : ∀ (sp : Dword) (items : List (Nat × Nat)),
    Quiet (Machine.preparePushes ss c u sp items)
  | _, [] => .pure _
  | _, (_, _) :: rest => .bind (.prepareVia _ _ _ _ _ _ _) fun _ => .bind (.preparePushes ss c u _ rest) fun _ =>
    .pure _

theorem writeAll : ∀ l : List (Ref × Nat), Quiet (Machine.writeAll l)
  | [] => .pure _
  | (_, _) :: l => .bind (.writeRef _ _) fun _ => .writeAll l

theorem pushItems (items : List (Nat × Nat)) : Quiet (Machine.pushItems items) :=
  .bind .get fun _ => .bind (.preparePushes _ _ _ _ _) fun _ => .bind (.writeAll _) fun _ => .setSp _

theorem stackRead (sp : Dword) (k n : Nat) : Quiet (Machine.stackRead sp k n) := .bind .get fun _ => .memRead _ _ _

theorem prepareStack (sp : Dword) (n : Nat) : ∀ ks : List Nat, Quiet (Machine.prepareStack sp n ks)
  | [] => .pure _
  | _ :: ks => .bind .get fun _ => .bind (.prepare _ _ _ _) fun _ => .bind (.prepareStack sp n ks) fun _ => .pure _

theorem stackReads (sp : Dword) (n : Nat) (ks : List Nat) : Quiet (Machine.stackReads sp n ks) :=
  .bind (.prepareStack _ _ _) fun _ => .readRefs _

theorem pop (n : Nat) : Quiet (Machine.pop n) :=
  .bind .get fun _ => .bind (.memRead _ _ _) fun _ => .bind (.setSp _) fun _ => .pure _

theorem selItem (n : Nat) (sel : BitVec 16) : Quiet (Machine.selItem n sel) :=
  .ite (.bind .fresh fun _ => .pure _) (.pure _)

/-! ### Transfers and tasks -/

theorem commitReal (sel : BitVec 16) (off : Dword) : Quiet (Machine.commitReal sel off) :=
  .bind (.loadSeg _ _) fun _ => .jump _

theorem innerStack (level : BitVec 2) (ex : BitVec 16) : Quiet (Machine.innerStack level ex) :=
  .bind .get fun _ => .ite
    (.ite (.raise _ _) (.bind (.linRead _ _) fun _ => .bind (.linRead _ _) fun _ => .pure _))
    (.ite (.raise _ _) (.bind (.linRead _ _) fun _ => .bind (.linRead _ _) fun _ => .pure _))

theorem checkInner (level : BitVec 2) (sel ex : BitVec 16) : Quiet (Machine.checkInner level sel ex) :=
  .ite (.raise _ _) (.bind (.descOr (.raise _ _)) fun _ => .ite (.raise _ _) (.ite (.raise _ _) (.pure _)))

theorem prepareSaves (base : Dword) : ∀ l : List (Nat × Nat × Nat), Quiet (Machine.prepareSaves base l)
  | [] => .pure _
  | (_, _, _) :: l => .bind (.probe _ _ _ _) fun _ => .bind (.prepareSaves base l) fun _ => .pure _

theorem sysWriteAll : ∀ l : List (Ref × Nat), Quiet (Machine.sysWriteAll l)
  | [] => .pure _
  | (_, _) :: l => .bind (.sysWrite _ _) fun _ => .sysWriteAll l

theorem prepareReads (base : Dword) : ∀ l : List (Nat × Nat), Quiet (Machine.prepareReads base l)
  | [] => .pure _
  | (_, _) :: l => .bind (.probe _ _ _ _) fun _ => .bind (.prepareReads base l) fun _ => .pure _

theorem readAll : ∀ l : List Ref, Quiet (Machine.readAll l)
  | [] => .pure _
  | _ :: l => .bind (.touchRef _ _) fun _ => .bind (.loadRef _) fun _ => .bind (.readAll l) fun _ => .pure _

theorem prepareUpdate (wanted : Bool) (lin : Dword) : Quiet (Machine.prepareUpdate wanted lin) :=
  .ite (.bind (.probe _ _ _ _) fun _ => .pure _) (.pure _)

theorem makeUpdate (a b : Dword) : ∀ r : Option Ref, Quiet (Machine.makeUpdate a b r)
  | none => .pure _
  | some r => .bind (.touchRef _ _) fun _ => .bind (.loadRef _) fun _ => .change fun s => .store r _ 4 0 s

theorem taskLoadLdtr (sel ex : BitVec 16) : Quiet (Machine.taskLoadLdtr sel ex) :=
  .ite (.pure _) (.ite (.raise _ _) (.bind (.descOr (.raise _ _)) fun _ =>
    .ite (.raise _ _) .update))

/-- The accessed bit, then the register. -/
theorem loaded (d : Desc) (k : Sreg) (sel : BitVec 16) :
    Quiet (do Machine.setAccessed d; modify fun s => s.setSeg k (d.toReg sel)) :=
  .bind (.setAccessed _) fun _ => .setSeg

theorem taskLoadCs (sel ex : BitVec 16) : Quiet (Machine.taskLoadCs sel ex) :=
  .ite (.raise _ _) (.bind (.descOr (.raise _ _)) fun _ => .ite (.raise _ _) (.ite (.raise _ _)
    (.ite (.raise _ _) (.ite (.raise _ _) (.loaded _ _ _)))))

theorem taskLoadSs (sel ex : BitVec 16) : Quiet (Machine.taskLoadSs sel ex) :=
  .bind .get fun _ => .ite (.raise _ _) (.bind (.descOr (.raise _ _)) fun _ => .ite (.raise _ _) (.ite (.raise _ _)
    (.ite (.raise _ _) (.loaded _ _ _))))

theorem taskLoadData (k : Sreg) (sel ex : BitVec 16) : Quiet (Machine.taskLoadData k sel ex) :=
  .bind .get fun _ => .ite (.pure _) (.bind (.descOr (.raise _ _)) fun _ => .ite (.raise _ _) (.ite (.raise _ _)
    (.ite (.raise _ _) (.loaded _ _ _))))

theorem taskPhaseC (tsel : BitVec 16) (i : TaskImage) (ex : BitVec 16) : Quiet (Machine.taskPhaseC tsel i ex) :=
  have last (s : State) : Quiet (if s.segs.cs.limit.toNat < s.eip.toNat then raiseTS (selCode tsel + ex)
      else Pure.pure ()) := .ite (.raise _ _) (.pure _)
  .bind (.taskLoadLdtr _ _) fun _ => .bind .get fun _ => .ite
    (.bind .update fun _ => .bind .get last)
    (.bind (.taskLoadCs _ _) fun _ => .bind (.taskLoadSs _ _) fun _ => .bind (.taskLoadData _ _ _) fun _ =>
      .bind (.taskLoadData _ _ _) fun _ => .bind (.taskLoadData _ _ _) fun _ => .bind (.taskLoadData _ _ _) fun _ =>
      .bind .get last)

end Quiet

end Sys2Proof.Machine
end

section
namespace Sys2Proof.Machine
variable {α β : Type} {s t u : State}

/-! ## States in which the machine goes on -/

/-- The invariant holds and the machine is outside SuperState V: where instructions run and events are delivered. -/
structure Live (s : State) : Prop where
  inv : s.Inv
  run : s.run ≠ .superstate

theorem Calm.live (h : Calm s t) (hs : Live s) : Live t := ⟨h.inv hs.inv, by rw [h.run]; exact hs.run⟩

theorem Live.calm (hs : Live s) (h : Calm s t) : Live t := h.live hs

theorem Live.idle (hs : Live s) (h : t.mode = s.mode) (hm : t.mem = s.mem) : Live t := hs.calm (.idle h hm)

/-- A live state, and a state calm since then. -/
structure Since (s u : State) : Prop where
  start : Live s
  calm : Calm s u

theorem Since.refl (h : Live s) : Since s s := ⟨h, .refl s⟩
theorem Since.live (h : Since s u) : Live u := h.calm.live h.start
theorem Since.trans (h : Since s t) (h' : Calm t u) : Since s u := ⟨h.start, h.calm.trans h'⟩

/-- Protected mode proper, where the invariant holds at every privilege level. -/
structure InProt (s : State) : Prop where
  live : Live s
  pe : s.pe = true
  flags : s.eflags &&& fixedFlags = 2

theorem InProt.vm (h : InProt s) : s.vm = false := bit_of_and (b := 2) (h.flags.trans rfl) rfl

theorem Calm.inProt (h : Calm s t) (hs : InProt s) : InProt t :=
  ⟨h.live hs.live, h.pe.trans hs.pe, h.flags.trans hs.flags⟩

/-- From protected mode, virtual-8086 mode included, to a level at which VM may stand. -/
theorem Live.of_pe (hs : Live s) (hpe : s.pe = true) (hf : t.eflags &&& 0xFFFC802A = 2) (hvm : t.vm = true → t.cpl = 3)
    (hmode : t.mode = { s.mode with flags := t.mode.flags, cpl := t.cpl }) (hm : t.mem = s.mem) : Live t := by
  have hcr0 : t.cr0 = s.cr0 := congrArg Mode.cr0 hmode
  have hcr3 : t.cr3 = s.cr3 := congrArg Mode.cr3 hmode
  have hrun : t.run = s.run := congrArg Mode.run hmode
  have hcfg : t.cfg = s.cfg := congrArg Mode.cfg hmode
  have hpe' : t.pe = true := by unfold State.pe at *; rwa [hcr0]
  refine ⟨?_, by rw [hrun]; exact hs.run⟩
  exact {
    mem := by rw [hm]; exact hs.inv.mem
    flags := hf
    paging := fun _ => hpe'
    cr0 := by rw [hcr0, hcfg]; exact hs.inv.cr0
    cr3 := by rw [hcr3]; exact hs.inv.cr3
    v86 := fun h => ⟨hpe', fun _ => hvm h⟩
    real := by simp [hpe']
    ssv := fun h => absurd (hrun ▸ h) hs.run }

/-- From protected mode, virtual-8086 mode included, to protected mode proper at any level. -/
theorem InProt.of_level (hs : Live s) (hpe : s.pe = true) (hf : t.eflags &&& fixedFlags = 2)
    (hmode : t.mode = { s.mode with flags := t.mode.flags, cpl := t.cpl }) (hm : t.mem = s.mem) : InProt t := by
  have hvm : t.vm = false := bit_of_and (b := 2) (hf.trans rfl) rfl
  refine ⟨.of_pe hs hpe (and_of_and (b := 2) (hf.trans rfl) rfl) (by simp [hvm]) hmode hm, ?_, hf⟩
  unfold State.pe at *
  rwa [show t.cr0 = s.cr0 from congrArg Mode.cr0 hmode]

theorem Live.of_level (hs : Live s) (hpe : s.pe = true) (hf : t.eflags &&& fixedFlags = 2)
    (hmode : t.mode = { s.mode with flags := t.mode.flags, cpl := t.cpl }) (hm : t.mem = s.mem) : Live t :=
  (InProt.of_level hs hpe hf hmode hm).live

theorem InProt.of_prot (hs : Live s) (h : s.prot = true) : InProt s := by
  simp only [State.prot, Bool.and_eq_true, Bool.not_eq_true'] at h
  refine ⟨hs, h.1, ?_⟩
  rw [← clear_bit h.2, BitVec.and_assoc]
  exact hs.inv.flags

theorem InProt.enterCS (h : InProt s) (sel : BitVec 16) (d : Desc) (level : BitVec 2) (off : Dword) :
    InProt (s.enterCS sel d level off) := .of_level h.live h.pe h.flags rfl rfl

/-! ## What an operation may leave -/

/-- An operation that completes leaves a state with a property; one that stops leaves a state whose memory a delivery
can go on with, and behind the commit of a task switch a live one. -/
def Ends (x : Op α) (s : State) (Q : State → Prop) : Prop :=
  match x s with
  | .ok _ t => Q t
  | .error (.late _) t => Live t
  | .error _ t => Mem.wf t.mem = true

namespace Ends
variable {x : Op α} {f : α → Op β} {P Q : State → Prop}

theorem of_quiet (hx : Quiet x) (hu : Live u) : Ends x u (Calm u) := by
  obtain ⟨hc, hl⟩ := hx u
  unfold Ends
  cases h : x u with
  | ok a t => rw [h] at hc; exact hc
  | error e t =>
    rw [h] at hc hl
    cases e with
    | late e => exact absurd rfl (hl e t)
    | exc e => exact hc.mem hu.inv.mem
    | fault f => exact hc.mem hu.inv.mem
    | refuse r => exact hc.mem hu.inv.mem

theorem mono (hx : Ends x u P) (h : ∀ t, P t → Q t) : Ends x u Q := by
  unfold Ends at *
  cases hxu : x u with
  | ok a t => rw [hxu] at hx; exact h t hx
  | error e t => rw [hxu] at hx; cases e <;> exact hx

theorem bind (hx : Ends x u P) (hf : ∀ a t, P t → Ends (f a) t Q) : Ends (x >>= f) u Q := by
  unfold Ends at *
  rw [op_bind]
  cases hxu : x u with
  | ok a t => rw [hxu] at hx; exact hf a t hx
  | error e t => rw [hxu] at hx; cases e <;> exact hx

/-- A quiet operation, and the rest from a state as calm. -/
theorem quiet (h : Since s u) (hx : Quiet x) (hf : ∀ a t, Since s t → Ends (f a) t Q) : Ends (x >>= f) u Q :=
  .bind (.of_quiet hx h.live) fun a t ht => hf a t (h.trans ht)

theorem still (h : Since s u) (hx : Quiet x) : Ends x u Live := .mono (.of_quiet hx h.live) fun _ ht => ht.live h.live

theorem prot (h : InProt u) (hx : Quiet x) : Ends x u InProt := .mono (.of_quiet hx h.live) fun _ ht => ht.inProt h

theorem get {f : State → Op β} (h : Ends (f u) u Q) : Ends (MonadState.get >>= f) u Q := h

theorem pure {a : α} (h : Q u) : Ends (Pure.pure a : Op α) u Q := h

theorem raise {v : Byte} {c : Option (BitVec 16)} (h : Since s u) : Ends (Machine.raise v c : Op α) u Q :=
  h.live.inv.mem

theorem change {g : State → State} (h : Q (g u)) : Ends (modify g : Op Unit) u Q := h

theorem change_bind {g : State → State} {f : Unit → Op β} (h : Ends (f ()) (g u) Q) : Ends (modify g >>= f) u Q := h

theorem ite {c : Prop} [Decidable c] {x y : Op α} (hx : c → Ends x u Q) (hy : ¬ c → Ends y u Q) :
    Ends (if c then x else y) u Q := by
  split
  · exact hx ‹_›
  · exact hy ‹_›

/-- A test that may raise an exception, and the rest. -/
theorem guard {c : Prop} [Decidable c] {f : Unit → Op β} {v : Byte} {code : Option (BitVec 16)} (h : Since s u)
    (hk : ¬ c → Ends (f ()) u Q) : Ends (if c then Machine.raise v code >>= f else f ()) u Q :=
  .ite (fun _ => h.live.inv.mem) hk

theorem either {c : Prop} [Decidable c] {x y : Op α} (h : Since s u) (hx : Quiet x) (hy : Quiet y)
    (hk : ∀ a t, Since s t → Ends (f a) t Q) : Ends (if c then x >>= f else y >>= f) u Q :=
  .ite (fun _ => .quiet h hx hk) fun _ => .quiet h hy hk

end Ends

/-! ## Flags of a handler and of a task -/

theorem handlerFlags_and {e : Dword} (b : Bool) (h : e &&& 0xFFFC802A = 2) : handlerFlags e b &&& fixedFlags = 2 := by
  unfold handlerFlags
  cases b <;> rw [← h] <;> exact BitVec.and_assoc _ _ _

theorem normFlags_and (v : Dword) : normFlags v &&& 0xFFFC802A = 2 := by
  unfold normFlags
  rw [BitVec.or_comm]
  exact set_and (and_and_zero v rfl)

theorem Calm.handlerFlags (h : s.Inv) (hvm : s.vm = false) (b : Bool) :
    Calm s { s with eflags := handlerFlags s.eflags b } := by
  refine .of_flags rfl ?_
  rw [handlerFlags_and b h.flags, ← clear_bit hvm, BitVec.and_assoc]
  exact h.flags.symm

/-! ## Task switches -/

theorem State.enterTask_live (h : Live s) (hpe : s.pe = true) (tsel : BitVec 16) (d : Desc) (reason : TaskReason)
    (i : TaskImage) : Live (s.enterTask tsel d reason i) := by
  have hpe' : (s.enterTask tsel d reason i).pe = true := by
    show bit (s.cr0 ||| 8) 0 = true
    exact (bit_of_and (k := 1) (set_and rfl) rfl).trans hpe
  refine ⟨?_, h.run⟩
  exact {
    mem := h.inv.mem
    flags := by
      refine Eq.trans ?_ (normFlags_and i.eflags)
      unfold State.enterTask
      dsimp only
      split
      · exact set_and rfl
      · split
        · exact clear_and rfl
        · rfl
    paging := fun _ => hpe'
    cr0 := (set_and rfl).trans h.inv.cr0
    cr3 := by
      unfold State.enterTask
      dsimp only
      split
      · exact and_and_zero i.cr3 rfl
      · exact h.inv.cr3
    v86 := fun h => ⟨hpe', fun _ => if_pos h⟩
    real := by simp [hpe']
    ssv := fun h' => absurd h' h.run }

namespace Ends

theorem committed {x : Op α} (hx : Quiet x) (h : Live u) : Ends (Machine.committed x) u (Calm u) := by
  obtain ⟨hc, hl⟩ := hx u
  unfold Ends Machine.committed
  cases hxu : x u with
  | ok a t => rw [hxu] at hc; exact hc
  | error e t =>
    rw [hxu] at hc hl
    cases e with
    | exc e => exact hc.live h
    | late e => exact absurd rfl (hl e t)
    | fault f => exact hc.mem h.inv.mem
    | refuse r => exact hc.mem h.inv.mem

theorem taskSwitch (h : Since s u) (hpe : u.pe = true) (tsel : BitVec 16) (d : Desc) (reason : TaskReason)
    (e fl : Dword) (ex : BitVec 16) : Ends (Machine.taskSwitch tsel d reason e fl ex) u Live := by
  unfold Machine.taskSwitch
  dsimp only
  exact
    .guard h fun _ => .guard h fun _ => .guard h fun _ => .guard h fun _ => .get <| .guard h fun _ =>
    have start := Since.refl h.live
    .quiet start (.prepareSaves _ _) fun _ _ h => .quiet h (.prepareReads _ _) fun _ _ h =>
    .either h (.prepareSaves _ _) (.pure _) fun _ _ h =>
    .quiet h (.prepareUpdate _ _) fun _ _ h => .quiet h (.prepareUpdate _ _) fun _ _ h =>
    .quiet h (.makeUpdate _ _ _) fun _ _ h => .quiet h (.sysWriteAll _) fun _ _ h =>
    .quiet h (.readAll _) fun _ _ h => .quiet h (.freshMany _) fun _ _ h =>
    .quiet h (.sysWriteAll _) fun _ _ h => .quiet h (.makeUpdate _ _ _) fun _ _ h =>
    have entered := State.enterTask_live h.live (h.calm.pe.trans hpe) tsel d reason _
    .change_bind <| .bind (.committed (.taskPhaseC _ _ _) entered) fun _ _ hc =>
    .still (.refl (hc.live entered)) (.ite .update (.pure _))

/-! ## Delivery -/

theorem realDeliver (h : Since s u) (hpe : u.pe = false) (e : Event) : Ends (Machine.realDeliver e) u Live :=
  have hvm : u.vm = false := by
    cases hv : u.vm with
    | false => rfl
    | true => exact absurd ((h.live.inv.v86 hv).1) (by simp [hpe])
  .get <| .ite (fun _ => .raise h) fun _ =>
  .quiet (.refl h.live) (.linRead _ _) fun _ _ h => .quiet h (.pushItems _) fun _ _ h =>
  .change_bind <| .still (h.trans (.handlerFlags h.live.inv (h.calm.vm.trans hvm) _)) (.commitReal _ _)

end Ends

theorem Quiet.frameItems (e : Event) (s : State) (n : Nat) : Quiet (Machine.frameItems e s n) :=
  .bind (.selItem _ _) fun _ => .pure _

namespace Ends

theorem sameLevelDeliver (h : Since s u) (hpe : u.pe = true) (e : Event) (sel : BitVec 16) (d : Desc) (n : Nat)
    (off : Dword) (c : Bool) : Ends (Machine.sameLevelDeliver e sel d n off c) u Live :=
  .get <| .quiet (.refl h.live) (.frameItems _ _ _) fun _ _ h => .quiet h (.preparePushes _ _ _ _ _) fun _ _ h =>
  .guard h fun _ => .quiet h (.setAccessed _) fun _ _ h => .quiet h (.writeAll _) fun _ _ h =>
  .quiet h (.setSp _) fun _ _ h => .change_bind <| .change <|
    .of_level h.live (h.calm.pe.trans hpe) (handlerFlags_and c h.live.inv.flags) rfl rfl

theorem innerDeliver (h : Since s u) (hpe : u.pe = true) (e : Event) (sel : BitVec 16) (d : Desc) (n : Nat)
    (off : Dword) (c v : Bool) : Ends (Machine.innerDeliver e sel d n off c v) u Live :=
  .get <| .quiet (.refl h.live) (.innerStack _ _) fun _ _ h => .quiet h (.checkInner _ _ _) fun _ _ h =>
  .quiet h (.selItem _ _) fun _ _ h => .quiet h (.selItem _ _) fun _ _ h => .quiet h (.selItem _ _) fun _ _ h =>
  .quiet h (.selItem _ _) fun _ _ h => .quiet h (.selItem _ _) fun _ _ h => .quiet h (.frameItems _ _ _) fun _ _ h =>
  .quiet h (.preparePushes _ _ _ _ _) fun _ _ h => .guard h fun _ => .quiet h (.setAccessed _) fun _ _ h =>
  .quiet h (.setAccessed _) fun _ _ h => .quiet h (.writeAll _) fun _ _ h =>
  .quiet h .update fun _ _ h => .quiet h (.setSp _) fun _ _ h =>
  have entered := handlerFlags_and c h.live.inv.flags
  have hpe := h.calm.pe.trans hpe
  .change_bind <| .change_bind <| .ite (fun _ => .change (.of_level h.live hpe entered rfl rfl))
    fun _ => .pure (.of_level h.live hpe entered rfl rfl)

theorem gateDeliver (h : Since s u) (hpe : u.pe = true) (e : Event) (g : Desc) :
    Ends (Machine.gateDeliver e g) u Live :=
  .get <| .ite (fun _ => .raise h) fun _ => .quiet (.refl h.live) (.descOr (.raise _ _)) fun _ _ h =>
  have hpe := h.calm.pe.trans hpe
  .ite (fun _ => .raise h) fun _ => .ite (fun _ => .raise h) fun _ => .ite (fun _ => .raise h) fun _ =>
  .ite (fun _ => .ite (fun _ => .raise h) fun _ => .innerDeliver h hpe _ _ _ _ _ _ _) fun _ =>
  .ite (fun _ => .innerDeliver h hpe _ _ _ _ _ _ _) fun _ => .sameLevelDeliver h hpe _ _ _ _ _ _

theorem taskGateDeliver (h : Since s u) (hpe : u.pe = true) (e : Event) (g : Desc) :
    Ends (Machine.taskGateDeliver e g) u Live :=
  .get <| .ite (fun _ => .raise h) fun _ => .quiet (.refl h.live) (.descOr (.raise _ _)) fun _ _ h =>
  .ite (fun _ => .raise h) fun _ => .bind (.taskSwitch h (h.calm.pe.trans hpe) _ _ _ _ _ _) fun _ _ hlive => by
    split
    · exact .pure hlive
    · exact .mono (.committed (.bind .get fun _ => .bind (.preparePushes _ _ _ _ _) fun _ =>
        .bind (.writeAll _) fun _ => .setSp _) hlive) fun _ hc => hc.live hlive

/-- The entry to a handler leaves the invariant (60_exceptions.md R700). -/
theorem interrupt (hu : Live u) (e : Event) : Ends (Machine.interrupt e) u Live :=
  have h := Since.refl hu
  .get <| .ite (fun hpe => .bind (.realDeliver h (by simpa using hpe) e) fun _ _ ht => .pure ht) fun hpe =>
  .ite (fun _ => .raise h) fun _ => .quiet h (.descRead _) fun _ _ h =>
  have hpe := h.calm.pe.trans (by simpa using hpe)
  .ite (fun _ => .raise h) fun _ => .ite (fun _ => .raise h) fun _ => .ite (fun _ => .raise h) fun _ =>
  .ite (fun _ => .bind (.taskGateDeliver h hpe e _) fun _ _ ht => .pure ht)
    fun _ => .bind (.gateDeliver h hpe e _) fun _ _ ht => .pure ht

end Ends

/-! ## Far transfers -/

namespace Quiet

theorem nearCheck (t : Dword) : Quiet (Machine.nearCheck t) := .bind .get fun _ => .ite (.raise _ _) (.pure _)

theorem memOperand : ∀ rm : RM, Quiet (Machine.memOperand rm)
  | .reg _ => .raise _ _
  | .mem _ => .bind .get fun _ => .pure _

theorem readParts {lo hi : Op Ref} (hl : Quiet lo) (hh : Quiet hi) : Quiet (Machine.readParts lo hi) :=
  .bind hl fun _ => .bind hh fun _ => .bind (.readRef _) fun _ => .bind (.readRef _) fun _ => .pure _

theorem farPointer (s : State) : ∀ f : FarForm, Quiet (Machine.farPointer s f)
  | .ptr _ _ => .pure _
  | .rmOp rm => .bind (.memOperand rm) fun _ =>
    .bind (.readParts (.prepare _ _ _ _) (.prepare _ _ _ _)) fun _ => .pure _

theorem directCodeCheck (sel : BitVec 16) (d : Desc) (off : Dword) : Quiet (Machine.directCodeCheck sel d off) :=
  .bind .get fun _ => .ite (.raise _ _) (.ite (.raise _ _) (.ite (.raise _ _) (.ite (.raise _ _) (.pure _))))

theorem callGateTarget (sel : BitVec 16) (g : Desc) (isCall : Bool) :
    Quiet (Machine.callGateTarget sel g isCall) :=
  .bind .get fun _ => .ite (.raise _ _) (.ite (.raise _ _) (.ite (.raise _ _) (.bind (.descOr (.raise _ _)) fun _ =>
    .ite (.raise _ _) (.ite (.raise _ _) (.ite (.raise _ _) (.ite (.raise _ _) (.pure _)))))))

theorem returnTarget (sel : BitVec 16) : Quiet (Machine.returnTarget sel) :=
  .bind .get fun _ => .ite (.raise _ _) (.ite (.raise _ _) (.bind (.descOr (.raise _ _)) fun _ =>
    .ite (.raise _ _) (.ite (.raise _ _) (.ite (.raise _ _) (.ite (.raise _ _) (.pure _))))))

theorem checkOuter (level : BitVec 2) (sel : BitVec 16) : Quiet (returnOuter.checkOuter level sel) :=
  .ite (.raise _ _) (.bind (.descOr (.raise _ _)) fun _ =>
    .ite (.raise _ _) (.ite (.raise _ _) (.ite (.raise _ _) (.pure _))))

theorem requireIopl3 : Quiet Machine.requireIopl3 := .bind .get fun _ => .ite (.raise _ _) (.pure _)

end Quiet

theorem InProt.since (h : InProt s) (h' : Since s t) : InProt t := h'.calm.inProt h

namespace Ends

theorem commitCS (h : InProt u) (sel : BitVec 16) (d : Desc) (level : BitVec 2) (off : Dword) :
    Ends (Machine.commitCS sel d level off) u InProt :=
  .quiet (.refl h.live) (.setAccessed _) fun _ _ ht => .change ((h.since ht).enterCS _ _ _ _)

theorem callSame (h : InProt u) (sel : BitVec 16) (d : Desc) (off : Dword) (n : Nat) :
    Ends (Machine.callSame sel d off n) u Live :=
  .get <| .quiet (.refl h.live) (.selItem _ _) fun _ _ ht => .quiet ht (.preparePushes _ _ _ _ _) fun _ _ ht =>
  .quiet ht (.setAccessed _) fun _ _ ht => .quiet ht (.writeAll _) fun _ _ ht => .quiet ht (.setSp _) fun _ _ ht =>
  .change ((h.since ht).enterCS _ _ _ _).live

theorem callInner (h : InProt u) (g : GateTarget) : Ends (Machine.callInner g) u Live :=
  .get <| .quiet (.refl h.live) (.innerStack _ _) fun _ _ ht => .quiet ht (.checkInner _ _ _) fun _ _ ht =>
  .quiet ht (.preparePushes _ _ _ _ _) fun _ _ ht => .guard ht fun _ => .quiet ht (.stackReads _ _ _) fun _ _ ht =>
  .quiet ht (.selItem _ _) fun _ _ ht => .quiet ht (.selItem _ _) fun _ _ ht =>
  .quiet ht (.setAccessed _) fun _ _ ht => .quiet ht (.setAccessed _) fun _ _ ht =>
  .quiet ht (.writeAll _) fun _ _ ht => .quiet ht .update fun _ _ ht =>
  .quiet ht (.setSp _) fun _ _ ht => .change ((h.since ht).enterCS _ _ _ _).live

theorem taskGateTransfer (h : InProt u) (sel : BitVec 16) (g : Desc) (reason : TaskReason) :
    Ends (Machine.taskGateTransfer sel g reason) u Live :=
  have start := Since.refl h.live
  .get <| .ite (fun _ => .raise start) fun _ => .ite (fun _ => .raise start) fun _ =>
  .ite (fun _ => .raise start) fun _ => .quiet start (.descOr (.raise _ _)) fun _ _ ht =>
  .ite (fun _ => .raise ht) fun _ => .taskSwitch ht (h.since ht).pe _ _ _ _ _ _

theorem tssTransfer (h : InProt u) (sel : BitVec 16) (d : Desc) (reason : TaskReason) :
    Ends (Machine.tssTransfer sel d reason) u Live :=
  have start := Since.refl h.live
  .get <| .ite (fun _ => .raise start) fun _ => .ite (fun _ => .raise start) fun _ =>
  .taskSwitch start h.pe _ _ _ _ _ _

/-- An operation and what it answers at last. -/
theorem answer {x : Op α} {Q : State → Prop} (h : Ends x u Q) (e : β) : Ends (do let _ ← x; return e) u Q :=
  .bind h fun _ _ ht => .pure ht

theorem farJmp (hu : Live u) (sel : BitVec 16) (off : Dword) : Ends (Machine.farJmp sel off) u Live :=
  have h := Since.refl hu
  .get <| .ite (fun _ => .still h (.bind (.nearCheck _) fun _ => .bind (.commitReal _ _) fun _ => .pure _)) fun hp =>
  have hprot := InProt.of_prot hu (by simpa using hp)
  .ite (fun _ => .raise h) fun _ => .quiet h (.descOr (.raise _ _)) fun _ _ h =>
  .ite (fun _ => .quiet h (.directCodeCheck _ _ _) fun _ _ h =>
    .answer (.mono (.commitCS (hprot.since h) _ _ _ _) fun _ => InProt.live) _) fun _ =>
  .ite (fun _ => .quiet h (.callGateTarget _ _ _) fun _ _ h => .guard h fun _ =>
    .answer (.mono (.commitCS (hprot.since h) _ _ _ _) fun _ => InProt.live) _) fun _ =>
  .ite (fun _ => .answer (.taskGateTransfer (hprot.since h) _ _ _) _) fun _ =>
  .ite (fun _ => .answer (.tssTransfer (hprot.since h) _ _ _) _) fun _ => .raise h

theorem farCall (hu : Live u) (sel : BitVec 16) (off : Dword) : Ends (Machine.farCall sel off) u Live :=
  have h := Since.refl hu
  .get <| .ite (fun _ => .still h (.bind (.nearCheck _) fun _ => .bind (.selItem _ _) fun _ =>
    .bind (.pushItems _) fun _ => .bind (.commitReal _ _) fun _ => .pure _)) fun hp =>
  have hprot := InProt.of_prot hu (by simpa using hp)
  .ite (fun _ => .raise h) fun _ => .quiet h (.descOr (.raise _ _)) fun _ _ h =>
  .ite (fun _ => .quiet h (.directCodeCheck _ _ _) fun _ _ h => .answer (.callSame (hprot.since h) _ _ _ _) _) fun _ =>
  .ite (fun _ => .quiet h (.callGateTarget _ _ _) fun _ _ h =>
    .ite (fun _ => .answer (.callInner (hprot.since h) _) _) fun _ => .guard h fun _ =>
      .answer (.callSame (hprot.since h) _ _ _ _) _) fun _ =>
  .ite (fun _ => .answer (.taskGateTransfer (hprot.since h) _ _ _) _) fun _ =>
  .ite (fun _ => .answer (.tssTransfer (hprot.since h) _ _ _) _) fun _ => .raise h

/-! ## Returns -/

theorem returnOuter (h : InProt u) (sel : BitVec 16) (d : Desc) (ip : Dword) (n base : Nat) (k : Dword) :
    Ends (Machine.returnOuter sel d ip n base k) u InProt :=
  .get <| .quiet (.refl h.live) (.stackReads _ _ _) fun _ _ ht => .ite (fun _ => .raise ht) fun _ =>
  .quiet ht (.checkOuter _ _) fun _ _ ht => .ite (fun _ => .raise ht) fun _ =>
  .bind (.commitCS (h.since ht) _ _ _ _) fun _ _ h => .quiet (.refl h.live) (.setAccessed _) fun _ _ ht =>
  .quiet ht .update fun _ _ ht => .prot (h.since ht) .update

theorem farRet (hu : Live u) (k : Dword) : Ends (Machine.farRet k) u Live :=
  .get <| .quiet (.refl hu) (.stackReads _ _ _) fun _ _ h =>
  .ite (fun _ => .still h (.bind (.nearCheck _) fun _ => .bind (.setSp _) fun _ => .commitReal _ _)) fun hp =>
  have hprot := InProt.of_prot hu (by simpa using hp)
  .quiet h (.returnTarget _) fun _ _ h =>
  .ite (fun _ => .guard h fun _ => .quiet h (.setSp _) fun _ _ h =>
    .mono (.commitCS (hprot.since h) _ _ _ _) fun _ => InProt.live)
  fun _ => .mono (.returnOuter (hprot.since h) _ _ _ _ _ _) fun _ => InProt.live

end Ends

theorem flagMask_and (level iopl : BitVec 2) : flagMask level iopl &&& fixedFlags = 0 := by
  unfold flagMask
  refine or_and_zero (or_and_zero rfl ?_) ?_ <;> split <;> rfl

/-- Flags restored leave VM, but where level 0 of protected mode restores an image of 32 bits
(47_control_transfer.md R545). -/
theorem Calm.restoreFlags (fl : Dword) {b : Bool} {level : BitVec 2} (h : ¬ (b = true ∧ level = 0 ∧ s.pe = true)) :
    Calm s (s.restoreFlags fl b level) := by
  refine .of_flags rfl (loadFlags_and_fixed _ _ (or_and_zero (flagMask_and _ _) ?_))
  split
  · rw [if_neg fun h' => h ⟨‹_›, h'⟩]
    rfl
  · rfl

/-- An image without VM restored in protected mode stays in protected mode. -/
theorem InProt.restoreFlags (h : InProt s) {fl : Dword} {b : Bool} {level : BitVec 2}
    (hvm : b = true → level = 0 → bit fl 17 = false) : InProt (s.restoreFlags fl b level) := by
  by_cases hb : b = true ∧ level = 0 ∧ s.pe = true
  · obtain ⟨rfl, rfl, hpe⟩ := hb
    have hmask : (flagMask 0 s.iopl ||| 0x30000) &&& fixedFlags = flagBit 17 true := by
      rw [BitVec.or_comm]
      exact set_and (flagMask_and _ _)
    have hload : loadFlags s.eflags (flagMask 0 s.iopl ||| 0x30000) fl &&& fixedFlags = s.eflags &&& fixedFlags :=
      loadFlags_and (by rw [hmask, and_flagBit (hvm rfl rfl), and_flagBit h.vm])
    refine .of_level h.live hpe (Eq.trans ?_ h.flags) rfl rfl
    simpa only [State.restoreFlags, hpe, and_self, if_true] using hload
  · exact (Calm.restoreFlags fl hb).inProt h

/-- Outside protected mode proper a level of 0 is real mode's. -/
theorem Live.level_ne_zero (h : Live s) (hp : s.prot = false) (hpe : s.pe = true) : s.level ≠ 0 := by
  have hvm : s.vm = true := by simpa [State.prot, hpe] using hp
  unfold State.level
  rw [if_pos hpe, (h.inv.v86 hvm).2 h.run]
  decide

namespace Ends

theorem iretReal (hu : Live u) (hp : u.prot = false) : Ends Machine.iretReal u Live :=
  .get <| .quiet (.refl hu) (.stackReads _ _ _) fun _ _ h => .quiet h (.nearCheck _) fun _ _ h =>
  .quiet h (.setSp _) fun _ _ h => .quiet h (.commitReal _ _) fun _ _ h =>
  .change <| Calm.live (.restoreFlags _ fun ⟨_, hl, hpe⟩ => hu.level_ne_zero hp (h.calm.pe.symm.trans hpe) hl) h.live

theorem iretToV86 (hu : Live u) (hpe : u.pe = true) (ip cs fl : Nat) : Ends (Machine.iretToV86 ip cs fl) u Live :=
  .get <| .quiet (.refl hu) (.stackReads _ _ _) fun _ _ h => .guard h fun _ =>
  .change (.of_pe h.live (h.calm.pe.trans hpe) (normFlags_and _) (fun _ => rfl) rfl rfl)

theorem iretProcedure (hu : Live u) (hp : u.prot = true) : Ends Machine.iretProcedure u Live :=
  have hprot := InProt.of_prot hu hp
  .get <| .quiet (.refl hu) (.stackReads _ _ _) fun _ _ h =>
  .ite (fun _ => .iretToV86 h.live (hprot.since h).pe _ _ _) fun hfl =>
  .quiet h (.returnTarget _) fun _ _ h =>
  have last (fl : Dword) (hfl : ¬ (u.ow.bytes = 4 ∧ bit fl 17 = true ∧ u.cpl = 0)) (_ : Unit) t (ht : InProt t) :
      Ends (modify fun t => t.restoreFlags fl u.os32 u.cpl : Op Unit) t Live :=
    .change (ht.restoreFlags fun hos hcpl => by
      have hn : u.ow.bytes = 4 := by unfold State.ow; rw [hos]; rfl
      simpa [hn, hcpl] using hfl).live
  .ite (fun _ => .guard h fun _ => .quiet h (.setSp _) fun _ _ h =>
      .bind (.commitCS (hprot.since h) _ _ _ _) (last _ hfl))
    fun _ => .bind (.returnOuter (hprot.since h) _ _ _ _ _ _) (last _ hfl)

theorem iretTask (hu : Live u) (hpe : u.pe = true) : Ends Machine.iretTask u Live :=
  have h := Since.refl hu
  .get <| .guard h fun _ => .quiet h (.linRead _ _) fun _ _ h => .ite (fun _ => .raise h) fun _ =>
  .quiet h (.descOr (.raise _ _)) fun _ _ h => .ite (fun _ => .raise h) fun _ =>
  .taskSwitch h (h.calm.pe.trans hpe) _ _ _ _ _ _

theorem interruptReturn (hu : Live u) : Ends Machine.interruptReturn u Live :=
  have last (e : End) (_ : Unit) t (ht : Live t) :
      Ends (do modify fun s => { s with nmiMasked := false }; return e) t Live :=
    .still (.refl ht) (.bind .update fun _ => .pure _)
  .get <| .quiet (.refl hu) .requireIopl3 fun _ _ h =>
  .ite (fun hp => .bind (.iretReal h.live (h.calm.prot.trans (by simpa using hp))) (last _)) fun hp =>
  have hprot := (InProt.of_prot hu (by simpa using hp)).since h
  .ite (fun _ => .bind (.iretTask h.live hprot.pe) (last _))
    fun _ => .bind (.iretProcedure h.live (h.calm.prot.trans (by simpa using hp))) (last _)

theorem softInt (hu : Live u) (v : Byte) : Ends (Machine.softInt v) u Live :=
  .get <| .bind (.interrupt hu _) fun _ _ h => .pure h

end Ends

end Sys2Proof.Machine
end

section
namespace Sys2Proof.Machine
variable {α β : Type} {s t u : State}

/-! ## Outcomes -/

/-- A next state has the invariant. -/
def Sound (o : Host.Outcome State Fault Refusal) : Prop := ∀ t, o = .next t → t.Inv

theorem Sound.next (h : t.Inv) : Sound (.next t) := fun _ e => by cases e; exact h
theorem Sound.fault (f : Fault) : Sound (.fault f) := fun _ e => nomatch e
theorem Sound.refused (r : Refusal) : Sound (.refused r) := fun _ e => nomatch e

/-- A live machine put into another run state outside SuperState V. -/
theorem Live.inRun (h : Live s) {r : RunState} (hr : r ≠ .superstate) (hm : t.mode = { s.mode with run := r })
    (hmem : t.mem = s.mem) : Live t := by
  have hs : Live { s with run := r } := ⟨{ h.inv with
    v86 := fun hvm => ⟨(h.inv.v86 hvm).1, fun _ => (h.inv.v86 hvm).2 h.run⟩
    ssv := fun e => absurd e hr }, hr⟩
  exact hs.idle hm hmem

theorem State.shutDown_inv (h : Live s) (ret : Dword) : (s.shutDown ret).Inv :=
  Live.inv (h.inRun (r := .shutdown) nofun rfl rfl)

theorem State.rollback_live (h : Live s) (hm : Mem.wf t.mem = true) : Live (s.rollback t) :=
  h.calm ⟨rfl, fun _ => hm⟩

theorem State.undone_live (h : Live s) (hm : Mem.wf t.mem = true) (x : Exn) : Live (s.undone t x) := by
  unfold State.undone
  split
  · exact (Calm.setStatus _ _).live (rollback_live h hm)
  · exact rollback_live h hm

/-- Whatever an event's delivery raises, down to shutdown, the next state has the invariant (60_exceptions.md R699). -/
theorem deliverFrom_sound : ∀ (k : Nat) (taken : State → State) (e : Event) {s : State},
    (∀ t, Calm t (taken t)) → Live s → Sound (deliverFrom k taken e s)
  | 0, _, e, s, _, h => .next (State.shutDown_inv h e.ret)
  | k + 1, taken, e, s, htaken, h => by
    have follow (first : Event) (x : Exn) {t : State} (ht : Live t) : Sound (match deliveryFault first x with
        | none => .next (t.shutDown first.ret)
        | some e' => deliverFrom k id e' t) := by
      cases deliveryFault first x with
      | none => exact .next (State.shutDown_inv ht _)
      | some e' => exact deliverFrom_sound k id e' .refl ht
    unfold deliverFrom
    split
    · exact .next (State.shutDown_inv h _)
    · have hend := Ends.interrupt h e
      unfold Ends at hend
      cases hi : interrupt e s with
      | ok b t =>
        rw [hi] at hend
        exact .next (Calm.inv (s := taken t) (.idle rfl rfl) (hend.calm (htaken t)).inv)
      | error x t =>
        rw [hi] at hend
        cases x with
        | exc x => exact follow e x (State.rollback_live h hend)
        | late x => exact follow { e with ret := t.eip } x hend
        | fault f => exact .fault f
        | refuse r => exact .refused r

theorem deliver_sound (h : Live s) (e : Event) : Sound (deliver e s) := deliverFrom_sound 5 id e .refl h

theorem Calm.complete (s : State) (keepRf tf : Bool) : Calm s (s.complete keepRf tf) := by
  refine .idle ?_ rfl
  have hf : (s.complete keepRf tf).eflags &&& fixedFlags = s.eflags &&& fixedFlags := by
    unfold State.complete
    cases keepRf
    · exact clear_and rfl
    · rfl
  exact congrArg (fun f => ({ s.mode with flags := f } : Mode)) hf

theorem Calm.ended (s : State) (tf : Bool) : ∀ e : End, Calm s (s.ended tf e)
  | .done => .complete s false tf
  | .loaded => .complete s true tf
  | .again => (Calm.complete s true tf).trans (.idle rfl rfl)
  | .waits => (Calm.complete s true false).trans (.idle rfl rfl)

theorem Quiet.checkLock (l : Bool) : Quiet (Machine.checkLock l) := .bind .get fun _ => .ite (.raise _ _) (.pure _)

namespace Sound

/-- A meaning whose operation leaves the invariant. -/
theorem runEnd {x : Op End} (hs : Live s) (l : Bool) (h : ∀ u, Since s u → Ends x u State.Inv) :
    Sound (Machine.runEnd l x s) := by
  have hend : Ends (do checkLock l; x) s State.Inv := .quiet (.refl hs) (.checkLock l) fun _ t ht => h t ht
  unfold Machine.runEnd finish
  unfold Ends at hend
  cases hx : (do checkLock l; x : Op End) s with
  | ok e t =>
    rw [hx] at hend
    exact .next ((Calm.ended t _ e).inv hend)
  | error e t =>
    rw [hx] at hend
    cases e with
    | exc x => exact deliver_sound (State.undone_live hs hend x) _
    | late x => exact deliver_sound hend _
    | fault f => exact .fault f
    | refuse r => exact .refused r

theorem run {x : Op Unit} (hs : Live s) (l : Bool) (h : ∀ u, Since s u → Ends x u State.Inv) :
    Sound (Machine.run l x s) := .runEnd hs l fun u hu => .bind (h u hu) fun _ _ ht => .pure ht

/-- A meaning whose operation is quiet. -/
theorem quietRun {x : Op Unit} (hs : Live s) {l : Bool} (hx : Quiet x) : Sound (Machine.run l x s) :=
  .run hs l fun _ hu => .mono (.still hu hx) fun _ => Live.inv

theorem quietEnd {x : Op End} (hs : Live s) {l : Bool} (hx : Quiet x) : Sound (Machine.runEnd l x s) :=
  .runEnd hs l fun _ hu => .mono (.still hu hx) fun _ => Live.inv

theorem endUnit {o : Host.Outcome State Fault Refusal} (h : Sound o) : Sound (Machine.endUnit o) := by
  cases o with
  | next t => exact .next (Calm.inv (s := t) (.idle rfl rfl) (h t rfl))
  | fault f => exact .fault f
  | refused r => exact .refused r

end Sound

/-! ## Fetching -/

theorem Calm.codeFetch (s : State) (pa : Dword) : Calm s (s.codeFetch pa).2 := by
  unfold State.codeFetch
  split
  · exact .bus s pa 1
  · split
    · exact .refl s
    · exact .idle rfl rfl

namespace Quiet

theorem fetchPage (lin : Dword) : Quiet (Machine.fetchPage lin) := .bind .get fun s => by
  have walk (page : BitVec 20) : Quiet (do
      let p ← Machine.probePage lin lin false s.user
      Machine.touch p false
      modify fun s => { s with tlb := s.tlb.holdFetch page }
      return p.pa ++ lin.extractLsb' 0 12 : Op Dword) :=
    .bind (.probePage _ _ _ _) fun _ => .bind (.touch _ _) fun _ =>
      .bind .update fun _ => .pure _
  dsimp only
  split
  · exact .pure _
  · refine .ite (.pure _) (.bind .fresh fun _ => ?_)
    split
    · exact .pure _
    · exact walk _

theorem fetchAddress (off : Dword) : Quiet (Machine.fetchAddress off) :=
  .bind .get fun _ => .ite (.raise _ _) (.fetchPage _)

/-- The state replaced by one that is calm. -/
theorem replace (f : State → α × State) (h : ∀ s, Calm s (f s).2) :
    Quiet (do let s ← MonadState.get; set (f s).2; return (f s).1) := fun s => ⟨h s, fun _ _ h => nomatch h⟩

theorem fetchByte (old : Bool) (off : Dword) : Quiet (Machine.fetchByte old off) :=
  .bind (.fetchAddress _) fun pa s => by
    rw [op_get_bind]
    cases (if old then s.stale.find? (fun c => c.1 == pa.toNat) else none) with
    | some c => exact Quiet.pure c.2 s
    | none => exact Quiet.replace (·.codeFetch pa) (Calm.codeFetch · pa) s

theorem fetchItem (old : Bool) : ∀ (k : Nat) (bytes : List Byte) (off : Dword),
    Quiet (Machine.fetchItem old k bytes off)
  | 0, _, _ => .raise _ _
  | k + 1, _, _ => .bind (.fetchByte _ _) fun _ => .bind .get fun _ => by
    split
    · exact .pure _
    · exact .fetchItem old k _ _

theorem fetchInstr (old : Bool) : ∀ (k : Nat) (off : Dword) (len : Nat), Quiet (Machine.fetchInstr old k off len)
  | 0, _, _ => .raise _ _
  | k + 1, _, _ => .bind (.fetchItem _ _ _ _) fun _ => .ite
    (.bind .update fun _ => .fetchInstr old k _ _) (.pure _)

theorem fetch : Quiet Machine.fetch := .bind .get fun s => by
  have go (old : Bool) : Quiet (if old = true then do
        modify fun s => { s with queue := if s.flushed.isEmpty then s.queue else s.flushed }
        Machine.fetchInstr old (2 ^ 32) s.eip 0
      else Machine.fetchInstr old (2 ^ 32) s.eip 0) :=
    .ite (.bind .update fun _ => .fetchInstr _ _ _ _) (.fetchInstr _ _ _ _)
  exact .ite (.bind (.pure _) go) (.bind .fresh fun _ => .bind (.pure _) go)

end Quiet

theorem Calm.readAhead : ∀ (k : Nat) (off : Dword) (s : State), Calm s (Machine.readAhead k off s).2
  | 0, _, s => .refl s
  | k + 1, off, s => by
    unfold Machine.readAhead
    have h := (Quiet.fetchAddress off s).1
    cases hf : fetchAddress off s with
    | error e t => exact .idle rfl rfl
    | ok pa t =>
      rw [hf] at h
      exact (Calm.trans h (.codeFetch t pa)).trans (.readAhead k _ _)

theorem Calm.fetchAhead (s : State) (off : Dword) : Calm s (s.fetchAhead off) :=
  (Calm.drew s).trans (.readAhead _ _ _)

theorem Calm.prefetched (s : State) : Calm s s.prefetched := by
  unfold State.prefetched
  split
  · exact .refl s
  · exact .fetchAhead s _

theorem Calm.predict (s : State) (page : BitVec 20) : Calm s (s.predict page) := by
  have hread := Calm.noteReads s (s.walkReads (page ++ 0#12))
  unfold State.predict
  cases s.walk (page ++ 0#12) false false with
  | notPresent => exact hread
  | protection => exact hread
  | ok pdeAddr pteAddr pa u w => exact hread.trans (Quiet.touch _ false _).1

theorem Calm.predictAll : ∀ (l : List (BitVec 20)) (s : State), Calm s (l.foldl State.predict s)
  | [], s => .refl s
  | page :: l, s => (Calm.predict s page).trans (.predictAll l _)

theorem Calm.background (s : State) : Calm s s.background := by
  unfold State.background
  split
  · exact .refl s
  · split
    · exact ((Calm.drew s).trans (.predictAll _ _)).trans (.fetchAhead _ _)
    · exact .fetchAhead s _

theorem Calm.sampleFlush (s : State) : Calm s s.sampleFlush := by
  unfold State.sampleFlush
  split <;> exact .idle rfl rfl

theorem Calm.settle (s : State) : Calm s s.settle := by
  unfold State.settle
  split
  · exact .refl s
  · split <;> exact .idle rfl rfl

theorem Calm.boundary (s : State) : Calm s s.boundary :=
  have hmasters : Calm s s.masters := (Calm.busStores s.lines.stores s).trans (.idle rfl rfl)
  ((hmasters.trans (.sampleFlush _)).trans (.background _)).trans (.settle _)

/-! ## The step -/

theorem State.enterSsv_inv (h : Live s) (ret edx ebx : Dword) : (s.enterSsv ret edx ebx).Inv :=
  { h.inv with
    v86 := fun hvm => ⟨(h.inv.v86 hvm).1, fun hrun => absurd rfl hrun⟩
    real := fun _ => rfl
    ssv := fun _ => rfl }

namespace Sound

theorem takeDue (h : Live s) : ∀ d : Due, Sound (s.takeDue d)
  | .trap => deliver_sound (s := s.reportTrap) (h.inRun (r := .running) nofun rfl rfl) _
  | .breakpoint =>
    deliver_sound (s := { s with dregs := s.dregs.report s.codeHits 0, inhibit := .none }) (h.idle rfl rfl) _
  | .anmi => .next (Calm.inv (s := s.enterSsv s.eip s.regs.edx s.regs.ebx) (.idle rfl rfl) (State.enterSsv_inv h _ _ _))
  | .nmi => deliverFrom_sound 5 _ _ (fun _ => .idle rfl rfl) (h.inRun (r := .running) nofun rfl rfl)
  | .intr =>
    deliver_sound (s := { s with run := .running, out := .intAck s.lines.intrVector :: s.out })
      (h.inRun (r := .running) nofun rfl rfl) _
  | .nothing => .next h.inv

theorem runInstr {exec : Instr → State → Host.Outcome State Fault Refusal} (hexec : ∀ i s, Live s → Sound (exec i s))
    (hs : Live s) : Sound (Machine.runInstr exec s) := by
  have hbegun : Live s.begun := hs.idle rfl rfl
  have raised {u : State} (x : Exn) (hu : Calm s.begun u) :
      Sound (Machine.endUnit (deliver (faultEvent x s.begun.eip) (s.begun.rollback u))) :=
    .endUnit (deliver_sound (State.rollback_live hbegun (hu.mem hbegun.inv.mem)) _)
  obtain ⟨hcalm, -⟩ := Quiet.fetch s.begun
  unfold Machine.runInstr
  dsimp only
  split
  · exact .endUnit (hexec _ _ (hbegun.idle rfl rfl))
  · cases hf : fetch s.begun with
    | ok r u =>
      rw [hf] at hcalm
      obtain ⟨i, len⟩ := r
      dsimp only
      split
      · exact raised _ hcalm
      · have hfetched : Live (u.fetched i len) := (hbegun.calm hcalm).idle rfl rfl
        exact .endUnit (hexec _ _ (hfetched.calm (.prefetched _)))
    | error e u =>
      rw [hf] at hcalm
      cases e with
      | exc x => exact raised x hcalm
      | late x => exact raised x hcalm
      | fault f => exact .fault f
      | refuse r => exact .refused r

end Sound

end Sys2Proof.Machine
end

section
namespace Sys2Proof.Machine
variable {α β : Type} {s t u : State}

/-! ## Quiet parts of instructions -/

namespace Quiet

/-! ### Operands -/

theorem getReg (k : Width) (r : Reg) : Quiet (Machine.getReg k r) := .bind .get fun _ => .pure _

theorem setReg (k : Width) (r : Reg) (v : Val k) : Quiet (Machine.setReg k r v) := .update

theorem getAcc (k : Width) : Quiet (Machine.getAcc k) := .getReg _ _

theorem setAcc (k : Width) (v : Val k) : Quiet (Machine.setAcc k v) := .setReg _ _ _

theorem setStatus (f : Status) : Quiet (Machine.setStatus f) := .change (.setStatus · f)

theorem undefStatus : Quiet Machine.undefStatus := .bind .fresh fun _ => .pure _

theorem setFlagBit {n : Nat} (h : bit fixedFlags n = false) (b : Bool) : Quiet (Machine.setFlagBit n b) :=
  .change fun _ => .of_flags rfl (withBit_and_fixed _ b h)

theorem locate (k : Width) : ∀ (rm : RM) (w : Bool), Quiet (Machine.locate k rm w)
  | .reg _, _ => .pure _
  | .mem _, _ => .bind .get fun _ => .bind (.prepare _ _ _ _) fun _ => .pure _

theorem readPlace (k : Width) : ∀ p : Place, Quiet (Machine.readPlace k p)
  | .reg _ => .getReg _ _
  | .mem _ => .bind (.readRef _) fun _ => .pure _

theorem writePlace (k : Width) : ∀ (p : Place) (v : Val k), Quiet (Machine.writePlace k p v)
  | .reg _, _ => .setReg _ _ _
  | .mem _, _ => .writeRef _ _

theorem readRM (k : Width) (rm : RM) : Quiet (Machine.readRM k rm) := .bind (.locate _ _ _) fun _ => .readPlace _ _

theorem writeRM (k : Width) (rm : RM) (v : Val k) : Quiet (Machine.writeRM k rm v) :=
  .bind (.locate _ _ _) fun _ => .writePlace _ _ _

theorem updateRM {k : Width} {rm : RM} {f : Val k → Op (Val k)} (hf : ∀ a, Quiet (f a)) :
    Quiet (Machine.updateRM k rm f) :=
  .bind (.locate _ _ _) fun _ => .bind (.readPlace _ _) fun _ => .bind (hf _) fun _ => .writePlace _ _ _

/-! ### Arithmetic and logic -/

theorem aluUpdate {s : State} {op : (k : Width) → Val k → Val k → Op (Val k)} (h : ∀ k a b, Quiet (op k a b)) :
    ∀ f : AluForm, Quiet (Machine.aluUpdate s op f)
  | .rmReg _ _ _ => .updateRM fun _ => h _ _ _
  | .regRm _ _ _ => .bind (.readRM _ _) fun _ => .bind (h _ _ _) fun _ => .setReg _ _ _
  | .alImm _ => .bind (h _ _ _) fun _ => .setAcc _ _
  | .axImm _ => .bind (h _ _ _) fun _ => .setAcc _ _
  | .rmImm8 _ _ => .updateRM fun _ => h _ _ _
  | .rmImm8Alias _ _ => .updateRM fun _ => h _ _ _
  | .rmImm _ _ => .updateRM fun _ => h _ _ _
  | .rmSext _ _ => .updateRM fun _ => h _ _ _

theorem aluCompare {s : State} {op : (k : Width) → Val k → Val k → Op Unit} (h : ∀ k a b, Quiet (op k a b)) :
    ∀ f : AluForm, Quiet (Machine.aluCompare s op f)
  | .rmReg _ _ _ => .bind (.readRM _ _) fun _ => h _ _ _
  | .regRm _ _ _ => .bind (.readRM _ _) fun _ => h _ _ _
  | .alImm _ => h _ _ _
  | .axImm _ => h _ _ _
  | .rmImm8 _ _ => .bind (.readRM _ _) fun _ => h _ _ _
  | .rmImm8Alias _ _ => .bind (.readRM _ _) fun _ => h _ _ _
  | .rmImm _ _ => .bind (.readRM _ _) fun _ => h _ _ _
  | .rmSext _ _ => .bind (.readRM _ _) fun _ => h _ _ _

theorem addOp (c : Bool) (k : Width) (a b : Val k) : Quiet (Machine.addOp c k a b) :=
  .bind (.setStatus _) fun _ => .pure _

theorem subOp (c : Bool) (k : Width) (a b : Val k) : Quiet (Machine.subOp c k a b) :=
  .bind (.setStatus _) fun _ => .pure _

theorem setLogic {n : Nat} (r : BitVec n) : Quiet (Machine.setLogic r) := .bind .undefStatus fun _ => .setStatus _

theorem logicOp (f : {n : Nat} → BitVec n → BitVec n → BitVec n) (k : Width) (a b : Val k) :
    Quiet (Machine.logicOp f k a b) := .bind (.setLogic _) fun _ => .pure _

theorem incUpdate {s : State} {op : (k : Width) → Val k → Op (Val k)} (h : ∀ k a, Quiet (op k a)) :
    ∀ f : IncForm, Quiet (Machine.incUpdate s op f)
  | .reg _ => .updateRM fun _ => h _ _
  | .rmOp _ _ => .updateRM fun _ => h _ _

theorem setPair (k : Width) (hi lo : Val k) : Quiet (Machine.setPair k hi lo) :=
  .bind (.setReg _ _ _) fun _ => .setReg _ _ _

theorem mulStatus (lost : Bool) : Quiet (Machine.mulStatus lost) := .bind .undefStatus fun _ => .setStatus _

theorem imulOne (k : Width) (rm : RM) : Quiet (Machine.imulOne k rm) :=
  .bind (.readRM _ _) fun _ => .bind (.getAcc _) fun _ => .bind (.setPair _ _ _) fun _ => .mulStatus _

theorem imulTo (k : Width) (r : Reg) (x y : Val k) : Quiet (Machine.imulTo k r x y) :=
  .bind (.setReg _ _ _) fun _ => .mulStatus _

theorem divideError : Quiet (Machine.divideError : Op α) :=
  .bind .undefStatus fun _ => .bind (.setStatus _) fun _ => .raise _ _

theorem setQuotient (k : Width) (q r : Val k) : Quiet (Machine.setQuotient k q r) :=
  .bind (.setPair _ _ _) fun _ => .bind .undefStatus fun _ => .setStatus _

theorem decimalAdjust (s : State) (f : BitVec 8 → BitVec 8 → BitVec 8) : Quiet (Machine.decimalAdjust s f) :=
  .bind .undefStatus fun _ => .bind (.setAcc _ _) fun _ => .setStatus _

theorem bitSelect (k : Width) (w : Bool) : ∀ f : BitForm, Quiet (Machine.bitSelect k w f)
  | .rmReg (.reg _) _ => .bind (.getReg _ _) fun _ => .pure _
  | .rmReg (.mem _) _ => .bind .get fun _ => .bind (.prepare _ _ _ _) fun _ => .pure _
  | .rmImm _ _ => .bind (.locate _ _ _) fun _ => .pure _

theorem bitStatus (b : Bool) : Quiet (Machine.bitStatus b) := .bind .undefStatus fun _ => .setStatus _

theorem bitUpdate (s : State) (f : {n : Nat} → BitVec n → BitVec n → BitVec n) (form : BitForm) :
    Quiet (Machine.bitUpdate s f form) :=
  .bind (.bitSelect _ _ _) fun _ => .bind (.readPlace _ _) fun _ => .bind (.writePlace _ _ _) fun _ => .bitStatus _

theorem bitScan (k : Width) (r : Reg) (rm : RM) (scan : Val k → Nat) : Quiet (Machine.bitScan k r rm scan) :=
  .bind (.readRM _ _) fun _ => .bind .undefStatus fun _ => .bind (.setStatus _) fun _ => .ite (.setReg _ _ _) (.pure _)

theorem rotate (s : State) (wide : Bool) (rm : RM) (c : ShiftCount) (step : ShiftStep) :
    Quiet (Machine.rotate s wide rm c step) :=
  .updateRM fun _ => .ite (.pure _) (.bind .undefStatus fun _ => .bind (.setStatus _) fun _ => .pure _)

theorem shift (s : State) (wide : Bool) (rm : RM) (c : ShiftCount) (step : ShiftStep)
    (of : {n : Nat} → BitVec n → BitVec n → Bool → Bool) : Quiet (Machine.shift s wide rm c step of) :=
  .updateRM fun _ => .ite (.pure _) (.bind .undefStatus fun _ => .bind (.setStatus _) fun _ => .pure _)

theorem doubleShift (s : State) (rm : RM) (c : DoubleCount) (f : Val s.ow → Nat → Val s.ow × Bool) :
    Quiet (Machine.doubleShift s rm c f) :=
  .updateRM fun _ => .ite (.pure _) (.bind .undefStatus fun _ => .ite (.bind (.setStatus _) fun _ => .pure _)
    (.bind .fresh fun _ => .bind (.setStatus _) fun _ => .pure _))

/-! ### Control -/

theorem nearBranch (t : Dword) : Quiet (Machine.nearBranch t) := .bind (.nearCheck _) fun _ => .jump _

theorem jumpIf (s : State) (c : Bool) : ∀ f : JccForm, Quiet (Machine.jumpIf s c f)
  | .short _ => .ite (.nearBranch _) (.pure _)
  | .near _ => .ite (.nearBranch _) (.pure _)

theorem setByteIf (c : Bool) (rm : RM) : Quiet (Machine.setByteIf c rm) := .writeRM _ _ _

theorem loopIf (s : State) (c : Bool) (rel : BitVec 8) : Quiet (Machine.loopIf s c rel) :=
  .bind (.setReg _ _ _) fun _ => .ite (.nearBranch _) (.pure _)

theorem callTo (s : State) (t : Dword) : Quiet (Machine.callTo s t) :=
  .bind (.nearCheck _) fun _ => .bind (.pushItems _) fun _ => .jump _

/-! ### Data movement and segments -/

theorem readMoff (k : Width) (off : Imm) : Quiet (Machine.readMoff k off) :=
  .bind .get fun _ => .bind (.memRead _ _ _) fun _ => .pure _

theorem writeMoff (k : Width) (off : Imm) (v : Val k) : Quiet (Machine.writeMoff k off v) :=
  .bind .get fun _ => .memWrite _ _ _ _

theorem preparePops (n : Nat) : ∀ (k : Nat) (sp : Dword), Quiet (Machine.preparePops n k sp)
  | 0, _ => .pure _
  | k + 1, _ => .bind .get fun _ => .bind (.prepare _ _ _ _) fun _ => .bind (.preparePops n k _) fun _ => .pure _

theorem requireIopl : Quiet Machine.requireIopl := .bind .get fun _ => .ite (.raise _ _) (.pure _)

theorem shadowSs (k : Sreg) : Quiet (Machine.shadowSs k) := .ite .update (.pure _)

theorem storeSel (sel : BitVec 16) : ∀ rm : RM, Quiet (Machine.storeSel rm sel)
  | .reg _ => .bind .get fun _ => .setReg _ _ _
  | .mem _ => .bind .get fun _ => .writeRM _ _ _

theorem loadPointer (k : Sreg) (r : Reg) (rm : RM) : Quiet (Machine.loadPointer k r rm) :=
  .bind .get fun _ => .bind (.memOperand _) fun _ => .bind (.checkWhole _ _ _ _) fun _ =>
    .bind (.readParts (.prepare _ _ _ _) (.prepare _ _ _ _)) fun _ => .bind (.loadSeg _ _) fun _ => .setReg _ _ _

/-! ### Input, output, strings -/

theorem bitmapCheck (port : BitVec 16) (n : Nat) : Quiet (Machine.bitmapCheck port n) :=
  .bind .get fun _ => .ite (.raise _ _) (.bind (.linRead _ _) fun _ => .ite (.raise _ _)
    (.bind (.linRead _ _) fun _ => .ite (.pure _) (.raise _ _)))

theorem ioCheck (port : BitVec 16) (n : Nat) : Quiet (Machine.ioCheck port n) :=
  .bind .get fun _ => .ite (.pure _) (.ite (.bitmapCheck _ _) (.ite (.pure _) (.bitmapCheck _ _)))

theorem ioRead (k : Width) (port : BitVec 16) : Quiet (Machine.ioRead k port) :=
  .bind .fresh fun _ => .bind .update fun _ => .pure _

theorem ioWrite (k : Width) (port : BitVec 16) (v : Val k) : Quiet (Machine.ioWrite k port v) :=
  .update

theorem prepareSource (k : Width) : Quiet (Machine.prepareSource k) := .bind .get fun _ => .prepare _ _ _ _

theorem prepareDest (k : Width) (w : Bool) : Quiet (Machine.prepareDest k w) := .bind .get fun _ => .prepare _ _ _ _

theorem readElem (k : Width) (r : Ref) : Quiet (Machine.readElem k r) := .bind (.readRef _) fun _ => .pure _

theorem advance (n : Nat) (r : Reg) : Quiet (modify fun s => s.advance n r) := .update

theorem advanceBoth (n : Nat) : Quiet (modify fun s => (s.advance n .esi).advance n .edi) :=
  .update

theorem stringStep (compares : Bool) {elem : Op Unit} (h : Quiet elem) : Quiet (Machine.stringStep compares elem) :=
  .bind .get fun s => by
    cases s.pfx.rep with
    | none => exact .bind h fun _ => .pure _
    | some _ =>
      exact .ite (.pure _) (.bind h fun _ => .bind .update fun _ => .bind .get fun _ =>
        .ite (.pure _) (.bind .update fun _ => .pure _))

theorem movsElem (k : Width) : Quiet (Machine.movsElem k) :=
  .bind (.prepareSource _) fun _ => .bind (.prepareDest _ _) fun _ => .bind (.readElem _ _) fun _ =>
    .bind (.writeRef _ _) fun _ => .advanceBoth _

theorem cmpsElem (k : Width) : Quiet (Machine.cmpsElem k) :=
  .bind (.prepareSource _) fun _ => .bind (.prepareDest _ _) fun _ => .bind (.readElem _ _) fun _ =>
    .bind (.readElem _ _) fun _ => .bind (.setStatus _) fun _ => .advanceBoth _

theorem scasElem (k : Width) : Quiet (Machine.scasElem k) :=
  .bind (.prepareDest _ _) fun _ => .bind (.readElem _ _) fun _ => .bind (.getAcc _) fun _ =>
    .bind (.setStatus _) fun _ => .advance _ _

theorem lodsElem (k : Width) : Quiet (Machine.lodsElem k) :=
  .bind (.prepareSource _) fun _ => .bind (.readElem _ _) fun _ => .bind (.setAcc _ _) fun _ => .advance _ _

theorem stosElem (k : Width) : Quiet (Machine.stosElem k) :=
  .bind (.prepareDest _ _) fun _ => .bind (.getAcc _) fun _ => .bind (.writeRef _ _) fun _ => .advance _ _

theorem insElem (k : Width) : Quiet (Machine.insElem k) :=
  .bind (.getReg _ _) fun _ => .bind (.ioCheck _ _) fun _ => .bind (.prepareDest _ _) fun _ =>
    .bind (.ioRead _ _) fun _ => .bind (.writeRef _ _) fun _ => .advance _ _

theorem outsElem (k : Width) : Quiet (Machine.outsElem k) :=
  .bind (.getReg _ _) fun _ => .bind (.ioCheck _ _) fun _ => .bind (.prepareSource _) fun _ =>
    .bind (.readElem _ _) fun _ => .bind (.ioWrite _ _ _) fun _ => .advance _ _

/-! ### System instructions -/

theorem requireCpl0 : Quiet Machine.requireCpl0 := .bind .get fun _ => .ite (.raise _ _) (.pure _)

theorem requireProtected : Quiet Machine.requireProtected := .bind .get fun _ => .ite (.raise _ _) (.pure _)

theorem inspect (sel : BitVec 16) : Quiet (Machine.inspect sel) :=
  .ite (.pure _) (.bind .get fun s => by
    cases s.descAddr sel with
    | none => exact .pure _
    | some lin => exact .bind (.descRead _) fun _ => .pure _)

theorem visible (rm : RM) (kind : Desc → Bool) : Quiet (Machine.visible rm kind) :=
  .bind .requireProtected fun _ => .bind (.readRM _ _) fun _ => .bind .get fun _ =>
    .bind (.inspect _) fun _ => .pure _

theorem readTable (os32 : Bool) (rm : RM) : Quiet (Machine.readTable os32 rm) :=
  .bind (.memOperand _) fun _ => .bind .requireCpl0 fun _ => .bind (.checkWhole _ _ _ _) fun _ =>
    .bind (.readParts (.prepare _ _ _ _) (.prepare _ _ _ _)) fun _ => .pure _

theorem writeTable (os32 : Bool) (rm : RM) (t : TableReg) : Quiet (Machine.writeTable os32 rm t) :=
  .bind (.memOperand _) fun _ => .bind (.checkWhole _ _ _ _) fun _ => .bind (.prepare _ _ _ _) fun _ =>
    .bind (.prepare _ _ _ _) fun _ => .bind .fresh fun _ => .bind (.writeRef _ _) fun _ => .writeRef _ _

theorem specialMove (mod : BitVec 2) (defined : Bool) : Quiet (Machine.specialMove mod defined) :=
  .ite (.raise _ _) (.ite (.raise _ _) .requireCpl0)

theorem flagsUndefined : Quiet Machine.flagsUndefined := .bind .undefStatus fun _ => .setStatus _

theorem generalDetect : Quiet Machine.generalDetect :=
  .bind .get fun _ => .ite (.bind .update fun _ => .raise _ _) (.pure _)

theorem tlbSearch (c v : Dword) : Quiet (modify (tlbSearchCommand c v)) := .change fun s => by
  unfold tlbSearchCommand
  split <;> exact .idle rfl rfl

theorem trPut (n : BitVec 3) (v : Dword) : Quiet (Machine.trPut n v) :=
  .bind .get fun _ => .ite .update (.ite (.refuse _)
    (.bind .fresh fun _ => .bind .update fun _ => by
      split
      · exact .tlbSearch _ _
      · exact .update))

theorem prepareDisplay (big : Bool) (n : Nat) : ∀ (k : Nat) (bp sp : Dword),
    Quiet (Machine.prepareDisplay big n k bp sp)
  | 0, _, _ => .pure _
  | k + 1, _, _ => .bind (.prepare _ _ _ _) fun _ => .bind (.prepare _ _ _ _) fun _ =>
    .bind (.prepareDisplay big n k _ _) fun _ => .pure _

theorem makeFrame : ∀ l : List FrameStep, Quiet (Machine.makeFrame l)
  | [] => .pure _
  | .copy _ _ :: l => .bind (.readRef _) fun _ => .bind (.writeRef _ _) fun _ => .makeFrame l
  | .store _ _ :: l => .bind (.writeRef _ _) fun _ => .makeFrame l

theorem scallOk (p : Place) : ∀ v : Option Dword, Quiet (Machine.scallOk p v)
  | none => .bind (.setFlagBit rfl _) fun _ => .pure _
  | some _ => .bind (.setFlagBit rfl _) fun _ => .writePlace _ _ _

theorem scallFail (p : Place) : Quiet (Machine.scallFail p) := .bind (.setFlagBit rfl _) fun _ => .writePlace _ _ _

end Quiet

end Sys2Proof.Machine
end

section
namespace Sys2Proof.Machine
variable {α β : Type} {s t u : State}

/-! ## Writes of the control registers -/

/-- Virtual-8086 mode runs at level 3. -/
theorem Live.vm_of_level (h : Live s) (hl : s.level = 0) : s.vm = false := by
  cases hvm : s.vm with
  | false => rfl
  | true =>
    obtain ⟨hpe, hcpl⟩ := h.inv.v86 hvm
    unfold State.level at hl
    rw [if_pos hpe, hcpl h.run] at hl
    exact absurd hl (by decide)

/-- A CR0 that keeps the fixed bits and pairs PG with PE may be written at level 0. -/
theorem State.putCr0_live (h : Live s) (hl : s.level = 0) {v : Dword} (entry : BitVec 2)
    (hv : v &&& 0x7FFFFFF0 = s.cr0 &&& 0x7FFFFFF0) (hpg : bit v 31 = true → bit v 0 = true) :
    Live (s.putCr0 v entry) := by
  have hvm := h.vm_of_level hl
  refine ⟨{
    mem := h.inv.mem
    flags := h.inv.flags
    paging := hpg
    cr0 := hv.trans h.inv.cr0
    cr3 := h.inv.cr3
    v86 := fun h' => by rw [show (s.putCr0 v entry).vm = s.vm from rfl, hvm] at h'; cases h'
    real := fun hpe => ?_
    ssv := fun h' => absurd h' h.run }, h.run⟩
  replace hpe : bit v 0 = false := hpe
  unfold State.putCr0
  dsimp only
  rw [hpe]
  split
  · exact h.inv.real (Eq.symm ‹_›)
  · rfl

theorem State.putCr3_live (h : Live s) (v : Dword) : Live (s.putCr3 (v &&& 0xFFFFF000)) := by
  have hcalm : Calm s s.keepAhead := by
    unfold State.keepAhead
    split
    · exact (Calm.drew s).trans ((Calm.readAhead _ _ _).trans (.idle rfl rfl))
    · exact .refl s
  have hahead := h.calm hcalm
  exact ⟨{ hahead.inv with cr3 := and_and_zero v rfl }, hahead.run⟩

theorem clts_live (h : Live s) : Live { s with cr0 := s.cr0 &&& ~~~ 8 } := by
  have hpe : bit (s.cr0 &&& ~~~ 8) 0 = bit s.cr0 0 := bit_of_and (k := 1) (clear_and rfl) rfl
  have hpg : bit (s.cr0 &&& ~~~ 8) 31 = bit s.cr0 31 := bit_of_and (k := 0x80000000) (clear_and rfl) rfl
  exact ⟨{ h.inv with
    paging := fun hg => hpe.trans (h.inv.paging (hpg.symm.trans hg))
    cr0 := (clear_and rfl).trans h.inv.cr0
    v86 := fun hvm => ⟨hpe.trans (h.inv.v86 hvm).1, (h.inv.v86 hvm).2⟩
    real := fun hr => h.inv.real (hpe.symm.trans hr) }, h.run⟩

namespace Ends

theorem requireCpl0 {k : Unit → Op β} {Q : State → Prop} (h : Since s u) (hk : u.level = 0 → Ends (k ()) u Q) :
    Ends (Machine.requireCpl0 >>= k) u Q := by
  by_cases hl : u.level = 0
  · unfold Ends
    rw [op_bind_ok (requireCpl0_ok hl)]
    exact hk hl
  · unfold Ends
    rw [op_bind_error (requireCpl0_gp hl)]
    exact h.live.inv.mem

theorem specialMove {k : Unit → Op β} {Q : State → Prop} (h : Since s u) (mod : BitVec 2) (defined : Bool)
    (hk : u.level = 0 → Ends (k ()) u Q) : Ends (Machine.specialMove mod defined >>= k) u Q := by
  unfold Machine.specialMove
  split
  · exact h.live.inv.mem
  · split
    · exact h.live.inv.mem
    · exact .requireCpl0 h hk

theorem crPut (h : Since s u) (hl : u.level = 0) (n : BitVec 3) (v : Dword) : Ends (Machine.crPut n v) u Live :=
  .ite (fun _ => .ite (fun _ => .raise h) fun hpg => .change (State.putCr0_live h.live hl _ (by
      unfold cr0Write
      exact merge_and rfl (and_and_zero v rfl)) (by
      simpa [cr0Write, bit] using hpg)))
    fun _ => .ite (fun _ => .still h .update) fun _ => .change (State.putCr3_live h.live v)

end Ends

theorem Calm.level (h : Calm s t) : t.level = s.level := by unfold State.level; rw [h.pe, h.cpl]

/-- What LMSW writes keeps PG, and PE where it is set. -/
theorem lmsw_paging {e v : Dword} (h : bit e 31 = true → bit e 0 = true) :
    bit ((e &&& ~~~ 0xE) ||| (v &&& 0xF)) 31 = true → bit ((e &&& ~~~ 0xE) ||| (v &&& 0xF)) 0 = true := by
  have hpg : bit ((e &&& ~~~ 0xE) ||| (v &&& 0xF)) 31 = bit e 31 :=
    bit_of_and (k := 0x80000000) (merge_and rfl (and_and_zero v rfl)) rfl
  rw [hpg]
  intro hset
  have hpe := h hset
  simp_all [bit]

/-- SCALL's functions but the entry to SuperState V (49_system_misc.md R664). -/
theorem Ends.scallFunction (h : Since s u) (s' : State) (p : Place) (modrm : Byte) (v : Dword) :
    Ends (Machine.scallFunction s' p modrm v) u State.Inv := by
  have still {x : Op Unit} (hx : Quiet x) : Ends x u State.Inv := .mono (.still h hx) fun _ => Live.inv
  have fail := Quiet.scallFail p
  unfold Machine.scallFunction
  refine .ite (fun _ => .ite (fun _ => still fail) fun _ => .change (State.enterSsv_inv h.live _ _ _)) fun _ => still ?_
  split
  · exact .scallOk _ _
  · exact .ite fail (.bind .update fun _ => .scallOk _ _)
  · exact .ite fail (.bind .update fun _ => .scallOk _ _)
  · exact .ite fail (.bind .update fun _ => .scallOk _ _)
  · exact .ite fail (.bind .update fun _ => .scallOk _ _)
  · exact .scallOk _ _
  · exact .ite fail (.bind .update fun _ => .scallOk _ _)
  · exact fail

namespace Sound

theorem lmsw (hs : Live s) (rm : RM) : Sound (execLmsw rm s) :=
  .run hs _ fun _ h => .requireCpl0 h fun hl => .quiet (.refl h.live) (.readRM _ _) fun _ _ h' =>
  .change <| Live.inv <| State.putCr0_live h'.live (h'.calm.level.trans hl) _ (merge_and rfl (and_and_zero _ rfl))
    (lmsw_paging h'.live.inv.paging)

theorem movToCr (hs : Live s) (mod : BitVec 2) (n : BitVec 3) (r : Reg) : Sound (execMovToCr mod n r s) :=
  .run hs _ fun _ h => .specialMove h _ _ fun hl => .bind (.crPut h hl _ _) fun _ _ ht =>
  .mono (.still (.refl ht) .flagsUndefined) fun _ => Live.inv

theorem clts (hs : Live s) : Sound (execClts s) :=
  .run hs _ fun _ h => .quiet h .requireCpl0 fun _ _ h => .change (clts_live h.live).inv

theorem hlt (hs : Live s) : Sound (execHlt s) :=
  .run hs _ fun _ h => .quiet h .requireCpl0 fun _ _ h =>
  .change (Live.inv (h.live.inRun (r := .halted) nofun rfl rfl))

theorem scall (hs : Live s) (r : Reg) (rm : RM) : Sound (execScall r rm s) :=
  .run hs _ fun _ h => .ite (fun _ => .raise h) fun _ =>
  .quiet h (.locate _ _ _) fun _ _ h => .quiet h (.readPlace _ _) fun _ _ h => .scallFunction h _ _ _ _

end Sound

/-! ## Every instruction -/

/-- The frame of ENTER made, and the registers (49_system_misc.md R641). -/
theorem Quiet.makeEnter (k : Width) (l : List FrameStep) (big : Bool) (bp sp : Dword) (v : Val k) : Quiet (do
    Machine.makeFrame l
    if big then Machine.setReg .d .ebp bp
    Machine.setReg k .ebp v
    modify fun t => t.setSp sp) :=
  .bind (.makeFrame _) fun _ => .first (.setReg _ _ _) (.bind (.setReg _ _ _) fun _ => .setSp _)

namespace Sound

theorem latch (hs : Live s) (i : Instr) : Sound (.next (s.latch i)) := .next (Live.inv (hs.idle rfl rfl))

theorem mov (hs : Live s) (f : MovForm) : Sound (execMov f s) := .quietRun hs <| match f with
  | .rmReg _ _ _ => .writeRM _ _ _
  | .regRm _ _ _ => .bind (.readRM _ _) fun _ => .setReg _ _ _
  | .accMoff _ _ => .bind (.readMoff _ _) fun _ => .setAcc _ _
  | .moffAcc _ _ => .writeMoff _ _ _
  | .regImm8 _ _ => .setReg _ _ _
  | .regImm _ _ => .setReg _ _ _
  | .rmImm8 _ _ => .writeRM _ _ _
  | .rmImm _ _ => .writeRM _ _ _

theorem test (hs : Live s) (f : TestForm) : Sound (execTest f s) := .quietRun hs <| match f with
  | .rmReg _ _ _ => .bind (.readRM _ _) fun _ => .setLogic _
  | .alImm _ => .setLogic _
  | .axImm _ => .setLogic _
  | .rmImm8 _ _ _ => .bind (.readRM _ _) fun _ => .setLogic _
  | .rmImm _ _ _ => .bind (.readRM _ _) fun _ => .setLogic _

theorem imul (hs : Live s) (f : ImulForm) : Sound (execImul f s) := .quietRun hs <| match f with
  | .one _ _ => .imulOne _ _
  | .two _ _ => .bind (.readRM _ _) fun _ => .imulTo _ _ _ _
  | .three _ _ _ => .bind (.readRM _ _) fun _ => .imulTo _ _ _ _
  | .threeSext _ _ _ => .bind (.readRM _ _) fun _ => .imulTo _ _ _ _

theorem push (hs : Live s) (f : PushForm) : Sound (execPush f s) := .quietRun hs <| match f with
  | .reg _ => .pushItems _
  | .imm _ => .pushItems _
  | .imm8 _ => .pushItems _
  | .rmOp _ => .bind (.locate _ _ _) fun _ => .bind (.preparePushes _ _ _ _ _) fun _ =>
    .bind (.readPlace _ _) fun _ => .bind (.writeAll _) fun _ => .setSp _

theorem pop (hs : Live s) (f : PopForm) : Sound (execPop f s) := .quietRun hs <| match f with
  | .reg _ => .bind (.pop _) fun _ => .setReg _ _ _
  | .rmOp _ => .bind (.prepare _ _ _ _) fun _ => .bind (.setSp _) fun _ => .bind (.locate _ _ _) fun _ =>
    .bind (.readRef _) fun _ => .writePlace _ _ _

theorem xchg (hs : Live s) : ∀ f : XchgForm, Sound (execXchg f s)
  | .rmReg _ _ _ => .quietRun hs (.bind (.locate _ _ _) fun _ => .bind (.readPlace _ _) fun _ =>
    .bind (.getReg _ _) fun _ => .bind (.writePlace _ _ _) fun _ => .setReg _ _ _)
  | .acc _ => .quietRun hs (.bind (.getAcc _) fun _ => .bind (.getReg _ _) fun _ =>
    .bind (.setAcc _ _) fun _ => .setReg _ _ _)

theorem movToSreg (hs : Live s) (k : SregField) (rm : RM) : Sound (execMovToSreg k rm s) := .quietRun hs <| by
  split
  · exact .raise _ _
  · exact .raise _ _
  · exact .raise _ _
  · exact .bind (.readRM _ _) fun _ => .bind (.loadSeg _ _) fun _ => .shadowSs _

theorem movFromSreg (hs : Live s) (rm : RM) (k : SregField) : Sound (execMovFromSreg rm k s) := .quietRun hs <| by
  split
  · exact .raise _ _
  · exact .raise _ _
  · exact .storeSel _ _

theorem popSreg (hs : Live s) (k : Sreg) : Sound (execPopSreg k s) := .quietRun hs <| by
  split
  · exact .raise _ _
  · exact .bind (.pop _) fun _ => .bind (.loadSeg _ _) fun _ => .shadowSs _

theorem jmpNear (hs : Live s) (f : JmpForm) : Sound (execJmpNear f s) := .quietRun hs <| match f with
  | .short _ => .nearBranch _
  | .near _ => .nearBranch _
  | .rmOp _ => .bind (.readRM _ _) fun _ => .nearBranch _

theorem callNear (hs : Live s) (f : CallForm) : Sound (execCallNear f s) := .quietRun hs <| match f with
  | .rel _ => .callTo _ _
  | .rmOp _ => .bind (.readRM _ _) fun _ => .callTo _ _

/-- A meaning whose operation leaves a live state. -/
theorem liveEnd {x : Op End} (hs : Live s) {l : Bool} (hx : ∀ u, Since s u → Ends x u Live) :
    Sound (Machine.runEnd l x s) := .runEnd hs l fun u hu => .mono (hx u hu) fun _ => Live.inv

theorem liveRun {x : Op Unit} (hs : Live s) {l : Bool} (hx : ∀ u, Since s u → Ends x u Live) :
    Sound (Machine.run l x s) := .run hs l fun u hu => .mono (hx u hu) fun _ => Live.inv

theorem inc (hs : Live s) (f : IncForm) : Sound (execInc f s) :=
  .quietRun hs (.incUpdate (fun _ _ => .bind (.setStatus _) fun _ => .pure _) f)

theorem dec (hs : Live s) (f : IncForm) : Sound (execDec f s) :=
  .quietRun hs (.incUpdate (fun _ _ => .bind (.setStatus _) fun _ => .pure _) f)

theorem mul (hs : Live s) (wide : Bool) (rm : RM) : Sound (execMul wide rm s) :=
  .quietRun hs (.bind (.readRM _ _) fun _ => .bind (.getAcc _) fun _ => .bind (.setPair _ _ _) fun _ => .mulStatus _)

theorem div (hs : Live s) (wide : Bool) (rm : RM) : Sound (execDiv wide rm s) :=
  .quietRun hs (.bind (.readRM _ _) fun _ => .ite .divideError (.ite .divideError (.setQuotient _ _ _)))

theorem idiv (hs : Live s) (wide : Bool) (rm : RM) : Sound (execIdiv wide rm s) :=
  .quietRun hs (.bind (.readRM _ _) fun _ => .ite .divideError (.ite (.setQuotient _ _ _) .divideError))

theorem aaa (hs : Live s) : Sound (execAaa s) :=
  .quietRun hs (.bind (.getReg _ _) fun _ => .bind (.setAcc _ _) fun _ => .first (.setReg _ _ _)
    (.bind .undefStatus fun _ => .setStatus _))

theorem aas (hs : Live s) : Sound (execAas s) :=
  .quietRun hs (.bind (.getReg _ _) fun _ => .bind (.setAcc _ _) fun _ => .first (.setReg _ _ _)
    (.bind .undefStatus fun _ => .setStatus _))

theorem aam (hs : Live s) (i : BitVec 8) : Sound (execAam i s) :=
  .quietRun hs (.bind .undefStatus fun _ => .ite (.bind (.setStatus _) fun _ => .raise _ _)
    (.bind (.setReg _ _ _) fun _ => .bind (.setAcc _ _) fun _ => .setStatus _))

theorem aad (hs : Live s) (i : BitVec 8) : Sound (execAad i s) :=
  .quietRun hs (.bind (.getReg _ _) fun _ => .bind (.setAcc _ _) fun _ => .bind (.setReg _ _ _) fun _ =>
    .bind .undefStatus fun _ => .setStatus _)

theorem lar (hs : Live s) (r : Reg) (rm : RM) : Sound (execLar r rm s) :=
  .quietRun hs (.bind (.visible _ _) fun o => by
    cases o with
    | none => exact .setFlagBit rfl _
    | some d => exact .bind .fresh fun _ => .bind (.setReg _ _ _) fun _ => .setFlagBit rfl _)

theorem lsl (hs : Live s) (r : Reg) (rm : RM) : Sound (execLsl r rm s) :=
  .quietRun hs (.bind (.visible _ _) fun o => by
    cases o with
    | none => exact .setFlagBit rfl _
    | some d => exact .bind (.setReg _ _ _) fun _ => .setFlagBit rfl _)

theorem arpl (hs : Live s) (rm : RM) (r : Reg) : Sound (execArpl rm r s) :=
  .quietRun hs (.bind .requireProtected fun _ => .bind (.locate _ _ _) fun _ => .bind (.readPlace _ _) fun _ =>
    .ite (.bind (.writePlace _ _ _) fun _ => .setFlagBit rfl _) (.setFlagBit rfl _))

theorem popf (hs : Live s) : Sound (execPopf s) :=
  .quietRun hs (.bind .requireIopl3 fun _ => .bind (.pop _) fun _ =>
    .change fun _ => .of_flags rfl (loadFlags_and_fixed _ _ (flagMask_and _ _)))

theorem sahf (hs : Live s) : Sound (execSahf s) :=
  .quietRun hs (.bind (.getReg _ _) fun _ => .change fun _ => .of_flags rfl (loadFlags_and_fixed _ _ rfl))

theorem popa (hs : Live s) : Sound (execPopa s) :=
  .quietRun hs (.bind (.preparePops _ _ _) fun _ => .bind (.readRefs _) fun _ => .bind (.setReg _ _ _) fun _ =>
    .bind (.setReg _ _ _) fun _ => .bind (.setReg _ _ _) fun _ => .bind (.setReg _ _ _) fun _ =>
    .bind (.setReg _ _ _) fun _ => .bind (.setReg _ _ _) fun _ => .bind (.setReg _ _ _) fun _ => .setSp _)

theorem bound (hs : Live s) (r : Reg) (rm : RM) : Sound (execBound r rm s) :=
  .quietRun hs (.bind (.memOperand _) fun _ => .bind (.readParts (.prepare _ _ _ _) (.prepare _ _ _ _)) fun _ =>
    .ite (.raise _ _) (.pure _))

theorem enter (hs : Live s) (size : BitVec 16) (level : BitVec 8) : Sound (execEnter size level s) :=
  .quietRun hs (.bind (.prepare _ _ _ _) fun _ => .bind (.prepareDisplay _ _ _ _ _) fun _ =>
    .ite (.bind (.pure _) fun _ => .makeEnter _ _ _ _ _ _)
      (.bind (.prepare _ _ _ _) fun _ => .bind (.pure _) fun _ => .makeEnter _ _ _ _ _ _))

theorem esc (hs : Live s) (op ext : BitVec 3) (rm : RM) : Sound (execEsc op ext rm s) :=
  .quietRun hs (.ite (.raise _ _) (.ite (.raise _ _) (.ite (.raise _ _) (.refuse _))))

theorem wait (hs : Live s) : Sound (execWait s) :=
  .quietEnd hs (.ite (.raise _ _) (.ite (.raise _ _) (.ite (.bind .update fun _ => .pure _)
    (.pure _))))

theorem sti (hs : Live s) : Sound (execSti s) :=
  .quietRun hs (.bind .requireIopl fun _ => .bind (.setFlagBit rfl _) fun _ =>
    .ite .update (.pure _))

end Sound

/-- What every instruction keeps. -/
theorem exec_sound (i : Instr) (s : State) (hs : Live s) : Sound (exec i s) := by
  cases i with
  | segEs | segCs | segSs | segDs | segFs | segGs | opsize | adrsize | lock | repne | rep => exact .latch hs _
  | add f | adc f => exact .quietRun hs (.aluUpdate (.addOp _) f)
  | sub f | sbb f => exact .quietRun hs (.aluUpdate (.subOp _) f)
  | and_ f | or_ f | xor_ f => exact .quietRun hs (.aluUpdate (.logicOp _) f)
  | cmp f => exact .quietRun hs (.aluCompare (fun _ _ _ => .setStatus _) f)
  | test f => exact .test hs f
  | inc f => exact .inc hs f
  | dec f => exact .dec hs f
  | neg wide rm => exact .quietRun hs (.updateRM fun _ => .bind (.setStatus _) fun _ => .pure _)
  | not_ wide rm => exact .quietRun hs (.updateRM fun _ => .pure _)
  | mul wide rm => exact .mul hs wide rm
  | imul f => exact .imul hs f
  | div wide rm => exact .div hs wide rm
  | idiv wide rm => exact .idiv hs wide rm
  | daa | das => exact .quietRun hs (.decimalAdjust _ _)
  | aaa => exact .aaa hs
  | aas => exact .aas hs
  | aam i => exact .aam hs i
  | aad i => exact .aad hs i
  | rol wide rm c | ror wide rm c | rcl wide rm c | rcr wide rm c => exact .quietRun hs (.rotate _ _ _ _ _)
  | shl a wide rm c => exact .quietRun hs (.shift _ _ _ _ _ _)
  | shr wide rm c | sar wide rm c => exact .quietRun hs (.shift _ _ _ _ _ _)
  | shld rm r c | shrd rm r c => exact .quietRun hs (.doubleShift _ _ _ _)
  | bt f => exact .quietRun hs (.bind (.bitSelect _ _ _) fun _ => .bind (.readPlace _ _) fun _ => .bitStatus _)
  | bts f | btr f | btc f => exact .quietRun hs (.bitUpdate _ _ _)
  | bsf r rm | bsr r rm => exact .quietRun hs (.bitScan _ _ _ _)
  | mov f => exact .mov hs f
  | movzx wide r rm | movsx wide r rm => exact .quietRun hs (.bind (.readRM _ _) fun _ => .setReg _ _ _)
  | movFromSreg rm k => exact .movFromSreg hs rm k
  | movToSreg k rm => exact .movToSreg hs k rm
  | movFromCr mod n r => exact .quietRun hs (.bind (.specialMove _ _) fun _ => .bind (.setReg _ _ _) fun _ =>
      .flagsUndefined)
  | movToCr mod n r => exact .movToCr hs mod n r
  | movFromDr mod n r => exact .quietRun hs (.bind (.specialMove _ _) fun _ => .bind .generalDetect fun _ =>
      .bind (.setReg _ _ _) fun _ => .flagsUndefined)
  | movToDr mod n r => exact .quietRun hs (.bind (.specialMove _ _) fun _ => .bind .generalDetect fun _ =>
      .bind .update fun _ => .flagsUndefined)
  | movFromTr mod n r => exact .quietRun hs (.bind (.specialMove _ _) fun _ => .bind (.setReg _ _ _) fun _ =>
      .flagsUndefined)
  | movToTr mod n r => exact .quietRun hs (.bind (.specialMove _ _) fun _ => .bind (.trPut _ _) fun _ =>
      .flagsUndefined)
  | push f => exact .push hs f
  | pushSreg k => exact .quietRun hs (.bind (.selItem _ _) fun _ => .pushItems _)
  | pop f => exact .pop hs f
  | popSreg k => exact .popSreg hs k
  | pusha => exact .quietRun hs (.pushItems _)
  | popa => exact .popa hs
  | pushf => exact .quietRun hs (.bind .requireIopl3 fun _ => .pushItems _)
  | popf => exact .popf hs
  | xchg f => exact .xchg hs f
  | nop => exact .quietRun hs (.pure _)
  | cbw | cwde | cwd | cdq => exact .quietRun hs (.bind (.getReg _ _) fun _ => .setReg _ _ _)
  | lea r rm => exact .quietRun hs (.bind (.memOperand _) fun _ => .setReg _ _ _)
  | les r rm | lds r rm | lss r rm | lfs r rm | lgs r rm => exact .quietRun hs (.loadPointer _ _ _)
  | in_ f => exact .quietRun hs (.bind (.ioCheck _ _) fun _ => .bind (.ioRead _ _) fun _ => .setAcc _ _)
  | out f => exact .quietRun hs (.bind (.ioCheck _ _) fun _ => .ioWrite _ _ _)
  | insb | insv => exact .quietEnd hs (.stringStep _ (.insElem _))
  | outsb | outsv => exact .quietEnd hs (.stringStep _ (.outsElem _))
  | movsb | movsv => exact .quietEnd hs (.stringStep _ (.movsElem _))
  | cmpsb | cmpsv => exact .quietEnd hs (.stringStep _ (.cmpsElem _))
  | stosb | stosv => exact .quietEnd hs (.stringStep _ (.stosElem _))
  | lodsb | lodsv => exact .quietEnd hs (.stringStep _ (.lodsElem _))
  | scasb | scasv => exact .quietEnd hs (.stringStep _ (.scasElem _))
  | jo f | jno f | jb f | jnb f | jz f | jnz f | jbe f | jnbe f | js f | jns f | jp f | jnp f | jl f | jnl f | jle f
  | jnle f => exact .quietRun hs (.jumpIf _ _ _)
  | seto rm | setno rm | setb rm | setnb rm | setz rm | setnz rm | setbe rm | setnbe rm | sets rm | setns rm | setp rm
  | setnp rm | setl rm | setnl rm | setle rm | setnle rm => exact .quietRun hs (.setByteIf _ _)
  | loop rel | loope rel | loopne rel => exact .quietRun hs (.loopIf _ _ _)
  | jcxz rel => exact .quietRun hs (.ite (.nearBranch _) (.pure _))
  | jmpNear f => exact .jmpNear hs f
  | callNear f => exact .callNear hs f
  | retNear n => exact .quietRun hs (.bind (.stackRead _ _ _) fun _ => .bind (.nearCheck _) fun _ =>
      .bind (.setSp _) fun _ => .jump _)
  | jmpFar f => exact .liveEnd hs fun _ h => .quiet h (.farPointer _ _) fun _ _ h => .farJmp h.live _ _
  | callFar f => exact .liveEnd hs fun _ h => .quiet h (.farPointer _ _) fun _ _ h => .farCall h.live _ _
  | retFar n => exact .liveRun hs fun _ h => .farRet h.live _
  | int3 => exact .liveEnd hs fun _ h => .softInt h.live _
  | int n => exact .liveEnd hs fun _ h => .quiet h .requireIopl3 fun _ _ h => .softInt h.live _
  | into => exact .liveEnd hs fun _ h => .ite (fun _ => .softInt h.live _) fun _ => .pure h.live
  | iret => exact .liveEnd hs fun _ h => .interruptReturn h.live
  | enter size level => exact .enter hs size level
  | leave => exact .quietRun hs (.bind (.memRead _ _ _) fun _ => .bind (.setSp _) fun _ => .setReg _ _ _)
  | bound r rm => exact .bound hs r rm
  | arpl rm r => exact .arpl hs rm r
  | wait => exact .wait hs
  | sahf => exact .sahf hs
  | lahf => exact .quietRun hs (.setReg _ _ _)
  | xlatb => exact .quietRun hs (.bind (.memRead _ _ _) fun _ => .setReg _ _ _)
  | esc op ext rm => exact .esc hs op ext rm
  | hlt => exact .hlt hs
  | cmc | clc | stc | cld | std => exact .quietRun hs (.setFlagBit rfl _)
  | cli => exact .quietRun hs (.bind .requireIopl fun _ => .setFlagBit rfl _)
  | sti => exact .sti hs
  | sldt rm | str rm => exact .quietRun hs (.bind .requireProtected fun _ => .writeRM _ _ _)
  | lldt rm => exact .quietRun hs (.bind .requireProtected fun _ => .bind .requireCpl0 fun _ =>
      .bind (.readRM _ _) fun _ => .loadLdtr _)
  | ltr rm => exact .quietRun hs (.bind .requireProtected fun _ => .bind .requireCpl0 fun _ =>
      .bind (.readRM _ _) fun _ => .loadTr _)
  | verr rm | verw rm => exact .quietRun hs (.bind (.visible _ _) fun _ => .setFlagBit rfl _)
  | sgdt rm | sidt rm => exact .quietRun hs (.writeTable _ _ _)
  | lgdt rm | lidt rm => exact .quietRun hs (.bind (.readTable _ _) fun _ => .update)
  | smsw rm => exact .quietRun hs (.writeRM _ _ _)
  | lmsw rm => exact .lmsw hs rm
  | lar r rm => exact .lar hs r rm
  | lsl r rm => exact .lsl hs r rm
  | clts => exact .clts hs
  | scall r rm => exact .scall hs r rm
  | ssvLow n | ssvHigh n | undefined u => exact .quietRun hs (.raise _ _)

end Sys2Proof.Machine
end

section
namespace Sys2Proof.Machine
variable {s t u : State}

/-! ## Reset -/

theorem cr0AtReset_bits (c : Bool) : bit (cr0AtReset c) 0 = false ∧ bit (cr0AtReset c) 31 = false := by
  cases c <;> decide

theorem State.atReset_inv (cfg : Config.Params) {mem : List Host.Cell} (lines : Lines) (free : Nat)
    (out : List HostEvent) (hm : Mem.wf mem = true) : (State.atReset cfg mem lines free out).Inv where
  mem := hm
  flags := show (2 : Dword) &&& 0xFFFC802A = 2 by decide
  paging := fun h => absurd ((cr0AtReset_bits cfg.coprocessorPresent).2.symm.trans h) nofun
  cr0 := rfl
  cr3 := BitVec.zero_and
  v86 := fun h => absurd h (show bit (2 : Dword) 17 ≠ true by decide)
  real := fun _ => rfl
  ssv := nofun

/-- Settles O2: the fields of `State.atReset` are the constants the invariant asks for. -/
theorem resetInvariant : Obligations.ResetInvariant :=
  ⟨State.atReset_inv _ _ _ _ Mem.wf_reset, fun cfg _ lines free out hm => State.atReset_inv cfg lines free out hm⟩

theorem step_reset (h : s.lines.reset = true) : step s = .next s.doReset := by
  simp [step, stepWith, h]

/-- RESET, the stop of SuperState V, and the boundary with the instruction or the event due behind it. -/
theorem step_sound (hs : s.Inv) : Sound (step s) := by
  unfold step stepWith
  split
  · exact .next (State.atReset_inv _ _ _ _ hs.mem)
  · split
    · exact .refused _
    · have hb : Live s.boundary := Live.calm ⟨hs, ‹_›⟩ (.boundary s)
      dsimp only
      split
      · split
        · exact .runInstr exec_sound hb
        · exact .next hb.inv
      · exact .takeDue hb _

/-- Settles O3: the boundary is calm, and what runs behind it leaves the invariant by `deliver_sound` and `exec_sound`;
most operations are quiet, and those that write CPL, VM or a control register have lemmas of their own. -/
theorem stepKeepsInvariant : Obligations.StepKeepsInvariant := fun _ t hs hstep => step_sound hs t hstep

/-- DH and DL after reset: the component and the revision (10_state.md R34). -/
theorem reset_edx (r : Byte) : (0x00000300 ||| r.setWidth 32 : Dword).extractLsb' 0 16 = 0x03#8 ++ r := by
  refine BitVec.eq_of_getLsbD_eq fun i hi => Eq.trans ?_ (BitVec.getLsbD_append (x := 0x03#8) (y := r)).symm
  rw [BitVec.getLsbD_extractLsb', BitVec.getLsbD_or, BitVec.getLsbD_setWidth]
  interval_cases i <;> simp

theorem State.atReset_segs (cfg : Config.Params) (mem : List Host.Cell) (lines : Lines) (free : Nat)
    (out : List HostEvent) (k : Sreg) :
    (State.atReset cfg mem lines free out).segs.get k = if k = .cs then .codeAtReset else .dataAtReset := by
  cases k <;> rfl

/-- Settles O1: each value is a field of `State.atReset`, and RESET is the first test of a step. -/
theorem resetValues : Obligations.ResetValues := by
  refine ⟨fun cfg mem lines free out => ?_, fun s h =>
    ⟨_, step_reset h, rfl, (cr0AtReset_bits _).1, rfl, rfl, rfl, rfl, rfl⟩⟩
  obtain ⟨hpe, hpg⟩ := cr0AtReset_bits cfg.coprocessorPresent
  refine ⟨rfl, rfl, rfl, reset_edx _, rfl, rfl, rfl, ?_, ?_, rfl, rfl, hpe, hpg, rfl, rfl, rfl, rfl, rfl, rfl, ?_, ?_,
    rfl, rfl, rfl, rfl, rfl, rfl, rfl⟩
  · intro k hk
    rw [State.atReset_segs, if_neg hk]
    exact ⟨rfl, rfl, rfl⟩
  · intro k
    rw [State.atReset_segs]
    split <;> exact ⟨rfl, rfl, rfl, rfl, rfl, rfl, rfl⟩
  · intro i
    simp [State.atReset, Tlb.atReset, TlbEntry.invalid]
  · intro i
    simp [State.atReset]

end Sys2Proof.Machine
end

section
namespace Sys2Proof.Machine

/-! ## The flags of a sum and of a difference -/

section
variable {n : Nat} (a b : BitVec n) (c : Bool)

theorem carryNat_eq_toNat : carryNat c = c.toNat := by cases c <;> rfl

theorem ofNat_carryNat : BitVec.ofNat n (carryNat c) = (BitVec.ofBool c).setWidth n := by
  refine BitVec.eq_of_toNat_eq ?_
  rw [BitVec.toNat_ofNat, BitVec.toNat_setWidth, BitVec.toNat_ofBool, carryNat_eq_toNat]

theorem carry_four : BitVec.carry 4 a b c = decide (16 ≤ a.toNat % 16 + b.toNat % 16 + carryNat c) := by
  rw [carryNat_eq_toNat]
  rfl

/-- Bit 4 of operands and sum together shows the carry out of the low four bits. -/
theorem bit4_sum (hn : 4 < n) :
    (a ^^^ b ^^^ (a + b + BitVec.ofNat n (carryNat c))).getLsbD 4 =
      decide (16 ≤ a.toNat % 16 + b.toNat % 16 + carryNat c) := by
  rw [← carry_four, ofNat_carryNat, BitVec.getLsbD_xor, BitVec.getLsbD_xor, BitVec.getLsbD_add_add_bool hn]
  cases a.getLsbD 4 <;> cases b.getLsbD 4 <;> simp

/-- A difference is the sum with the complement of the subtrahend, and the carry that of the borrow. -/
theorem difference_eq_sum :
    a - b - BitVec.ofNat n (carryNat c) = a + ~~~b + BitVec.ofNat n (carryNat (!c)) := by
  have hnot : ~~~b = -b - 1#n := by
    rw [BitVec.neg_eq_not_add]
    exact (BitVec.add_sub_cancel _ _).symm
  rw [hnot]
  cases c
  · show a - b - 0#n = a + (-b - 1#n) + 1#n
    rw [← add_sub_assoc, sub_add_cancel, ← sub_eq_add_neg]
    exact BitVec.sub_zero _
  · show a - b - 1#n = a + (-b - 1#n) + 0#n
    rw [← add_sub_assoc, ← sub_eq_add_neg]
    exact (BitVec.add_zero _).symm

theorem carryNat_not : carryNat (!c) = 1 - carryNat c := by cases c <;> rfl

theorem carryNat_le : carryNat c ≤ 1 := by cases c <;> decide

theorem toInt_complement (hn : 0 < n) : (~~~b).toInt = -b.toInt - 1 := by
  have hnat : ((~~~b).toNat : Int) = (2 ^ n : Nat) - 1 - b.toNat := by
    have hlt := b.isLt
    rw [BitVec.toNat_not]
    omega
  rw [BitVec.toInt_eq_msb_cond, BitVec.toInt_eq_msb_cond, BitVec.msb_not, hnat]
  cases b.msb <;> simp [hn] <;> ring

theorem toNat_complement_mod (hn : 4 < n) : (~~~b).toNat % 16 = 15 - b.toNat % 16 := by
  obtain ⟨k, hk⟩ : 16 ∣ 2 ^ n := Nat.pow_dvd_pow 2 (show 4 ≤ n by omega)
  have hlt := b.isLt
  rw [BitVec.toNat_not]
  omega

/-- Bit 4 of operands and difference together shows the borrow into the low four bits. -/
theorem bit4_difference (hn : 4 < n) :
    (a ^^^ b ^^^ (a - b - BitVec.ofNat n (carryNat c))).getLsbD 4 =
      decide (a.toNat % 16 < b.toNat % 16 + carryNat c) := by
  rw [difference_eq_sum]
  generalize hd : a + ~~~b + BitVec.ofNat n (carryNat (!c)) = d
  have hsum := bit4_sum a (~~~b) (!c) hn
  have hflip : (a ^^^ b ^^^ d).getLsbD 4 = !(a ^^^ ~~~b ^^^ d).getLsbD 4 := by simp [hn]
  have hc := carryNat_le c
  rw [hd] at hsum
  rw [hflip, hsum, toNat_complement_mod b hn, carryNat_not, ← decide_not, decide_eq_decide]
  omega

/-- What the value of a word says of an integer out of the word's range by less than its span. -/
theorem toInt_ofInt_wrap {M : Int} (hn : 0 < n) (hM : (2 : Int) ^ (n - 1) = M) (x : Int) :
    (-M ≤ x ∧ x < M → (BitVec.ofInt n x).toInt = x) ∧
    (M ≤ x ∧ x < 3 * M → (BitVec.ofInt n x).toInt = x - 2 * M) ∧
    (x < -M ∧ -(3 * M) ≤ x → (BitVec.ofInt n x).toInt = x + 2 * M) := by
  have hspan : ((2 ^ n : Nat) : Int) = 2 * M := by
    obtain ⟨m, rfl⟩ : ∃ m, n = m + 1 := ⟨n - 1, by omega⟩
    rw [← hM]
    push_cast
    simp [pow_succ, mul_comm]
  have self (y : Int) (h : -M ≤ y ∧ y < M) : y.bmod (2 ^ n) = y :=
    Int.bmod_eq_of_le_mul_two (by omega) (by omega)
  rw [BitVec.toInt_ofInt]
  refine ⟨self x, fun h => ?_, fun h => ?_⟩
  · rw [← Int.sub_bmod_right, hspan]
    exact self _ (by omega)
  · rw [← Int.add_bmod_right, hspan]
    exact self _ (by omega)

theorem sum_eq_ofInt : a + b + BitVec.ofNat n (carryNat c) = BitVec.ofInt n (a.toInt + b.toInt + carryNat c) := by
  rw [BitVec.ofInt_add, BitVec.ofInt_add, BitVec.ofInt_natCast, BitVec.ofInt_toInt, BitVec.ofInt_toInt]

/-- The signed sum does not fit exactly where the operands have one sign and the result the other. -/
theorem sum_overflow (hn : 0 < n) :
    (!fitsSigned n (a.toInt + b.toInt + carryNat c)) =
      (a.msb == b.msb && (a + b + BitVec.ofNat n (carryNat c)).msb != a.msb) := by
  obtain ⟨M, hM⟩ : ∃ M : Int, (2 : Int) ^ (n - 1) = M := ⟨_, rfl⟩
  have hwrap := toInt_ofInt_wrap hn hM (a.toInt + b.toInt + carryNat c)
  have ha := a.le_toInt
  have ha' := a.toInt_lt
  have hb := b.le_toInt
  have hb' := b.toInt_lt
  have hc := carryNat_le c
  rw [hM] at ha ha' hb hb'
  rw [sum_eq_ofInt, Bool.eq_iff_iff]
  simp only [fitsSigned, BitVec.msb_eq_toInt, hM, Bool.not_eq_true', Bool.and_eq_true, beq_iff_eq, bne_iff_ne, ne_eq,
    Bool.and_eq_false_iff, decide_eq_false_iff_not, decide_eq_decide]
  omega

theorem difference_overflow (hn : 0 < n) :
    (!fitsSigned n (a.toInt - b.toInt - carryNat c)) =
      (a.msb != b.msb && (a - b - BitVec.ofNat n (carryNat c)).msb != a.msb) := by
  have hint : a.toInt - b.toInt - carryNat c = a.toInt + (~~~b).toInt + carryNat (!c) := by
    have hc := carryNat_le c
    rw [toInt_complement b hn, carryNat_not]
    omega
  rw [hint, sum_overflow a (~~~b) (!c) hn, difference_eq_sum, BitVec.msb_not]
  cases a.msb <;> cases b.msb <;> simp [hn]

end

/-- An even number of a list's elements has a property where their truth values cancel out. -/
theorem even_filter_iff (f : Nat → Bool) : ∀ l : List Nat,
    (l.filter f).length % 2 = 0 ↔ l.foldr (fun i p => f i ^^ p) false = false
  | [] => by simp
  | i :: l => by
    have ih := even_filter_iff f l
    cases hi : f i
    · simpa [hi] using ih
    · simp only [List.filter_cons, hi, if_true, List.length_cons, List.foldr_cons, Bool.true_xor, Bool.not_eq_false']
      rw [← Bool.not_eq_false, ← ih]
      omega

theorem parity8_iff {n : Nat} (r : BitVec n) :
    parity8 r = true ↔ ((List.range 8).filter fun i => r.getLsbD i).length % 2 = 0 := by
  rw [even_filter_iff]
  simp [parity8, List.range_succ]

theorem decide_eq_zero_iff {n : Nat} (x : BitVec n) : decide (x = 0) = true ↔ x.toNat = 0 := by
  rw [decide_eq_true_iff]
  exact BitVec.toNat_inj.symm.trans (by rw [show (0 : BitVec n).toNat = 0 from BitVec.toNat_zero])

/-- Settles O15: bit 4 of operands and result is the carry out of the low four bits, the sign of a word that wrapped is
not that of the integer it stands for, and a difference is a sum with the complement. -/
theorem arithmeticFlags : Obligations.ArithmeticFlags := by
  intro n a b c hn r d
  have hcarry : (addStatus a b c).cf = BitVec.carry n a b c := by
    simp [addStatus, BitVec.carry, carryNat_eq_toNat, Nat.mod_eq_of_lt a.isLt, Nat.mod_eq_of_lt b.isLt]
  have hborrow : (subStatus a b c).cf = decide (a.toNat < b.toNat + c.toNat) := by
    simp [subStatus, carryNat_eq_toNat]
  exact ⟨hcarry, (bit4_sum a b c (by omega)).symm, sum_overflow a b c (by omega), BitVec.msb_eq_getLsbD_last _,
    decide_eq_zero_iff _, hborrow, (bit4_difference a b c (by omega)).symm, difference_overflow a b c (by omega),
    BitVec.msb_eq_getLsbD_last _, decide_eq_zero_iff _, parity8_iff _, parity8_iff _⟩

end Sys2Proof.Machine
end

section
namespace Sys2Proof.Machine

/-! ## Writing status flags -/

theorem Status.bits_getLsbD (f : Status) {i : Nat} (hi : i < 32) : f.bits.getLsbD i =
    (f.cf && decide (i = 0) || f.pf && decide (i = 2) || f.af && decide (i = 4) || f.zf && decide (i = 6) ||
      f.sf && decide (i = 7) || f.of && decide (i = 11)) := by
  simp only [Status.bits, BitVec.getLsbD_or, flagBit_getLsbD _ _ hi]

theorem withStatus_getLsbD (e : Dword) (f : Status) {i : Nat} (hi : i < 32) : (withStatus e f).getLsbD i =
    (e.getLsbD i && !(decide (i = 0) || decide (i = 2) || decide (i = 4) || decide (i = 6) || decide (i = 7) ||
      decide (i = 11)) || f.bits.getLsbD i) := by
  have hmask : (0x8D5 : Dword) = (⟨true, true, true, true, true, true⟩ : Status).bits := rfl
  simp only [withStatus, hmask, BitVec.getLsbD_or, BitVec.getLsbD_and, BitVec.getLsbD_not, Status.bits_getLsbD _ hi, hi,
    decide_true, Bool.true_and]

/-- The status flags read back as written. -/
theorem statusOf_withStatus (e : Dword) (f : Status) : statusOf (withStatus e f) = f := by
  obtain ⟨cf, pf, af, zf, sf, of⟩ := f
  simp (disch := decide) only [statusOf, bit, withStatus_getLsbD, Status.bits_getLsbD]
  simp

/-- No bit but the six is written. -/
theorem bit_withStatus (e : Dword) (f : Status) {i : Nat} (h0 : i ≠ 0) (h2 : i ≠ 2) (h4 : i ≠ 4) (h6 : i ≠ 6)
    (h7 : i ≠ 7) (h11 : i ≠ 11) : bit (withStatus e f) i = bit e i := by
  unfold bit
  by_cases hi : i < 32
  · rw [withStatus_getLsbD e f hi, f.bits_getLsbD hi]
    simp [h0, h2, h4, h6, h7, h11]
  · rw [BitVec.getLsbD_of_ge _ _ (by omega), BitVec.getLsbD_of_ge _ _ (by omega)]

/-! ## Writing registers -/

theorem Regs.get_set (g : Regs) (r q : Reg) (v : Dword) : (g.set r v).get q = if q = r then v else g.get q := by
  cases r <;> cases q <;> rfl

theorem Regs.get_set_same (g : Regs) (r : Reg) (v : Dword) : (g.set r v).get r = v := by rw [g.get_set, if_pos rfl]

theorem Regs.get_set_ne (g : Regs) {r q : Reg} (v : Dword) (h : q ≠ r) : (g.set r v).get q = g.get q := by
  rw [g.get_set, if_neg h]

/-- A byte put into bits 7:0 or 15:8 of a doubleword. -/
def putByteAt (high : Bool) (old : Dword) (v : BitVec 8) : Dword :=
  if high then old.extractLsb' 16 16 ++ v ++ old.extractLsb' 0 8 else old.extractLsb' 8 24 ++ v

theorem putByteAt_getLsbD (high : Bool) (old : Dword) (v : BitVec 8) {i : Nat} (hi : i < 32) :
    (putByteAt high old v).getLsbD i =
      if (if high then 8 else 0) ≤ i ∧ i < (if high then 16 else 8) then v.getLsbD (i - if high then 8 else 0)
      else old.getLsbD i := by
  cases high
  · refine (BitVec.getLsbD_append (x := old.extractLsb' 8 24) (y := v)).trans ?_
    by_cases h : i < 8
    · simp [h]
    · have h24 : i - 8 < 24 := by omega
      have hi8 : 8 + (i - 8) = i := by omega
      simp [h, h24, hi8]
  · refine (BitVec.getLsbD_append (x := old.extractLsb' 16 16 ++ v) (y := old.extractLsb' 0 8)).trans ?_
    by_cases h : i < 8
    · have hle : ¬ 8 ≤ i := by omega
      simp [h, hle]
    · rw [if_neg h, BitVec.getLsbD_append]
      by_cases h16 : i < 16
      · have h8 : i - 8 < 8 := by omega
        have hle : 8 ≤ i := by omega
        simp [h16, h8, hle]
      · have h8 : ¬ i - 8 < 8 := by omega
        have h16' : i - 8 - 8 < 16 := by omega
        have hi16 : 16 + (i - 8 - 8) = i := by omega
        simp [h16, h8, h16', hi16]

theorem extract_putByteAt (high : Bool) (old : Dword) (v : BitVec 8) :
    (putByteAt high old v).extractLsb' (if high then 8 else 0) 8 = v := by
  refine BitVec.eq_of_getLsbD_eq fun i hi => ?_
  rw [BitVec.getLsbD_extractLsb', putByteAt_getLsbD _ _ _ (by cases high <;> simp <;> omega)]
  cases high
  · simp [hi]
  · have : 8 + i < 16 := by omega
    simp [hi, this]

theorem bit_putByteAt {high : Bool} (old : Dword) (v : BitVec 8) {i : Nat}
    (h : ¬ ((if high then 8 else 0) ≤ i ∧ i < (if high then 16 else 8))) :
    bit (putByteAt high old v) i = bit old i := by
  unfold bit
  by_cases hi : i < 32
  · rw [putByteAt_getLsbD _ _ _ hi, if_neg h]
  · rw [BitVec.getLsbD_of_ge _ _ (by omega), BitVec.getLsbD_of_ge _ _ (by omega)]

theorem shift_word_write (old : Dword) (v : BitVec 16) : (old.extractLsb' 16 16 ++ v : Dword) >>> 16 = old >>> 16 := by
  refine BitVec.eq_of_getLsbD_eq fun i hi => ?_
  rw [BitVec.getLsbD_ushiftRight, BitVec.getLsbD_ushiftRight]
  refine (BitVec.getLsbD_append (x := old.extractLsb' 16 16) (y := v)).trans ?_
  have h : ¬ 16 + i < 16 := by omega
  by_cases hi16 : i < 16
  · simp [h, hi16]
  · simp [h, hi16, BitVec.getLsbD_of_ge old (16 + i) (by omega)]

theorem Regs.get_write_byte (g : Regs) (r : Reg) (v : BitVec 8) :
    (g.write .b r v).get r.byteHome = putByteAt r.byteHigh (g.get r.byteHome) v := g.get_set_same _ _

theorem Regs.get_write_word (g : Regs) (r : Reg) (v : BitVec 16) :
    (g.write .w r v).get r = ((g.get r).extractLsb' 16 16 ++ v : Dword) := g.get_set_same _ _

theorem Regs.read_write_byte (g : Regs) (r : Reg) (v : BitVec 8) : (g.write .b r v).read .b r = v := by
  unfold Regs.read
  rw [g.get_write_byte]
  exact extract_putByteAt _ _ _

theorem Regs.read_write_word (g : Regs) (r : Reg) (v : BitVec 16) : (g.write .w r v).read .w r = v := by
  unfold Regs.read
  rw [g.get_write_word]
  exact BitVec.extractLsb'_append_eq_right

/-- A register operand reads back as written. -/
theorem Regs.read_write (g : Regs) : ∀ (k : Width) (r : Reg) (v : Val k), (g.write k r v).read k r = v
  | .b, r, v => g.read_write_byte r v
  | .w, r, v => g.read_write_word r v
  | .d, r, v => g.get_set_same r v

/-- A word write leaves bits 31:16. -/
theorem Regs.get_write_word_high (g : Regs) (r : Reg) (v : BitVec 16) :
    (g.write .w r v).get r >>> 16 = g.get r >>> 16 := by
  rw [g.get_write_word]
  exact shift_word_write _ v

/-- A byte write leaves the bits of its register outside the byte. -/
theorem Regs.bit_write_byte (g : Regs) (r : Reg) (v : BitVec 8) {i : Nat}
    (h : ¬ ((if r.byteHigh then 8 else 0) ≤ i ∧ i < (if r.byteHigh then 16 else 8))) :
    bit ((g.write .b r v).get r.byteHome) i = bit (g.get r.byteHome) i := by
  rw [g.get_write_byte]
  exact bit_putByteAt _ _ h

/-- A word or doubleword write leaves every other register. -/
theorem Regs.get_write_ne (g : Regs) {r q : Reg} (h : q ≠ r) : ∀ {k : Width} (v : Val k), k ≠ .b →
    (g.write k r v).get q = g.get q
  | .b, _, hk => absurd rfl hk
  | .w, _, _ => g.get_set_ne _ h
  | .d, _, _ => g.get_set_ne _ h

/-- Settles O16: bit by bit, what `withStatus` and a byte or word put into a doubleword hold. -/
theorem statusAndRegisterWrites : Obligations.StatusAndRegisterWrites := by
  refine ⟨fun s f => ⟨statusOf_withStatus _ f, fun i => bit_withStatus _ f⟩, fun s k r q v => ?_⟩
  refine ⟨s.regs.read_write k r v, fun hk hq => s.regs.get_write_ne hq v hk, ?_, ?_, ?_⟩
  · rintro rfl
    exact s.regs.get_write_word_high r v
  · rintro rfl hq
    exact s.regs.get_set_ne _ hq
  · rintro rfl i hi
    exact s.regs.bit_write_byte r v hi

end Sys2Proof.Machine
end

section
namespace Sys2Proof.Machine

/-! # Segmented references with paging off -/

/-! ## Which references a segment allows -/

theorem SegReg.allows_iff (r : SegReg) (w : Bool) : r.allows w = true ↔
    if w then r.attr.e = false ∧ r.attr.rw = true else r.attr.e = false ∨ r.attr.rw = true := by
  cases w <;> simp [SegReg.allows]

/-- The offsets of an access rise, so that the last one alone is held against an upper bound and the first one against a
lower bound. -/
theorem SegReg.inLimit_iff (r : SegReg) (off : Nat) {n : Nat} (hn : 0 < n) : r.inLimit off n = true ↔
    ∀ i, i < n → if r.attr.e = false ∧ r.attr.c = true
      then r.limit.toNat < off + i ∧ off + i ≤ (if r.attr.db then 0xFFFFFFFF else 0xFFFF)
      else off + i ≤ r.limit.toNat := by
  unfold SegReg.inLimit
  by_cases hdown : r.attr.e = false ∧ r.attr.c = true
  · simp only [hdown, Bool.not_false, Bool.and_self, and_self, if_true, Bool.and_eq_true, decide_eq_true_eq]
    generalize (if r.attr.db then 0xFFFFFFFF else 0xFFFF) = top
    constructor
    · rintro ⟨hfirst, hlast⟩ i hi
      omega
    · intro h
      have hfirst := (h 0 hn).1
      have hlast := (h (n - 1) (by omega)).2
      omega
  · have hup : (!r.attr.e && r.attr.c) = false := by simpa using hdown
    simp only [hdown, hup, Bool.false_eq_true, if_false, decide_eq_true_eq]
    constructor
    · intro hlast i hi
      omega
    · intro h
      have hlast := h (n - 1) (by omega)
      omega

theorem SegReg.check_ok_iff {r : SegReg} {prot : Bool} (off n : Nat) (w : Bool) (h : (prot && r.null) = false) :
    r.check prot off n w = .ok ↔ r.allows w = true ∧ r.inLimit off n = true := by
  simp only [SegReg.check, h, Bool.false_eq_true, if_false, ← Bool.and_eq_true]
  cases r.allows w && r.inLimit off n <;> simp

/-! ## What the check answers -/

section
variable {s : State} {k : Sreg} {off : Dword} {n : Nat} {w : Bool}

theorem prepare_checked (h : (s.segs.get k).check s.prot off.toNat n w = .ok) :
    prepare k off n w s = probe ((s.segs.get k).base + off) n w s.user s := by
  have hcheck : checkVia (s.segs.get k) (k == .ss) 0 off n w s = .ok () s := by
    simp only [checkVia, op_get_bind, h, op_pure]
  rw [prepare, op_get_bind, prepareVia, op_bind_ok hcheck]

theorem prepare_nullSelector (h : (s.segs.get k).check s.prot off.toNat n w = .nullSelector) :
    prepare k off n w s = .error (.exc ⟨13, some 0⟩) s := by
  have hcheck : checkVia (s.segs.get k) (k == .ss) 0 off n w s = .error (.exc ⟨13, some 0⟩) s := by
    simp only [checkVia, op_get_bind, h]
    rfl
  rw [prepare, op_get_bind, prepareVia, op_bind_error hcheck]

theorem prepare_violation (h : (s.segs.get k).check s.prot off.toNat n w = .violation) :
    prepare k off n w s = .error (.exc ⟨if k = .ss then 12 else 13, some 0⟩) s := by
  have hcheck : checkVia (s.segs.get k) (k == .ss) 0 off n w s =
      .error (.exc ⟨if k = .ss then 12 else 13, some 0⟩) s := by
    simp only [checkVia, op_get_bind, h]
    cases k <;> rfl
  rw [prepare, op_get_bind, prepareVia, op_bind_error hcheck]

end

/-! ## Where the bytes lie -/

/-- The page of a linear address that is its own translation: what is prepared with paging off. -/
def Piece.flat (la : Dword) : Piece := ⟨la.extractLsb' 12 20, la.extractLsb' 12 20, none⟩

/-- What is prepared of n bytes with paging off: the page of the first byte and, where it is another, that of the
last. -/
def Ref.flat (lin : Dword) (n : Nat) : Ref :=
  let last := lin + BitVec.ofNat 32 (n - 1)
  ⟨lin, n, .flat lin, if last.extractLsb' 12 20 = lin.extractLsb' 12 20 then none else some (.flat last)⟩

theorem probePage_unpaged {s : State} (h : s.pg = false) (la fa : Dword) (w u : Bool) :
    probePage la fa w u s = .ok (.flat la) s := by
  simp [probePage, h, Piece.flat]

theorem probe_unpaged {s : State} (h : s.pg = false) (lin : Dword) (n : Nat) (w u : Bool) :
    probe lin n w u s = .ok (.flat lin n) s := by
  simp only [probe, Ref.flat, op_ite, op_get_bind, h, Bool.not_false, if_true]
  split
  · rw [op_bind_ok (probePage_unpaged h _ _ _ _), op_pure]
  · rw [op_bind_ok (probePage_unpaged h _ _ _ _), op_bind_ok (probePage_unpaged h _ _ _ _), op_pure]

theorem page_append_offset (la : Dword) : (la.extractLsb' 12 20 ++ la.extractLsb' 0 12 : Dword) = la :=
  BitVec.extractLsb'_append_extractLsb' (w := 20) (len := 12)

theorem page_toNat (la : Dword) : (la.extractLsb' 12 20).toNat = la.toNat / 4096 := by
  have := la.isLt
  rw [BitVec.extractLsb'_toNat, Nat.shiftRight_eq_div_pow]
  omega

/-- At most 4096 bytes in a row lie in the pages of the first and the last of them. -/
theorem page_first_or_last (lin : Dword) {n i : Nat} (hn : n ≤ 4096) (hi : i < n) :
    (lin + BitVec.ofNat 32 i).extractLsb' 12 20 = lin.extractLsb' 12 20 ∨
    (lin + BitVec.ofNat 32 i).extractLsb' 12 20 = (lin + BitVec.ofNat 32 (n - 1)).extractLsb' 12 20 := by
  have := lin.isLt
  simp only [← BitVec.toNat_inj, page_toNat, BitVec.toNat_add, BitVec.toNat_ofNat]
  omega

theorem Ref.flat_pa (lin : Dword) {n i : Nat} (hn : n ≤ 4096) (hi : i < n) :
    (Ref.flat lin n).pa i = lin + BitVec.ofNat 32 i := by
  refine Eq.trans ?_ (page_append_offset (lin + BitVec.ofNat 32 i))
  unfold Ref.pa Ref.flat Piece.flat
  have hpage := page_first_or_last lin hn hi
  by_cases hlow : (lin + BitVec.ofNat 32 i).extractLsb' 12 20 = lin.extractLsb' 12 20
  · simp only [hlow, if_true]
  · have hlast := hpage.resolve_left hlow
    simp only [if_neg hlow, ← hlast, Option.map_some, Option.getD_some]

/-- Settles O9: the check decides between the two faults and the access; with paging off the pages of its first and last
byte, which hold all its bytes, are their own translations. -/
theorem segmentedReference : Obligations.SegmentedReference := by
  refine ⟨⟨fun s k off n w hpg _ hmax hok => ?_, fun s k off n w => ⟨prepare_nullSelector, prepare_violation⟩⟩,
    fun r prot off n w hn hnull => ?_⟩
  · exact ⟨.flat _ n, (prepare_checked hok).trans (probe_unpaged hpg _ _ _ _), rfl, rfl, fun i hi => Ref.flat_pa _ hmax hi⟩
  · rw [SegReg.check_ok_iff off n w hnull, r.allows_iff, r.inLimit_iff off hn]

end Sys2Proof.Machine
end

section
namespace Sys2Proof.Machine

/-! # Prepared reads and writes with paging off -/

theorem touch_unpaged {s : State} (h : s.pg = false) (p : Piece) (w : Bool) : touch p w s = .ok () s := by
  simp only [touch, op_get_bind, op_ite, h, Bool.false_eq_true, if_false, op_pure]

/-- With paging off no translation is left to be made. -/
theorem Ref.touched_unpaged {s : State} (h : s.pg = false) (r : Ref) (w : Bool) : r.touched w s = s := by
  unfold Ref.touched touchRef
  rw [op_bind_ok (touch_unpaged h _ _)]
  cases r.hi with
  | none => rfl
  | some p => exact congrArg endState (touch_unpaged h p w)

theorem Ref.seen_unpaged {s : State} (h : s.pg = false) (r : Ref) :
    r.seen s = (s.watch r.lin r.n false).noteReads r.addresses := by
  rw [Ref.seen, r.touched_unpaged h]

theorem Ref.value_unpaged {s : State} (h : s.pg = false) (r : Ref) : r.value s = r.load s r.n 0 := by
  rw [Ref.value, r.touched_unpaged h]

theorem Ref.stored_unpaged {s : State} (h : s.pg = false) (r : Ref) (v : Nat) :
    r.stored v s = (r.store v r.n 0 s).watch r.lin r.n true := by
  rw [Ref.stored, r.touched_unpaged h]

/-! ## The bytes read -/

theorem Ref.load_lt (r : Ref) (s : State) : ∀ n i : Nat, r.load s n i < 256 ^ n
  | 0, _ => Nat.one_pos
  | n + 1, i => by
    have ih := Ref.load_lt r s n (i + 1)
    have hbyte := (s.phys (r.pa i)).isLt
    rw [Ref.load, pow_succ]
    omega

theorem Ref.byte_load (r : Ref) (s : State) : ∀ (n i : Nat) {j : Nat}, j < n →
    BitVec.ofNat 8 (r.load s n i / 256 ^ j) = s.phys (r.pa (i + j))
  | n + 1, i, 0, _ => by
    refine BitVec.eq_of_toNat_eq ?_
    have hbyte := (s.phys (r.pa i)).isLt
    simp only [Ref.load, pow_zero, Nat.div_one, BitVec.toNat_ofNat, Nat.add_zero]
    omega
  | n + 1, i, j + 1, hj => by
    have hbyte := (s.phys (r.pa i)).isLt
    have hrest : r.load s (n + 1) i / 256 = r.load s n (i + 1) := by
      rw [Ref.load]
      omega
    rw [pow_succ', ← Nat.div_div_eq_div_mul, hrest, Ref.byte_load r s n (i + 1) (Nat.lt_of_succ_lt_succ hj)]
    congr 2
    omega

/-! ## The bytes written -/

/-- Storing touches memory and what watches it, and neither the TLB, the free values nor the debug record. -/
theorem Ref.store_frame (r : Ref) (v : Nat) : ∀ (n i : Nat) (s : State),
    let t := r.store v n i s
    t = { s with mem := t.mem, stale := t.stale, queue := t.queue, flushed := t.flushed, icache := t.icache,
                 out := t.out }
  | 0, _, _ => rfl
  | n + 1, i, s => by
    have ih := Ref.store_frame r v n (i + 1) (s.putByte (r.pa i) (BitVec.ofNat 8 (v / 256 ^ i)))
    exact ih

theorem Ref.cell_store_of_ne (r : Ref) (v : Nat) {q : Dword} : ∀ (n i : Nat) {s : State}, Mem.wf s.mem = true →
    (∀ j, i ≤ j → j < i + n → q ≠ r.pa j) → (r.store v n i s).cell q = s.cell q
  | 0, _, _, _, _ => rfl
  | n + 1, i, s, hm, hq => by
    rw [Ref.store, Ref.cell_store_of_ne r v n (i + 1) (State.putByte_wf _ _ hm) fun j hlo hhi =>
      hq j (by omega) (by omega), State.cell_putByte hm, if_neg fun h => hq i le_rfl (by omega) h.1]

/-- A byte of the access is stored once, the addresses being distinct, and only where RAM answers. -/
theorem Ref.cell_store (r : Ref) (v : Nat) : ∀ (n i : Nat) {s : State} {j : Nat}, Mem.wf s.mem = true →
    (∀ a b, i ≤ a → a < i + n → i ≤ b → b < i + n → r.pa a = r.pa b → a = b) → i ≤ j → j < i + n →
    (r.store v n i s).cell (r.pa j) =
      if s.kindAt (r.pa j) = .ram then BitVec.ofNat 8 (v / 256 ^ j) else s.cell (r.pa j)
  | 0, i, _, j, _, _, hlo, hhi => absurd hhi (by omega)
  | n + 1, i, s, j, hm, hinj, hlo, hhi => by
    have hm' := State.putByte_wf (r.pa i) (BitVec.ofNat 8 (v / 256 ^ i)) hm
    rw [Ref.store]
    rcases hlo.eq_or_lt with rfl | hlt
    · have hrest : ∀ a, i + 1 ≤ a → a < i + 1 + n → r.pa i ≠ r.pa a := fun a ha ha' he => by
        have := hinj i a le_rfl (by omega) (by omega) (by omega) he
        omega
      rw [Ref.cell_store_of_ne r v n (i + 1) hm' hrest]
      simp [State.cell_putByte hm]
    · have hne : r.pa j ≠ r.pa i := fun he => by
        have := hinj j i hlo hhi le_rfl (by omega) he
        omega
      rw [Ref.cell_store r v n (i + 1) hm' (fun a b ha ha' hb hb' =>
        hinj a b (by omega) (by omega) (by omega) (by omega)) hlt (by omega), State.cell_putByte hm]
      simp only [hne, false_and, if_false]
      rfl

/-! ## The data breakpoints recorded -/

theorem getLsbD_four_bits : ∀ a b c d : Bool,
    let m : BitVec 4 := BitVec.ofBool d ++ BitVec.ofBool c ++ BitVec.ofBool b ++ BitVec.ofBool a
    m.getLsbD 0 = a ∧ m.getLsbD 1 = b ∧ m.getLsbD 2 = c ∧ m.getLsbD 3 = d := by
  decide

theorem maskOf_getLsbD (f : Nat → Bool) {i : Nat} (hi : i < 4) : (maskOf f).getLsbD i = f i := by
  obtain ⟨h0, h1, h2, h3⟩ := getLsbD_four_bits (f 0) (f 1) (f 2) (f 3)
  interval_cases i <;> assumption

/-- The bytes a breakpoint watches by its LEN, 0 for the reserved one (62_debug_superstate.md R833, D80). -/
def bpSize (len : BitVec 2) : Nat := [1, 2, 0, 4].getD len.toNat 0

theorem bpLength_eq (len : BitVec 2) : bpLength len = if bpSize len = 0 then none else some (bpSize len) := by
  revert len
  decide

/-- What the words of R833 and R835 ask of a breakpoint. -/
theorem dataMatch_eq (a c : Dword) (i : Nat) (lin : Dword) (n : Nat) (w : Bool) :
    dataMatch a c i lin n w =
      let kind := c.extractLsb' (16 + 4 * i) 2
      let size := bpSize (c.extractLsb' (18 + 4 * i) 2)
      let start := a.toNat - a.toNat % size
      decide (size ≠ 0 ∧ (kind = 3 ∨ (kind = 1 ∧ w = true)) ∧ start < lin.toNat + n ∧ lin.toNat < start + size) := by
  dsimp only [dataMatch]
  rw [bpLength_eq]
  generalize bpSize (c.extractLsb' (18 + 4 * i) 2) = size
  have hstart : a.toNat / size * size = a.toNat - a.toNat % size := by
    have := Nat.div_add_mod' a.toNat size
    omega
  by_cases hsize : size = 0
  · simp [hsize]
  · rw [Bool.eq_iff_iff]
    simp [hsize, hstart, and_assoc, or_comm]

theorem DebugRegs.addr_eq (d : DebugRegs) {i : Nat} (hi : i < 4) :
    d.addr i = [d.dr0, d.dr1, d.dr2, d.dr3].getD i 0 := by
  interval_cases i <;> rfl

theorem State.watch_hits (s : State) (lin : Dword) (n : Nat) (w : Bool) {i : Nat} (hi : i < 4) :
    (s.watch lin n w).pend.hits.getLsbD i =
      (s.pend.hits.getLsbD i || dataMatch (s.dregs.addr i) s.dregs.dr7 i lin n w) := by
  rw [State.watch, BitVec.getLsbD_or, maskOf_getLsbD _ hi]

theorem Ref.pend_seen {s : State} (h : s.pg = false) (r : Ref) : (r.seen s).pend = (s.watch r.lin r.n false).pend := by
  rw [r.seen_unpaged h]
  rfl

theorem Ref.pend_stored {s : State} (h : s.pg = false) (r : Ref) (v : Nat) :
    (r.stored v s).pend = (s.watch r.lin r.n true).pend := by
  rw [r.stored_unpaged h, r.store_frame v r.n 0 s]
  rfl

/-- A read and a write record the same breakpoints but for those that watch writes only. -/
theorem Ref.pend_access {s : State} (h : s.pg = false) (r : Ref) (v : Nat) (w : Bool) :
    (if w then (r.stored v s).pend else (r.seen s).pend) = (s.watch r.lin r.n w).pend := by
  cases w
  · exact r.pend_seen h
  · exact r.pend_stored h v

/-- Settles O11: with paging off a read is its bytes' load and a write its bytes' stores, neither of which touches the
debug record that the breakpoints matched are then added to. -/
theorem accessUnpaged : Obligations.AccessUnpaged := by
  intro s r v hpg hm hinj
  have hstored := Accessed.stored r v s
  have hstore := r.store_frame v r.n 0 s
  refine ⟨?_, fun hholds => ?_, fun i hi => ?_, ?_, fun q hq => ?_, fun i hi => ?_, fun q hq => ?_, hstored.regs,
    hstored.eflags, hstored.segs, ?_, ?_, fun w => ?_⟩
  · rw [r.seen_unpaged hpg]
    exact ⟨_, _, _, rfl⟩
  · have hall : ∀ pa ∈ r.addresses, s.holds pa = true := by simpa [Ref.addresses] using hholds
    rw [r.seen_unpaged hpg, State.noteReads_holds (s := s.watch r.lin r.n false) hall]
    exact ⟨_, rfl⟩
  · rw [r.value_unpaged hpg, r.byte_load s r.n 0 hi, Nat.zero_add]
  · rw [r.value_unpaged hpg]
    exact r.load_lt s r.n 0
  · exact State.phys_holds (by simpa [State.holds] using hq)
  · rw [r.stored_unpaged hpg]
    exact r.cell_store v r.n 0 hm (fun a b _ ha _ hb => hinj a b (by omega) (by omega)) (Nat.zero_le i) (by omega)
  · rw [r.stored_unpaged hpg]
    exact r.cell_store_of_ne v r.n 0 hm fun j _ hj => hq j (by omega)
  · rw [r.stored_unpaged hpg, State.watch_tlb, hstore]
  · rw [r.stored_unpaged hpg, State.watch_free, hstore]
  · dsimp only
    rw [r.pend_access hpg v w]
    refine ⟨rfl, rfl, fun i hi => ?_⟩
    rw [State.watch_hits _ _ _ _ hi, dataMatch_eq, DebugRegs.addr_eq _ hi]
    rfl

end Sys2Proof.Machine
end

section
namespace Sys2Proof.Machine

/-! # Descriptors with paging off -/

/-! ## The processor's own accesses -/

theorem Ref.flat_addresses (lin : Dword) {n : Nat} (hn : n ≤ 4096) : (Ref.flat lin n).addresses = bytesFrom lin n :=
  List.map_congr_left fun _ hi => Ref.flat_pa lin hn (List.mem_range.1 hi)

theorem linRead_unpaged {s : State} (h : s.pg = false) (lin : Dword) {n : Nat} (hn : n ≤ 4096) :
    linRead lin n s = .ok ((Ref.flat lin n).load s n 0) (s.bus lin n) := by
  rw [linRead, op_bind_ok (probe_unpaged h _ _ _ _), op_bind_ok (touchRef_run _ _ _), Ref.touched_unpaged h, loadRef,
    Ref.flat_addresses lin hn]
  rfl

theorem linWrite_unpaged {s : State} (h : s.pg = false) (lin : Dword) (n v : Nat) :
    linWrite lin n v s = .ok () ((Ref.flat lin n).store v n 0 s) := by
  rw [linWrite, op_bind_ok (probe_unpaged h _ _ _ _), sysWrite, op_bind_ok (touchRef_run _ _ _),
    Ref.touched_unpaged h, op_modify]
  rfl

/-! ## Doublewords and their bytes -/

theorem toNat_append_byte {n : Nat} (x : BitVec n) (b : Byte) : (x ++ b).toNat = b.toNat + 256 * x.toNat := by
  rw [BitVec.toNat_append, ← Nat.shiftLeft_add_eq_or_of_lt b.isLt, Nat.shiftLeft_eq]
  omega

theorem toNat_four_bytes (a b c d : Byte) :
    (d ++ c ++ b ++ a : Dword).toNat = a.toNat + 256 * (b.toNat + 256 * (c.toNat + 256 * d.toNat)) := by
  refine (toNat_append_byte (d ++ c ++ b) a).trans ?_
  rw [toNat_append_byte, toNat_append_byte]

/-- Four bytes of memory loaded are the doubleword there (20_memory.md R102). -/
theorem Ref.flat_load_dword (s : State) (lin : Dword) :
    BitVec.ofNat 32 ((Ref.flat lin 4).load s 4 0) = s.phys32 lin := by
  refine BitVec.eq_of_toNat_eq ?_
  have hpa (i : Nat) (hi : i < 4) : (Ref.flat lin 4).pa i = lin + BitVec.ofNat 32 i := Ref.flat_pa lin (by omega) hi
  have hlt : (Ref.flat lin 4).load s 4 0 < 2 ^ 32 := (Ref.flat lin 4).load_lt s 4 0
  rw [BitVec.toNat_ofNat, Nat.mod_eq_of_lt hlt, State.phys32, toNat_four_bytes]
  simp [Ref.load, hpa]

/-- The bytes of a doubleword that is written, in order. -/
theorem byte_of_dword (a b c d : Byte) {j : Nat} (hj : j < 4) :
    BitVec.ofNat 8 ((d ++ c ++ b ++ a : Dword).toNat / 256 ^ j) = [a, b, c, d].getD j 0 := by
  rw [toNat_four_bytes]
  refine BitVec.eq_of_toNat_eq ?_
  have := a.isLt
  have := b.isLt
  have := c.isLt
  have := d.isLt
  rw [BitVec.toNat_ofNat]
  interval_cases j <;> simp only [List.getD_cons_zero, List.getD_cons_succ] <;> omega

/-! ## Where a descriptor is -/

theorem selOffset_eq (sel : BitVec 16) : selOffset sel = 8 * (sel >>> 3).toNat := by
  have := sel.isLt
  rw [selOffset, BitVec.extractLsb'_toNat, BitVec.toNat_ushiftRight, Nat.shiftRight_eq_div_pow]
  omega

theorem State.bus_holds {s : State} {lin : Dword} {n : Nat}
    (h : ∀ i, i < n → s.holds (lin + BitVec.ofNat 32 i) = true) : s.bus lin n = s :=
  State.noteReads_holds fun _ hpa => by
    obtain ⟨i, hi, rfl⟩ := List.mem_map.1 hpa
    exact h i (List.mem_range.1 hi)

theorem descFetch_absent {s : State} {sel : BitVec 16} (h : s.descAddr sel = none) : descFetch sel s = .ok none s := by
  rw [descFetch, op_get_bind, h]
  rfl

/-- The two doublewords are read one after the other. -/
theorem descFetch_unpaged {s : State} {sel : BitVec 16} {lin : Dword} (hpg : s.pg = false)
    (h : s.descAddr sel = some lin) :
    let t := s.bus lin 4
    descFetch sel s = .ok (some ⟨s.phys32 lin, t.phys32 (lin + 4), lin⟩) (t.bus (lin + 4) 4) := by
  intro t
  have hbus : t.pg = false := hpg
  rw [descFetch, op_get_bind, h]
  dsimp only
  rw [op_bind_ok (linRead_unpaged hpg lin (by decide)), op_bind_ok (linRead_unpaged hbus (lin + 4) (by decide)),
    op_pure, Ref.flat_load_dword, Ref.flat_load_dword]

/-! ## The accessed bit -/

/-- The doubleword at an address written back with bit 8 set. -/
def State.markAccessed (s : State) (a : Dword) : State :=
  (Ref.flat a 4).store (s.phys32 a ||| 0x100).toNat 4 0 s

theorem phys32_or_accessed (s : State) (a : Dword) :
    s.phys32 a ||| 0x100 = s.phys (a + 3) ++ s.phys (a + 2) ++ (s.phys (a + 1) ||| 1) ++ s.phys a := by
  have hbit : (0x100 : Dword) = 0#8 ++ 0#8 ++ 1#8 ++ 0#8 := rfl
  rw [hbit, State.phys32, BitVec.or_append, BitVec.or_append, BitVec.or_append]
  simp only [BitVec.or_zero]
  rfl

theorem setAccessed_unpaged {s : State} (h : s.pg = false) (d : Desc)
    (hmem : ∀ i, i < 4 → s.holds (d.lin + 4 + BitVec.ofNat 32 i) = true) :
    setAccessed d s = .ok () (s.markAccessed (d.lin + 4)) := by
  have hones : (0xFFFFFFFF : Dword) = BitVec.allOnes 32 := rfl
  rw [setAccessed, descUpdate, op_bind_ok (linRead_unpaged h (d.lin + 4) (by decide)), State.bus_holds hmem,
    linWrite_unpaged h, Ref.flat_load_dword, hones, BitVec.and_allOnes]
  rfl

theorem State.cell_markAccessed {s : State} (hm : Mem.wf s.mem = true) {a : Dword}
    (hmem : ∀ i, i < 4 → s.holds (a + BitVec.ofNat 32 i) = true) (q : Dword) :
    (s.markAccessed a).cell q = if q = a + 1 ∧ s.kindAt q = .ram then s.cell q ||| 1 else s.cell q := by
  have hpa (i : Nat) (hi : i < 4) : (Ref.flat a 4).pa i = a + BitVec.ofNat 32 i := Ref.flat_pa a (by omega) hi
  by_cases hq : ∃ j, j < 4 ∧ q = a + BitVec.ofNat 32 j
  · obtain ⟨j, hj, rfl⟩ := hq
    have hcell := (Ref.flat a 4).cell_store (s.phys32 a ||| 0x100).toNat 4 0 hm (fun x y _ hx _ hy he => by
      rw [hpa x (by omega), hpa y (by omega)] at he
      bv_omega) (Nat.zero_le j) (by omega : j < 0 + 4)
    rw [hpa j hj, phys32_or_accessed, byte_of_dword _ _ _ _ hj] at hcell
    rw [State.markAccessed, phys32_or_accessed, hcell]
    have hphys := State.phys_holds (hmem j hj)
    interval_cases j <;> simp_all
  · have hne : q ≠ a + 1 := fun he => hq ⟨1, by decide, he⟩
    rw [if_neg fun h => hne h.1]
    exact (Ref.flat a 4).cell_store_of_ne _ 4 0 hm fun j _ hj he => hq ⟨j, by omega, he.trans (hpa j (by omega))⟩

theorem Accessed.markAccessed (s : State) (a : Dword) : Accessed s (s.markAccessed a) := .store _ _ 4 0 s

theorem State.markAccessed_pend (s : State) (a : Dword) : (s.markAccessed a).pend = s.pend := by
  rw [State.markAccessed, Ref.store_frame]

theorem State.holds_markAccessed (s : State) (a q : Dword) : (s.markAccessed a).holds q = s.holds q := by
  simp only [State.holds, State.kindAt, (Accessed.markAccessed s a).cfg]

theorem State.phys32_markAccessed {s : State} (hm : Mem.wf s.mem = true) {a : Dword}
    (hmem : ∀ i, i < 4 → s.holds (a + BitVec.ofNat 32 i) = true) :
    (s.markAccessed a).phys32 a = if s.kindAt (a + 1) = .ram then s.phys32 a ||| 0x100 else s.phys32 a := by
  have hphys (j : Nat) (hj : j < 4) : (s.markAccessed a).phys (a + BitVec.ofNat 32 j) =
      if j = 1 ∧ s.kindAt (a + 1) = .ram then s.phys (a + 1) ||| 1 else s.phys (a + BitVec.ofNat 32 j) := by
    have hholds : (s.markAccessed a).holds (a + BitVec.ofNat 32 j) = true := by
      rw [State.holds_markAccessed, hmem j hj]
    have hold := State.phys_holds (hmem j hj)
    rw [State.phys_holds hholds, State.cell_markAccessed hm hmem, ← hold]
    interval_cases j <;> simp
  have h0 : (s.markAccessed a).phys a = s.phys a := by simpa using hphys 0 (by decide)
  have h1 : (s.markAccessed a).phys (a + 1) =
      if s.kindAt (a + 1) = .ram then s.phys (a + 1) ||| 1 else s.phys (a + 1) := by simpa using hphys 1 (by decide)
  have h2 : (s.markAccessed a).phys (a + 2) = s.phys (a + 2) := by simpa using hphys 2 (by decide)
  have h3 : (s.markAccessed a).phys (a + 3) = s.phys (a + 3) := by simpa using hphys 3 (by decide)
  rw [phys32_or_accessed, State.phys32, State.phys32, h0, h1, h2, h3]
  split <;> rfl

/-- Settles O50: with paging off the accesses of a descriptor are plain reads of memory, and the one store behind the
accessed bit writes back all bytes but one. -/
theorem descriptorFetch : Obligations.DescriptorFetch := by
  intro s sel d hpg index base limit at_ t
  refine ⟨?_, fun hmem => ?_, fun hm hmem => ?_⟩
  · have haddr : s.descAddr sel =
        if (sel.getLsbD 2 = true ∧ s.ldtr.null = true) ∨ limit < 8 * index + 7 then none else some at_ := by
      simp only [State.descAddr, selTI, selOffset_eq, Bool.or_eq_true, Bool.and_eq_true, decide_eq_true_eq]
      rfl
    split
    · exact descFetch_absent (haddr.trans (if_pos ‹_›))
    · exact descFetch_unpaged hpg (haddr.trans (if_neg ‹_›))
  · have hlow : t = s := State.bus_holds fun i hi => hmem i (by omega)
    rw [hlow]
    refine State.bus_holds fun i hi => ?_
    have := hmem (4 + i) (by omega)
    rwa [BitVec.ofNat_add, ← BitVec.add_assoc] at this
  · have hnext : d.lin + 4 + 1 = d.lin + 5 := BitVec.add_assoc _ _ _
    have hframe := Accessed.markAccessed s (d.lin + 4)
    refine ⟨_, setAccessed_unpaged hpg d hmem, ?_, fun q hq => ?_, hframe.regs, hframe.eflags, hframe.segs, hframe.cpl,
      s.markAccessed_pend _⟩
    · rw [State.phys32_markAccessed hm hmem, hnext]
    · rw [State.cell_markAccessed hm hmem, hnext, if_neg fun h => hq h.1]

end Sys2Proof.Machine
end

section
namespace Sys2Proof.Machine
variable {s u v : State} {k : Sreg} {sel : BitVec 16} {level : BitVec 2} {d : Desc}

/-! # Loads of segment registers -/

/-! ## Outside protected mode, and of a null selector -/

theorem loadSeg_real (h : s.pe = false) : loadSeg k sel s = .ok () (s.setSeg k ((s.segs.get k).loadReal sel)) := by
  simp [loadSeg, h]

theorem loadSeg_v86 (hpe : s.pe = true) (hvm : s.vm = true) :
    loadSeg k sel s = .ok () (s.setSeg k (SegReg.ofV86 sel)) := by
  simp [loadSeg, hpe, hvm]

theorem loadSeg_prot (h : s.prot = true) :
    loadSeg k sel s = if k = .ss then loadStackProt sel s else loadDataProt k sel s := by
  obtain ⟨hpe, hvm⟩ : s.pe = true ∧ s.vm = false := by simpa [State.prot] using h
  simp [loadSeg, hpe, hvm]

theorem loadSeg_null (h : s.prot = true) (hnull : isNull sel = true) :
    loadSeg k sel s = if k = .ss then .error (.exc ⟨13, some 0⟩) s
      else .ok () (s.setSeg k ((s.segs.get k).loadNull sel)) := by
  simp [loadSeg_prot h, loadStackProt, loadDataProt, hnull]

/-! ## The tests of a descriptor -/

/-- SS takes a writable data segment of exactly the level; the other registers take what can be read, code that conforms
at any level and everything else at or outside CPL and RPL (21_segmentation.md R170, R172). -/
abbrev Desc.mayLoad (d : Desc) (k : Sreg) (level : BitVec 2) (sel : BitVec 16) : Prop :=
  if k = .ss then rpl sel = level ∧ d.isWritable = true ∧ d.dpl = level
  else d.isReadable = true ∧
    (d.isConforming = true ∨ (level.toNat ≤ d.dpl.toNat ∧ (rpl sel).toNat ≤ d.dpl.toNat))

/-- The tests a load of a register makes. -/
def checkSeg (k : Sreg) (level : BitVec 2) (sel : BitVec 16) : Op Desc :=
  if k = .ss then checkStack level sel (raiseGP (selCode sel)) else checkData level sel (raiseGP (selCode sel))

theorem loadSeg_checked (h : s.prot = true) (hnull : isNull sel = false) :
    loadSeg k sel s =
      (do let d ← checkSeg k s.cpl sel; setAccessed d; modify fun t : State => t.setSeg k (d.toReg sel)) s := by
  rw [loadSeg_prot h]
  by_cases hk : k = .ss
  · simp only [hk, if_true, loadStackProt, op_get_bind, hnull, Bool.false_eq_true, if_false, checkSeg]
  · simp only [hk, if_false, loadDataProt, op_get_bind, hnull, Bool.false_eq_true, checkSeg]

theorem lt_maxLevel_iff (a b : BitVec 2) (n : Nat) : n < (maxLevel a b).toNat ↔ ¬ (a.toNat ≤ n ∧ b.toNat ≤ n) := by
  unfold maxLevel
  split <;> omega

theorem checkSeg_none (h : descFetch sel s = .ok none u) :
    checkSeg k level sel s = .error (.exc ⟨13, some (selCode sel)⟩) u := by
  have hbad : descOr sel (raiseGP (selCode sel)) s = .error (.exc ⟨13, some (selCode sel)⟩) u := by
    rw [descOr_none h, raiseGP_run]
  rw [checkSeg, op_ite, checkStack, op_bind_error hbad, checkData, op_bind_error hbad, ite_self]

/-- Kind and privilege come before presence. -/
theorem checkSeg_some (h : descFetch sel s = .ok (some d) u) :
    checkSeg k level sel s =
      if d.mayLoad k level sel then
        if d.p = true then .ok d u else .error (.exc ⟨if k = .ss then 12 else 11, some (selCode sel)⟩) u
      else .error (.exc ⟨13, some (selCode sel)⟩) u := by
  unfold checkSeg Desc.mayLoad
  by_cases hk : k = .ss
  · simp only [hk, if_true, checkStack, op_bind_ok (descOr_some h), op_ite, raiseGP_run, raiseSS_run, op_pure, ite_and]
    cases d.isWritable
    · simp
    · cases d.p <;> simp
  · simp only [hk, if_false, checkData, op_bind_ok (descOr_some h), op_ite, raiseGP_run, raiseNP_run, op_pure,
      lt_maxLevel_iff]
    cases d.isReadable
    · simp
    · by_cases hlevel : level.toNat ≤ d.dpl.toNat ∧ (rpl sel).toNat ≤ d.dpl.toNat <;>
        cases d.isConforming <;> cases d.p <;> simp [hlevel]

/-- Settles O51: outside protected mode nothing is tested; in it the null selector comes first, then the tests of
`checkSeg` in the order of `checkSeg_some`, then the accessed bit. -/
theorem segmentLoad : Obligations.SegmentLoad := by
  intro s k sel _ old code
  refine ⟨loadSeg_real, loadSeg_v86, loadSeg_null, fun u hprot hnull hfetch => ?_, ?_⟩
  · rw [loadSeg_checked hprot hnull, op_bind_error (checkSeg_none hfetch)]
    rfl
  · intro d u hprot hnull hfetch allowed
    have hcheck := checkSeg_some (k := k) (level := s.cpl) hfetch
    rw [loadSeg_checked hprot hnull]
    refine ⟨fun hno => ?_, fun hmay hp => ?_, fun v hmay hp hset => ?_⟩
    · rw [if_neg hno] at hcheck
      exact op_bind_error hcheck
    · rw [if_pos hmay, if_neg (by simp [hp])] at hcheck
      exact op_bind_error hcheck
    · rw [if_pos hmay, if_pos hp] at hcheck
      rw [op_bind_ok hcheck, op_bind_ok hset, op_modify]

end Sys2Proof.Machine
end

section
namespace Sys2Proof.Machine
variable {s t u v : State} {sel : BitVec 16} {d : Desc} {rm : RM} {p : Place}

/-! # LDTR and TR -/

/-! ## What the loads answer -/

theorem loadLdtr_null (h : isNull sel = true) : loadLdtr sel s = .ok () { s with ldtr := s.ldtr.loadNull sel } := by
  simp [loadLdtr, h]

theorem loadTr_null (h : isNull sel = true) : loadTr sel s = .error (.exc ⟨13, some 0⟩) s := by
  simp [loadTr, h]

theorem loadLdtr_local (h : isNull sel = false) (hti : selTI sel = true) :
    loadLdtr sel s = .error (.exc ⟨13, some (selCode sel)⟩) s := by
  simp [loadLdtr, h, hti]

theorem loadTr_local (h : isNull sel = false) (hti : selTI sel = true) :
    loadTr sel s = .error (.exc ⟨13, some (selCode sel)⟩) s := by
  simp [loadTr, h, hti]

theorem Desc.isLdt_iff (d : Desc) : d.isLdt = true ↔ d.type = 2 := beq_iff_eq

theorem Desc.isTssAvail_iff (d : Desc) : d.isTssAvail = true ↔ d.type = 1 ∨ d.type = 9 := by
  rw [Desc.isTssAvail, Bool.or_eq_true, beq_iff_eq, beq_iff_eq]
  rfl

/-- A descriptor of the GDT is tested for its type and then for its presence (21_segmentation.md R174). -/
theorem loadLdtr_some (h : isNull sel = false) (hti : selTI sel = false) (hfetch : descFetch sel s = .ok (some d) u) :
    loadLdtr sel s =
      if d.type = 2 then
        if d.p = true then .ok () { u with ldtr := d.toReg sel } else .error (.exc ⟨11, some (selCode sel)⟩) u
      else .error (.exc ⟨13, some (selCode sel)⟩) u := by
  simp only [loadLdtr, h, hti, Bool.false_eq_true, if_false, op_bind_ok (descOr_some hfetch), op_ite, raiseGP_run,
    raiseNP_run, op_modify, ← d.isLdt_iff]
  cases d.isLdt
  · rfl
  · cases d.p <;> rfl

theorem loadTr_some (h : isNull sel = false) (hti : selTI sel = false) (hfetch : descFetch sel s = .ok (some d) u) :
    loadTr sel s =
      if d.type = 1 ∨ d.type = 9 then
        if d.p = true then (do setBusy d; modify fun t : State => { t with tr := d.toBusyReg sel }) u
        else .error (.exc ⟨11, some (selCode sel)⟩) u
      else .error (.exc ⟨13, some (selCode sel)⟩) u := by
  simp only [loadTr, h, hti, Bool.false_eq_true, if_false, op_bind_ok (descOr_some hfetch), op_ite, raiseGP_run,
    raiseNP_run, ← d.isTssAvail_iff]
  cases d.isTssAvail
  · rfl
  · cases d.p <;> rfl

/-! ## The instructions -/

section
variable (hlock : s.pfx.lock = false)
include hlock

/-- A meaning that begins with the test of the mode is #UD outside protected mode (30_encoding.md R300). -/
theorem run_unprotected {x : Unit → Op Unit} (h : s.prot = false) :
    run false (requireProtected >>= x) s = faults s 6 none :=
  run_faults (lock_free hlock) (by decide) (op_bind_error (requireProtected_ud h))

theorem run_protected {x : Unit → Op Unit} (h : s.prot = true) (hx : x () s = .ok () t) :
    run false (requireProtected >>= x) s = completes s t :=
  run_ok (lock_free hlock) ((op_bind_ok (requireProtected_ok h)).trans hx)

theorem systemSegments_unprotected (h : s.prot = false) (rm : RM) :
    ∀ i, i ∈ [Instr.sldt rm, .str rm, .lldt rm, .ltr rm] → exec i s = faults s 6 none := by
  intro i hi
  simp only [List.mem_cons, List.not_mem_nil, or_false] at hi
  rcases hi with rfl | rfl | rfl | rfl <;> exact run_unprotected hlock h

/-- LLDT and LTR: the operand's selector is loaded at level 0. -/
theorem run_systemLoad {load : BitVec 16 → Op Unit} (h : s.prot = true) (hcpl : s.cpl = 0)
    (hop : s.operand .w rm false p sel t) (hload : load sel t = .ok () u) :
    run false (do requireProtected; requireCpl0; let sel ← readRM .w rm; load sel) s = completes s u := by
  obtain ⟨t', hplace, rfl, rfl⟩ := hop
  have hlevel : s.level = 0 := by simp [State.level, hcpl]
  refine run_protected hlock h ?_
  rw [op_bind_ok (requireCpl0_ok hlevel), op_bind_ok (readRM_ok hplace)]
  exact hload

end

/-- Settles O54: outside protected mode no operand is looked at; in it a load is `loadLdtr` or `loadTr`, whose tests go
from the selector to the descriptor's type and its presence. -/
theorem systemSegments : Obligations.SystemSegments := by
  intro s t u v rm p sel d hlock
  refine ⟨fun h => systemSegments_unprotected hlock h rm, fun h hplace => ?_, fun h hcpl hop => ?_, ?_, ?_, ?_⟩
  · exact ⟨run_protected hlock h (writeRM_ok hplace), run_protected hlock h (writeRM_ok hplace)⟩
  · exact ⟨run_systemLoad hlock h hcpl hop, run_systemLoad hlock h hcpl hop⟩
  · exact fun hnull => ⟨loadTr_null hnull, _, loadLdtr_null hnull, rfl, rfl, rfl⟩
  · exact fun hnull hti => ⟨loadLdtr_local hnull hti, loadTr_local hnull hti⟩
  · intro hnull hti hfetch
    have hldt := loadLdtr_some hnull hti hfetch
    have htr := loadTr_some hnull hti hfetch
    refine ⟨fun htype => ?_, fun htype hp => ?_, fun htype hp => ?_, fun h1 h9 => ?_, fun htype hp => ?_,
      fun htype hp hbusy => ?_⟩
    · rw [hldt, if_neg htype]; rfl
    · rw [hldt, if_pos htype, if_neg (by simp [hp])]; rfl
    · rw [hldt, if_pos htype, if_pos hp]
    · rw [htr, if_neg (not_or.2 ⟨h1, h9⟩)]; rfl
    · rw [htr, if_pos htype, if_neg (by simp [hp])]; rfl
    · rw [htr, if_pos htype, if_pos hp, op_bind_ok hbusy, op_modify]

end Sys2Proof.Machine
end

section
namespace Sys2Proof.Machine
variable {s t : State} {sel : BitVec 16} {off : Dword}

/-! # Far transfers outside protected mode -/

/-! ## What an access leaves as it was -/

theorem Accessed.pe (h : Accessed s t) : t.pe = s.pe := by unfold State.pe; rw [h.cr0]
theorem Accessed.prot (h : Accessed s t) : t.prot = s.prot := by unfold State.prot State.vm; rw [h.pe, h.eflags]
theorem Accessed.user (h : Accessed s t) : t.user = s.user := by unfold State.user; rw [h.cpl]
theorem Accessed.sp (h : Accessed s t) : t.sp = s.sp := by unfold State.sp; rw [h.segs, h.regs]
theorem Accessed.os32 (h : Accessed s t) : t.os32 = s.os32 := by unfold State.os32; rw [h.segs, h.pfx]
theorem Accessed.ow (h : Accessed s t) : t.ow = s.ow := by unfold State.ow; rw [h.os32]
theorem Accessed.realCs (h : Accessed s t) (sel : BitVec 16) : t.realCs sel = s.realCs sel := by
  unfold State.realCs
  rw [h.pe, h.segs]

/-! ## The transfers themselves -/

/-- CS loaded and the offset jumped to (21_segmentation.md R152, R153). -/
def State.enterReal (s : State) (sel : BitVec 16) (off : Dword) : State := (s.setSeg .cs (s.realCs sel)).jump off

theorem farJmp_real (h : s.prot = false) (hoff : off.toNat ≤ s.segs.cs.limit.toNat) :
    farJmp sel off s = .ok .done (s.enterReal sel off) := by
  simp only [farJmp, op_get_bind, h, Bool.not_false, if_true]
  rw [op_bind_ok (nearCheck_ok hoff), op_bind_ok (commitReal_run h), op_pure, State.enterReal]

theorem farJmp_gp (h : s.prot = false) (hoff : s.segs.cs.limit.toNat < off.toNat) :
    farJmp sel off s = .error (.exc ⟨13, some 0⟩) s := by
  simp only [farJmp, op_get_bind, h, Bool.not_false, if_true]
  exact op_bind_error (nearCheck_gp hoff)

theorem farCall_gp (h : s.prot = false) (hoff : s.segs.cs.limit.toNat < off.toNat) :
    farCall sel off s = .error (.exc ⟨13, some 0⟩) s := by
  simp only [farCall, op_get_bind, h, Bool.not_false, if_true]
  exact op_bind_error (nearCheck_gp hoff)

/-- The frame of a call, its selector item first: nothing but what accesses touch. -/
theorem accessed_frame {l : List (Ref × Nat)} {sp : Dword} {n : Nat} {c : BitVec 16} {rest : List (Nat × Nat)}
    (hpush : preparePushes s.segs.ss c s.user s.sp ((s.csItem n).1 :: rest) (s.csItem n).2 = .ok (l, sp) t) :
    Accessed s (storedAll l t) :=
  (Accessed.itemOf s n _).trans ((preparePushes_ok hpush).accessed.trans (.storedAll l t))

/-- The frame is CS and the next EIP; the selector item may draw a free value first. -/
theorem farCall_real {l : List (Ref × Nat)} {sp : Dword} (h : s.prot = false)
    (hoff : off.toNat ≤ s.segs.cs.limit.toNat)
    (hpush : preparePushes s.segs.ss 0 s.user s.sp [(s.csItem s.ow.bytes).1, item s.ow.bytes s.nextEip]
      (s.csItem s.ow.bytes).2 = .ok (l, sp) t) :
    farCall sel off s = .ok .done (((storedAll l t).setSp sp).enterReal sel off) := by
  have hitem : Accessed s (s.csItem s.ow.bytes).2 := .itemOf s _ _
  have hprot : ((storedAll l t).setSp sp).prot = false := (accessed_frame hpush).prot.trans h
  rw [← hitem.segs, ← hitem.user, ← hitem.sp] at hpush
  simp only [farCall, op_get_bind, h, Bool.not_false, if_true]
  rw [op_bind_ok (nearCheck_ok hoff), op_bind_ok (selItem_run _ _ s), ← State.csItem, op_bind_ok (pushItems_ok hpush),
    op_bind_ok (commitReal_run hprot), op_pure, State.enterReal]

theorem farRet_gp {ip cs : Nat} {k : Dword} (h : s.prot = false)
    (hread : stackReads s.sp s.ow.bytes [0, s.ow.bytes] s = .ok [ip, cs] t)
    (hoff : t.segs.cs.limit.toNat < (BitVec.ofNat 32 ip).toNat) : farRet k s = .error (.exc ⟨13, some 0⟩) t := by
  simp only [farRet, op_get_bind]
  rw [op_bind_ok hread]
  simp only [h, Bool.not_false, if_true]
  exact op_bind_error (nearCheck_gp hoff)

theorem farRet_real {ip cs : Nat} {k : Dword} (h : s.prot = false)
    (hread : stackReads s.sp s.ow.bytes [0, s.ow.bytes] s = .ok [ip, cs] t)
    (hoff : (BitVec.ofNat 32 ip).toNat ≤ t.segs.cs.limit.toNat) :
    farRet k s = .ok () ((t.setSp (spAdd s.segs.ss.attr.db s.sp (BitVec.ofNat 32 (2 * s.ow.bytes) + k))).enterReal
      (BitVec.ofNat 16 cs) (BitVec.ofNat 32 ip)) := by
  have hprot : t.prot = false := (Keeps.stackReads _ _ _ _ _ _ hread).prot.trans h
  simp only [farRet, op_get_bind]
  rw [op_bind_ok hread]
  simp only [h, Bool.not_false, if_true, List.getD_cons_zero, List.getD_cons_succ]
  rw [op_bind_ok (nearCheck_ok hoff), op_modify_bind]
  exact commitReal_run hprot

/-! ## The instructions -/

theorem undone_gp (s t : State) (c : BitVec 16) : s.undone t ⟨13, some c⟩ = s.rollback t := by simp [State.undone]

section
variable (hlock : s.pfx.lock = false)
include hlock

theorem runEnd_done {x : Op End} (h : x s = .ok .done t) : runEnd false x s = completes s t :=
  runEnd_ok (lock_free hlock) h

theorem runEnd_gp {x : Op End} {c : BitVec 16} (h : x s = .error (.exc ⟨13, some c⟩) t) :
    runEnd false x s = deliver (faultEvent ⟨13, some c⟩ s.eip) (s.rollback t) := by
  rw [runEnd_exc (lock_free hlock) h, undone_gp]

theorem run_gp {x : Op Unit} {c : BitVec 16} (h : x s = .error (.exc ⟨13, some c⟩) t) :
    run false x s = deliver (faultEvent ⟨13, some c⟩ s.eip) (s.rollback t) := by
  rw [run_exc (lock_free hlock) h, undone_gp]

end

/-- CS as an item of the operand size. -/
theorem csItem_operandSize (s : State) : s.csItem s.ow.bytes =
    ((s.ow.bytes, if s.os32 then ((Config.undefDword s.free).extractLsb' 16 16 ++ s.segs.cs.sel : BitVec 32).toNat
      else s.segs.cs.sel.toNat), if s.os32 then s.drew else s) := by
  cases h : s.os32 <;> simp [State.csItem, State.itemOf, State.ow, h, Width.ofSize, Width.bytes]

/-- Settles O39: the pointer is read, its offset tested against the CS limit, the frame pushed or released, and CS
loaded; nothing before the load changes what CS gets. -/
theorem farTransferReal : Obligations.FarTransferReal := by
  refine ⟨fun f s t sel off hlock hprot => ?_, fun s t1 t2 off sel m r x y => ⟨rfl, farPointer_reg, farPointer_mem⟩⟩
  intro n limit refused enters
  have henters (u : State) (sel : BitVec 16) (off : Dword) (h : u.realCs sel = s.realCs sel) :
      enters u sel off = u.enterReal sel off := by rw [State.enterReal, h]
  have hreal {u : State} (h : Accessed s u) : u.prot = false ∧ u.segs.cs.limit.toNat = limit :=
    ⟨h.prot.trans hprot, by rw [h.segs]⟩
  refine ⟨fun hptr hoff => ?_, fun hptr hoff => ⟨?_, ?_⟩, fun ip cs t k hread => ?_⟩
  · obtain ⟨ht, hlimit⟩ := hreal (Keeps.farPointer s f s _ t hptr)
    rw [← hlimit] at hoff
    exact ⟨runEnd_gp hlock ((op_bind_ok hptr).trans (farJmp_gp ht hoff)),
      runEnd_gp hlock ((op_bind_ok hptr).trans (farCall_gp ht hoff))⟩
  · have hkeep := Keeps.farPointer s f s _ t hptr
    obtain ⟨ht, hlimit⟩ := hreal hkeep
    rw [← hlimit] at hoff
    rw [henters t sel off (hkeep.realCs sel)]
    exact runEnd_done hlock ((op_bind_ok hptr).trans (farJmp_real ht hoff))
  · intro l sp t' t1 cs hpush
    have hkeep := Keeps.farPointer s f s _ t hptr
    obtain ⟨ht, hlimit⟩ := hreal hkeep
    rw [← hlimit] at hoff
    have hitem : t.csItem t.ow.bytes = ((n, cs), t1) := by
      rw [csItem_operandSize, hkeep.ow, hkeep.os32, hkeep.segs]
    have hframe : preparePushes t.segs.ss 0 t.user t.sp [(t.csItem t.ow.bytes).1, item t.ow.bytes t.nextEip]
        (t.csItem t.ow.bytes).2 = .ok (l, sp) t' := by
      rw [hitem, hkeep.segs, hkeep.user, hkeep.sp, hkeep.ow, hkeep.nextEip]
      exact hpush
    have hstored := hkeep.trans (accessed_frame hframe)
    rw [henters ((storedAll l t').setSp sp) sel off (hstored.realCs sel)]
    exact runEnd_done hlock ((op_bind_ok hptr).trans (farCall_real ht hoff hframe))
  · have hkeep := Keeps.stackReads _ _ _ _ _ _ hread
    obtain ⟨-, hlimit⟩ := hreal hkeep
    rw [← hlimit]
    split
    · rw [henters (t.setSp _) _ _ (hkeep.realCs _)]
      cases k <;> exact run_ok (lock_free hlock) (farRet_real hprot hread ‹_›)
    · exact run_gp hlock (farRet_gp hprot hread (Nat.lt_of_not_le ‹_›))

end Sys2Proof.Machine
end

section
namespace Sys2Proof.Machine

/-! # Decoding the first bytes of an instruction -/

/-- What a parser answers does not depend on the bytes behind those it takes. -/
def TakesFirst {α : Type} (p : Parse α) : Prop :=
  ∀ l more a rest, p l = some (a, rest) → p (l ++ more) = some (a, rest ++ more)

namespace TakesFirst
variable {α β : Type} (z : Sizes)

/-! ## Building parsers -/

@[simp] theorem pure (a : α) : TakesFirst (Pure.pure a : Parse α) := fun l more b rest h => by
  cases h
  rfl

@[simp] theorem bind {p : Parse α} {f : α → Parse β} (hp : TakesFirst p) (hf : ∀ a, TakesFirst (f a)) :
    TakesFirst (p >>= f) := fun l more b rest h => by
  obtain ⟨⟨a, l'⟩, hpl, hfl⟩ := Option.bind_eq_some_iff.1 h
  exact Option.bind_eq_some_iff.2 ⟨(a, l' ++ more), hp l more a l' hpl, hf a l' more b rest hfl⟩

@[simp] theorem map {p : Parse α} (f : α → β) (hp : TakesFirst p) : TakesFirst (f <$> p) := by
  rw [map_eq_pure_bind]
  exact .bind hp fun _ => .pure _

@[simp] theorem ite {c : Prop} [Decidable c] {p q : Parse α} (hp : TakesFirst p) (hq : TakesFirst q) :
    TakesFirst (if c then p else q) := by split <;> assumption

/-! ## The parts of an instruction -/

@[simp] theorem byte : TakesFirst Parse.byte := fun l more b rest h => by
  cases l with
  | nil => cases h
  | cons b l => cases h; rfl

@[simp] theorem word : TakesFirst Parse.word := by simp [Parse.word]
@[simp] theorem dword : TakesFirst Parse.dword := by simp [Parse.dword]
@[simp] theorem imm (is32 : Bool) : TakesFirst (Parse.imm is32) := by simp [Parse.imm]
@[simp] theorem modrm : TakesFirst Parse.modrm := by simp [Parse.modrm]

@[simp] theorem disp16 (mod : BitVec 2) : TakesFirst (Parse.disp16 mod) := by
  unfold Parse.disp16
  split <;> simp

@[simp] theorem disp32 (mod : BitVec 2) : TakesFirst (Parse.disp32 mod) := by
  unfold Parse.disp32
  split <;> simp

@[simp] theorem sib (mod : BitVec 2) : TakesFirst (Parse.sib mod) :=
  .bind byte fun _ => .ite (by simp) (by simp)

@[simp] theorem rm (as32 : Bool) (m : ModRM) : TakesFirst (Parse.rm as32 m) :=
  .ite (.pure _) (.ite (.ite (by simp) (.ite (by simp) (by simp))) (.ite (by simp) (by simp)))

@[simp] theorem regRm : TakesFirst (Parse.regRm z) := by simp [Parse.regRm]

/-! ## The groups -/

@[simp] theorem aluForm (lo : Nat) : TakesFirst (Parse.aluForm z lo) := by
  unfold Parse.aluForm
  split <;> simp

@[simp] theorem grp1 (lo : Nat) : TakesFirst (Parse.grp1 z lo) :=
  .bind modrm fun _ => .bind (rm _ _) fun _ => by split <;> simp

@[simp] theorem grp2Imm (wide : Bool) : TakesFirst (Parse.grp2Imm z wide) :=
  .bind modrm fun _ => by simp

@[simp] theorem grp2 (wide : Bool) (c : ShiftCount) : TakesFirst (Parse.grp2 z wide c) := by simp [Parse.grp2]

@[simp] theorem grp3 (wide : Bool) : TakesFirst (Parse.grp3 z wide) :=
  .bind modrm fun _ => .bind (rm _ _) fun _ => by split <;> simp

@[simp] theorem grp4 : TakesFirst (Parse.grp4 z) := .bind byte fun _ => by
  dsimp only
  split <;> simp

@[simp] theorem grp5 : TakesFirst (Parse.grp5 z) := .bind byte fun _ =>
  .ite (.pure _) (.bind (rm _ _) fun _ => by split <;> simp)

@[simp] theorem slot0 (op : Byte) {k : RM → Parse Instr} (hk : ∀ rm, TakesFirst (k rm)) :
    TakesFirst (Parse.slot0 z op k) := .bind byte fun _ => .ite (.bind (rm _ _) hk) (.pure _)

@[simp] theorem grp6 : TakesFirst (Parse.grp6 z) := .bind byte fun _ => by
  dsimp only
  split <;> simp

@[simp] theorem grp7 : TakesFirst (Parse.grp7 z) := .bind byte fun _ => by
  dsimp only
  split <;> simp

@[simp] theorem grp8 : TakesFirst (Parse.grp8 z) := .bind byte fun _ =>
  .ite (.pure _) (.bind (rm _ _) fun _ => .bind byte fun _ => by split <;> simp)

@[simp] theorem special (k : BitVec 2 → BitVec 3 → Reg → Instr) : TakesFirst (Parse.special k) := by
  simp [Parse.special]

/-! ## The opcode maps -/

@[simp] theorem rowsAlu (hi lo : Nat) : TakesFirst (Parse.rowsAlu z hi lo) :=
  .ite (by simp) (.ite (by simp) (by split <;> simp))

@[simp] theorem row6 (lo : Nat) : TakesFirst (Parse.row6 z lo) := by
  unfold Parse.row6
  split <;> simp

@[simp] theorem row8 (lo : Nat) : TakesFirst (Parse.row8 z lo) := by
  unfold Parse.row8
  split <;> simp

@[simp] theorem row9 (lo : Nat) : TakesFirst (Parse.row9 z lo) := by
  unfold Parse.row9
  split <;> simp

@[simp] theorem rowA (lo : Nat) : TakesFirst (Parse.rowA z lo) := by
  unfold Parse.rowA
  split <;> simp

@[simp] theorem rowC (lo : Nat) : TakesFirst (Parse.rowC z lo) := by
  unfold Parse.rowC
  split <;> simp

@[simp] theorem rowD (lo : Nat) : TakesFirst (Parse.rowD z lo) := by
  unfold Parse.rowD
  split <;> simp

@[simp] theorem rowE (lo : Nat) : TakesFirst (Parse.rowE z lo) := by
  unfold Parse.rowE
  split <;> simp

@[simp] theorem rowF (lo : Nat) : TakesFirst (Parse.rowF z lo) := by
  unfold Parse.rowF
  split <;> simp

@[simp] theorem low0F (n : Nat) (b : Byte) : TakesFirst (Parse.low0F z n b) := by
  unfold Parse.low0F
  split <;> simp

@[simp] theorem rowA0F (lo : Nat) (b : Byte) : TakesFirst (Parse.rowA0F z lo b) := by
  unfold Parse.rowA0F
  split <;> simp

@[simp] theorem rowB0F (lo : Nat) (b : Byte) : TakesFirst (Parse.rowB0F z lo b) := by
  unfold Parse.rowB0F
  split <;> simp

@[simp] theorem twoByte : TakesFirst (Parse.twoByte z) := .bind byte fun _ => by
  dsimp only
  split <;> simp

theorem item : TakesFirst (Parse.item z) := .bind byte fun _ => by
  dsimp only
  split <;> simp

end TakesFirst

/-- Bytes that decode to an instruction and all belong to it: no fewer of them decode to one. -/
theorem decode_take_eq_none {z : Sizes} {l : List Byte} {i : Instr} (h : decode z l = some (i, [])) {m : Nat}
    (hm : m < l.length) : decode z (l.take m) = none := by
  cases hfew : decode z (l.take m) with
  | none => rfl
  | some x =>
    have hall := TakesFirst.item z _ (l.drop m) x.1 x.2 hfew
    rw [List.take_append_drop] at hall
    have hrest : x.2 ++ l.drop m = [] := by
      have := hall.symm.trans h
      simp_all
    have hdrop := (List.append_eq_nil_iff.1 hrest).2
    rw [List.drop_eq_nil_iff] at hdrop
    omega

end Sys2Proof.Machine
end

section
namespace Sys2Proof.Machine
variable {s t : State} {off pa lin : Dword} {i : Instr} {n : Nat}

/-! # Fetching an instruction -/

/-! ## One byte -/

theorem fetchPage_queued {c : Dword × Dword} (h : s.queue.find? (fun c => c.1 == lin) = some c) :
    fetchPage lin s = .ok c.2 s := by
  rw [fetchPage, op_get_bind, h]
  rfl

theorem fetchPage_unpaged (hq : s.queue = []) (hpg : s.pg = false) : fetchPage lin s = .ok lin s := by
  simp [fetchPage, hq, hpg]

/-- The limit of CS lets the byte's offset through (21_segmentation.md R181). -/
theorem fetchAddress_within (hnull : (s.prot && s.segs.cs.null) = false) (hoff : off.toNat ≤ s.segs.cs.limit.toNat) :
    fetchAddress off s = fetchPage (s.segs.cs.base + off) s := by
  simp only [fetchAddress, op_get_bind, op_ite, hnull, Bool.false_or, decide_eq_true_eq, if_neg (Nat.not_lt.2 hoff)]

theorem fetchByte_new (h : fetchAddress off s = .ok pa t) :
    fetchByte false off s = .ok (t.codeFetch pa).1 (t.codeFetch pa).2 := by
  rw [fetchByte, op_bind_ok h]
  rfl

theorem fetchByte_replaced {x : Host.Cell} (h : fetchAddress off s = .ok pa t)
    (hx : t.stale.find? (fun x => x.1 == pa.toNat) = some x) : fetchByte true off s = .ok x.2 t := by
  rw [fetchByte, op_bind_ok h, op_get_bind, if_pos rfl, hx]
  rfl

theorem fetchByte_kept (h : fetchAddress off s = .ok pa t) (hx : t.stale.find? (fun x => x.1 == pa.toNat) = none) :
    fetchByte true off s = .ok (t.codeFetch pa).1 (t.codeFetch pa).2 := by
  rw [fetchByte, op_bind_ok h, op_get_bind, if_pos rfl, hx]
  rfl

/-- With no cache in use a byte of RAM or ROM is read, and nothing changes. -/
theorem State.codeFetch_uncached (hc : s.caches = false) (h : s.holds pa = true) : s.codeFetch pa = (s.phys pa, s) := by
  have hbus : s.bus pa 1 = s := State.bus_holds fun i hi => by
    obtain rfl : i = 0 := by omega
    simpa using h
  simp [State.codeFetch, hc, hbus]

/-! ## One item -/

theorem decode_nil (z : Sizes) : decode z [] = none := rfl

/-- Bytes are fetched until they decode, and that is when the last of them is there. -/
theorem fetchItem_decodes {l : List Byte} (hdec : decode ⟨s.os32, s.as32⟩ l = some (i, []))
    (hbyte : ∀ (j : Nat) (hj : j < l.length), fetchByte false (off + BitVec.ofNat 32 j) s = .ok l[j] s) :
    ∀ k m, m < l.length → l.length ≤ m + k →
      fetchItem false k (l.take m) (off + BitVec.ofNat 32 m) s = .ok (i, l.length) s
  | 0, m, hm, hk => absurd hk (by omega)
  | k + 1, m, hm, hk => by
    have hnext : off + BitVec.ofNat 32 m + 1 = off + BitVec.ofNat 32 (m + 1) := by
      rw [BitVec.ofNat_add, BitVec.add_assoc]
      rfl
    rw [fetchItem, op_bind_ok (hbyte m hm), List.take_append_getElem, op_get_bind]
    rcases Nat.lt_or_ge (m + 1) l.length with hmore | hlast
    · rw [decode_take_eq_none hdec hmore]
      dsimp only
      rw [hnext]
      exact fetchItem_decodes hdec hbyte k (m + 1) hmore (by omega)
    · rw [List.take_of_length_le hlast, hdec]
      rfl

theorem fetchInstr_one {old : Bool} {k len : Nat} (hk : 0 < k) (hp : i.isPrefix = false)
    (h : fetchItem old maxLength [] off s = .ok (i, n) t) : fetchInstr old k off len s = .ok (i, len + n) t := by
  obtain ⟨k, rfl⟩ := Nat.exists_eq_succ_of_ne_zero hk.ne'
  rw [fetchInstr, op_bind_ok h]
  simp [hp]

theorem fetch_coherent (hs : s.stale = []) (hf : s.flushed = []) : fetch s = fetchInstr false (2 ^ 32) s.eip 0 s := by
  simp only [fetch, op_get_bind, hs, hf]
  rfl

/-- Behind a store one free value chooses between what the store replaced and what it left (20_memory.md R137). -/
theorem fetch_afterStore (h : s.stale ≠ [] ∨ s.flushed ≠ []) :
    let old := Config.staleFetch s.free
    fetch s = fetchInstr old (2 ^ 32) s.eip 0
      { s.drew with queue := if old = true ∧ s.flushed ≠ [] then s.flushed else s.queue } := by
  have hmust : (s.stale.isEmpty && s.flushed.isEmpty) = false := by
    rw [Bool.and_eq_false_iff, List.isEmpty_eq_false_iff, List.isEmpty_eq_false_iff]
    exact h
  simp only [fetch, op_get_bind, hmust, Bool.false_eq_true, if_false, fresh_bind, op_pure_bind, op_ite, op_modify_bind]
  cases Config.staleFetch s.free
  · simp only [Bool.false_eq_true, false_and, if_false]
    rfl
  · simp only [if_true, true_and, ne_eq, ite_not, List.isEmpty_iff]
    rfl

/-! ## An instruction in memory -/

theorem fetchByte_unpaged (hpg : s.pg = false) (hc : s.caches = false) (hq : s.queue = [])
    (hnull : (s.prot && s.segs.cs.null) = false) (hoff : off.toNat ≤ s.segs.cs.limit.toNat)
    (hmem : s.holds (s.segs.cs.base + off) = true) :
    fetchByte false off s = .ok (s.phys (s.segs.cs.base + off)) s := by
  rw [fetchByte_new ((fetchAddress_within hnull hoff).trans (fetchPage_unpaged hq hpg)),
    State.codeFetch_uncached hc hmem]

theorem fetch_decodes (hpg : s.pg = false) (hc : s.caches = false) (hstale : s.stale = []) (hq : s.queue = [])
    (hflushed : s.flushed = []) (hnull : (s.prot && s.segs.cs.null) = false) (hn : n ≤ maxLength)
    (hlimit : s.eip.toNat + n ≤ s.segs.cs.limit.toNat + 1) (hp : i.isPrefix = false)
    (hmem : ∀ j, j < n → s.holds (s.segs.cs.base + (s.eip + BitVec.ofNat 32 j)) = true)
    (hdec : decode ⟨s.os32, s.as32⟩
      ((List.range n).map fun j => s.phys (s.segs.cs.base + (s.eip + BitVec.ofNat 32 j))) = some (i, [])) :
    fetch s = .ok (i, n) s := by
  have hlen : ((List.range n).map fun j => s.phys (s.segs.cs.base + (s.eip + BitVec.ofNat 32 j))).length = n := by simp
  have hpos : 0 < n := Nat.pos_of_ne_zero fun h => by
    subst h
    exact nomatch (decode_nil _).symm.trans hdec
  have hitem := fetchItem_decodes hdec (off := s.eip) (fun j hj => by
    rw [hlen] at hj
    have hoff : (s.eip + BitVec.ofNat 32 j).toNat ≤ s.segs.cs.limit.toNat := by
      rw [BitVec.toNat_add, BitVec.toNat_ofNat]
      have := s.segs.cs.limit.isLt
      omega
    rw [fetchByte_unpaged hpg hc hq hnull hoff (hmem j hj)]
    simp) maxLength 0 (by omega) (by omega)
  rw [hlen, List.take_zero, BitVec.add_zero] at hitem
  rw [fetch_coherent hstale hflushed, fetchInstr_one (by decide) hp hitem, Nat.zero_add]

end Sys2Proof.Machine
end

section
namespace Sys2Proof.Machine
variable {s : State} {pa : Dword}

/-! # Stores into the queue and the cache -/

/-! ## The instruction cache -/

theorem icBit_ne_zero (pa : Dword) : icBit pa ≠ 0#4 := by
  have hall : ∀ k : BitVec 2, 1#4 <<< k.toNat ≠ 0#4 := by decide
  exact hall _

theorem ICache.hit_onStore (c : ICache) (pa : Dword) : (c.onStore pa).hit pa = false := by
  simp only [ICache.onStore]
  split
  · simp [ICache.hit, BitVec.and_assoc]
  · simp_all [ICache.hit]

theorem ICache.hit_onFetch (c : ICache) (pa w : Dword) : (c.onFetch pa w).hit pa = true := by
  have habsorb (kept : BitVec 4) : (kept ||| icBit pa) &&& icBit pa = icBit pa := by
    ext j hj
    cases h : (icBit pa)[j] <;> simp [h]
  simp [ICache.onFetch, ICache.hit, habsorb, icBit_ne_zero]

theorem ICache.byte_onFetch (c : ICache) (pa w : Dword) :
    (c.onFetch pa w).byte pa = (w >>> (8 * (pa.extractLsb' 0 2).toNat)).extractLsb' 0 8 := by
  simp [ICache.onFetch, ICache.byte]

/-- An address is its doubleword's and its place in it. -/
theorem aligned_add_place (pa : Dword) : (pa &&& 0xFFFFFFFC) + BitVec.ofNat 32 (pa.extractLsb' 0 2).toNat = pa := by
  have hplace : BitVec.ofNat 32 (pa.extractLsb' 0 2).toNat = pa &&& 3 := by
    refine BitVec.eq_of_toNat_eq ?_
    have hmask : pa.toNat &&& 3 = pa.toNat % 4 := Nat.and_two_pow_sub_one_eq_mod pa.toNat 2
    rw [BitVec.toNat_ofNat, BitVec.extractLsb'_toNat, BitVec.toNat_and]
    show _ = pa.toNat &&& 3
    rw [hmask, Nat.shiftRight_zero]
    omega
  have hapart : (pa &&& 0xFFFFFFFC) &&& (pa &&& 3) = 0#32 := by
    rw [BitVec.and_comm pa 3, ← BitVec.and_assoc, BitVec.and_assoc pa]
    simp
  rw [hplace, BitVec.add_eq_or_of_and_eq_zero _ _ hapart, ← BitVec.and_or_distrib_left]
  exact BitVec.and_allOnes

/-- The byte of an address in the aligned doubleword around it. -/
theorem phys32_aligned_byte (s : State) (pa : Dword) :
    (s.phys32 (pa &&& 0xFFFFFFFC) >>> (8 * (pa.extractLsb' 0 2).toNat)).extractLsb' 0 8 = s.phys pa := by
  have hpa := aligned_add_place pa
  have hk := (pa.extractLsb' 0 2).isLt
  generalize (pa.extractLsb' 0 2).toNat = k at *
  generalize pa &&& 0xFFFFFFFC = word at *
  have hbyte : (s.phys32 word >>> (8 * k)).extractLsb' 0 8 = BitVec.ofNat 8 ((s.phys32 word).toNat / 256 ^ k) := by
    refine BitVec.eq_of_toNat_eq ?_
    rw [BitVec.extractLsb'_toNat, BitVec.toNat_ushiftRight, BitVec.toNat_ofNat, Nat.shiftRight_zero,
      Nat.shiftRight_eq_div_pow, pow_mul]
    rfl
  rw [hbyte, State.phys32, byte_of_dword _ _ _ _ hk, ← hpa]
  interval_cases k <;> simp

/-! ## Stores -/

theorem State.recorded_iff (s : State) (pa : Dword) :
    s.recorded pa = true ↔ (∃ c ∈ s.queue, c.2 = pa) ∨ s.icache.hit pa = true := by
  simp [State.recorded, State.queued]

theorem noteStale_find {stale : List Host.Cell} {a : Nat} {old new : Byte} (hne : old ≠ new)
    (hnew : stale.find? (fun x => x.1 == a) = none) :
    (noteStale stale a old new).find? (fun x => x.1 == a) = some (a, old) := by
  have hany : stale.any (fun c => c.1 == a) = false := by
    simpa using hnew
  simp [noteStale, hne, hany]

theorem State.putByte_queue_iff (s : State) (pa : Dword) (v : Byte) : (s.putByte pa v).queue =
    if (∃ c ∈ s.queue, c.2 = pa) ∨ s.icache.hit pa = true then [] else s.queue := by
  simp only [State.putByte_queue, State.recorded_iff]

/-- A byte of RAM that a store changes first is on record as it was. -/
theorem State.putByte_stale_find {v : Byte} (hram : s.kindAt pa = .ram) (hne : s.cell pa ≠ v)
    (hnew : s.stale.find? (fun x => x.1 == pa.toNat) = none) :
    (s.putByte pa v).stale.find? (fun x => x.1 == pa.toNat) = some (pa.toNat, s.cell pa) := by
  rw [State.putByte, if_pos hram]
  exact noteStale_find hne hnew

/-- Stores of other bus masters do not look at the event lines. -/
theorem busStores_lines (lines : Lines) : ∀ (l : List (Dword × Byte)) (s : State),
    l.foldl State.busStore { s with lines := lines } = { l.foldl State.busStore s with lines := lines }
  | [], _ => rfl
  | c :: l, s => busStores_lines lines l (s.busStore c)

/-- Another bus master's store is a store of which no device is told. -/
theorem busStore_frame (s : State) (c : Dword × Byte) :
    let t := s.busStore c
    t = { s with mem := t.mem, stale := t.stale, queue := t.queue, flushed := t.flushed, icache := t.icache } := rfl

/-- What other bus masters stored comes first at a boundary, and only once. -/
theorem boundary_masters (s : State) : s.boundary = s.masters.boundary := by
  have hnone : s.masters.masters = s.masters := State.masters_none rfl
  rw [State.boundary, State.boundary, hnone]

theorem masters_cons {c : Dword × Byte} {l : List (Dword × Byte)} (h : s.lines.stores = c :: l) :
    s.masters = State.masters { s.busStore c with lines := { s.lines with stores := l } } := by
  simp only [State.masters, h, List.foldl_cons, busStores_lines]

/-! # What a code fetch gives -/

theorem State.codeFetch_miss (hc : s.caches = true) (hhit : s.icache.hit pa = false) :
    let word := pa &&& 0xFFFFFFFC
    s.codeFetch pa = (s.phys pa, { s.bus word 4 with icache := s.icache.onFetch pa (s.phys32 word) }) := by
  simp only [State.codeFetch, hc, hhit, Bool.not_true, Bool.false_eq_true, if_false]

theorem State.codeFetch_hit (hc : s.caches = true) (hhit : s.icache.hit pa = true) :
    s.codeFetch pa = (if s.holds pa then s.cell pa else s.icache.byte pa, s) := by
  simp only [State.codeFetch, hc, hhit, Bool.not_true, Bool.false_eq_true, if_false, if_true]

theorem State.codeFetch_cell (h : s.holds pa = true) : (s.codeFetch pa).1 = s.cell pa := by
  simp only [State.codeFetch, h, State.phys_holds h, if_true]
  split
  · rfl
  · split <;> rfl

theorem State.codeFetch_mem (s : State) (pa : Dword) : (s.codeFetch pa).2.mem = s.mem := by
  unfold State.codeFetch
  split
  · rfl
  · split <;> rfl

/-- With the cache in use the byte is in it behind the fetch, and comes from there the next time. -/
theorem State.codeFetch_again (hc : s.caches = true) :
    (s.codeFetch pa).2.icache.hit pa = true ∧ (s.codeFetch pa).2.codeFetch pa = s.codeFetch pa := by
  cases hhit : s.icache.hit pa with
  | true =>
    rw [State.codeFetch_hit hc hhit]
    exact ⟨hhit, State.codeFetch_hit hc hhit⟩
  | false =>
    have hmiss := State.codeFetch_miss hc hhit
    have hfilled : (s.codeFetch pa).2.icache.hit pa = true := by
      rw [hmiss]
      exact ICache.hit_onFetch _ _ _
    have hcaches : (s.codeFetch pa).2.caches = true := by
      rw [hmiss]
      exact hc
    refine ⟨hfilled, (State.codeFetch_hit hcaches hfilled).trans (Prod.ext ?_ rfl)⟩
    rw [hmiss]
    dsimp only
    rw [ICache.byte_onFetch, phys32_aligned_byte]
    cases h : s.holds pa with
    | true => exact (if_pos h).trans (State.phys_holds h).symm
    | false => exact if_neg (Bool.eq_false_iff.1 h)

/-- Settles O5: with paging and cache off the bytes at CS:EIP are read one by one, and no fewer of them decode
(`decode_take_eq_none`); a store's record and the cache's lines are looked up under the address they were written. -/
theorem fetchDecodesBytes : Obligations.FetchDecodesBytes := by
  refine ⟨fun s i n => fetch_decodes, fun s off pa hnull hoff hfind hc hmem => ?_, fun s pa v => ?_, fun s c hm => ?_,
    fun s => ⟨boundary_masters s, State.masters_none, fun c l => masters_cons⟩, fun s => fetch_afterStore,
    fun s t off pa h => ⟨fetchByte_new h, ?_⟩, fun s pa => ?_⟩
  · rw [fetchByte_new ((fetchAddress_within hnull hoff).trans (fetchPage_queued hfind)),
      State.codeFetch_uncached hc hmem]
  · exact State.putByte_queue_iff s pa v
  · refine ⟨busStore_frame s c, ?_, s.icache.hit_onStore c.1, ?_, fun q hq => ?_, fun hram hne hnew => ?_⟩
    · exact State.putByte_queue_iff s c.1 c.2
    · exact (State.cell_putByte hm c.1 c.1 c.2).trans (by simp)
    · exact (State.cell_putByte hm c.1 q c.2).trans (if_neg fun h => hq h.1)
    · exact State.putByte_stale_find hram hne hnew
  · split
    · exact fetchByte_replaced h ‹_›
    · exact fetchByte_kept h ‹_›
  · have hread := CodeRead.codeFetch s pa
    exact ⟨State.codeFetch_cell, State.codeFetch_again, State.codeFetch_mem s pa, hread.accessed.regs,
      hread.accessed.cfg⟩

end Sys2Proof.Machine
end

section
namespace Sys2Proof.Machine
variable {s t : State} {a p : Dword}

/-! # Page translation -/

/-! ## Walking the tables -/

/-- A walk translates where both entries are present and their combined attributes allow the access, and otherwise
raises #PF (22_paging.md R210, R211, R220). -/
theorem probeWalk_run (s : State) (la fa : Dword) (w u : Bool) :
    let pdeAddr : Dword := s.cr3.extractLsb' 12 20 ++ la.extractLsb' 22 10 ++ 0#2
    let pde := s.phys32 pdeAddr
    let pteAddr : Dword := pde.extractLsb' 12 20 ++ la.extractLsb' 12 10 ++ 0#2
    let pte := s.phys32 pteAddr
    let present := bit pde 0 && bit pte 0
    let read := s.noteReads (s.walkReads la)
    probeWalk la fa w u s =
      if (present && pageAllows (bit pde 2 && bit pte 2) (bit pde 1 && bit pte 1) w u) = true then
        .ok ⟨la.extractLsb' 12 20, pte.extractLsb' 12 20,
          some (pdeAddr, pteAddr, bit pde 2 && bit pte 2, bit pde 1 && bit pte 1)⟩ read
      else .error (.exc ⟨14, some (pfCode s w present)⟩) { read with cr2 := fa } := by
  intro pdeAddr pde pteAddr pte present read
  have hwalk : s.walk la w u =
      if !bit pde 0 then .notPresent else if !bit pte 0 then .notPresent
      else if pageAllows (bit pde 2 && bit pte 2) (bit pde 1 && bit pte 1) w u then
        .ok pdeAddr pteAddr (pte.extractLsb' 12 20) (bit pde 2 && bit pte 2) (bit pde 1 && bit pte 1)
      else .protection := rfl
  simp only [probeWalk, hwalk, present]
  cases bit pde 0 with
  | false => rfl
  | true => cases bit pte 0 with
    | false => rfl
    | true => cases pageAllows (bit pde 2 && bit pte 2) (bit pde 1 && bit pte 1) w u <;> rfl

section
variable {la fa : Dword} {w u : Bool}

theorem probePage_untranslated (hpg : s.pg = true) (h : s.tlb.ways (la.extractLsb' 12 20) = []) :
    probePage la fa w u s = probeWalk la fa w u s := by
  simp [probePage, hpg, h]

/-- An entry is used or dropped; used, it serves what it allows and, for a write, has served before (22_paging.md R228,
R230, R232). -/
theorem probePage_translated (hpg : s.pg = true) {k : BitVec 2} (h : s.tlb.ways (la.extractLsb' 12 20) = [k]) :
    let page := la.extractLsb' 12 20
    let e := s.tlb.entries[tlbIndex page k]
    probePage la fa w u s =
      if Config.tlbKeep s.free = true then
        if (pageAllows e.u e.w w u && (!w || e.d)) = true then .ok ⟨page, e.pa, none⟩ s.drew
        else probeWalk la fa w u s.drew
      else probeWalk la fa w u { s.drew with tlb := s.tlb.put page k { e with v := false } } := by
  simp only [probePage, op_get_bind, op_ite, hpg, Bool.not_true, Bool.false_eq_true, if_false, h, fresh_bind, op_pure,
    op_modify_bind, State.drew_tlb]

end

/-! ## Two pages -/

section
variable {lin : Dword} {n : Nat} {w u : Bool}

theorem probe_one (h : (lin + BitVec.ofNat 32 (n - 1)).extractLsb' 12 20 = lin.extractLsb' 12 20) :
    probe lin n w u s = (do let lo ← probePage lin lin w u; return (⟨lin, n, lo, none⟩ : Ref)) s := by
  rw [probe, if_pos h]

/-- The first page of an access that is translated, and the second, upper or lower by a free value. -/
theorem probe_two_order (hpg : s.pg = true)
    (hne : (lin + BitVec.ofNat 32 (n - 1)).extractLsb' 12 20 ≠ lin.extractLsb' 12 20) :
    let last := lin + BitVec.ofNat 32 (n - 1)
    let up := Config.upperPageFirst s.free
    let page := fun high : Bool =>
      if high then probePage last (last.extractLsb' 12 20 ++ 0#12) w u else probePage lin lin w u
    probe lin n w u s = (do
      let p ← page up
      let q ← page (!up)
      return (⟨lin, n, if up then q else p, some (if up then p else q)⟩ : Ref)) s.drew := by
  intro last up page
  rw [probe_two hpg hne]
  cases hup : Config.upperPageFirst s.free <;> simp only [up, page, hup] <;> rfl

end

/-! ## Setting bits of an entry -/

/-- A place of a table entry: an aligned doubleword of RAM. -/
structure State.RamEntry (s : State) (a : Dword) : Prop where
  aligned : a.extractLsb' 0 2 = 0
  ram : ∀ i, i < 4 → s.kindAt (a + BitVec.ofNat 32 i) = .ram

/-- Bytes of one aligned doubleword are named by the upper 30 bits of their addresses. -/
theorem extractLsb'_add_of_aligned (h : a.extractLsb' 0 2 = 0) {i : Nat} (hi : i < 4) :
    (a + BitVec.ofNat 32 i).extractLsb' 2 30 = a.extractLsb' 2 30 := by
  have hmod : a.toNat % 4 = 0 := by simpa [BitVec.extractLsb'_toNat] using congrArg BitVec.toNat h
  have := a.isLt
  refine BitVec.eq_of_toNat_eq ?_
  simp only [BitVec.extractLsb'_toNat, BitVec.toNat_add, BitVec.toNat_ofNat, Nat.shiftRight_eq_div_pow]
  omega

theorem aligned_ext (ha : a.extractLsb' 0 2 = 0) (hp : p.extractLsb' 0 2 = 0)
    (h : a.extractLsb' 2 30 = p.extractLsb' 2 30) : a = p := by
  have split (x : Dword) : (x.extractLsb' 2 30 ++ x.extractLsb' 0 2 : Dword) = x :=
    BitVec.extractLsb'_append_extractLsb' (w := 30) (len := 2)
  rw [← split a, ← split p, h, ha, hp]

theorem State.RamEntry.holds (h : s.RamEntry a) {i : Nat} (hi : i < 4) : s.holds (a + BitVec.ofNat 32 i) = true :=
  State.holds_ram (h.ram i hi)

theorem State.RamEntry.accessed (h : s.RamEntry a) (hacc : Accessed s t) : t.RamEntry a := by
  refine ⟨h.aligned, fun i hi => ?_⟩
  unfold State.kindAt
  rw [hacc.cfg]
  exact h.ram i hi

/-- A doubleword by its bytes (20_memory.md R102). -/
theorem State.phys32_eq {f : Nat → Byte} (h : ∀ i, i < 4 → s.phys (a + BitVec.ofNat 32 i) = f i) :
    s.phys32 a = f 3 ++ f 2 ++ f 1 ++ f 0 := by
  have h0 : s.phys a = f 0 := by simpa using h 0 (by decide)
  have h1 : s.phys (a + 1) = f 1 := h 1 (by decide)
  have h2 : s.phys (a + 2) = f 2 := h 2 (by decide)
  have h3 : s.phys (a + 3) = f 3 := h 3 (by decide)
  rw [State.phys32, h0, h1, h2, h3]

theorem State.phys32_congr (h : ∀ i, i < 4 → t.phys (a + BitVec.ofNat 32 i) = s.phys (a + BitVec.ofNat 32 i)) :
    t.phys32 a = s.phys32 a :=
  (State.phys32_eq (f := fun i => s.phys (a + BitVec.ofNat 32 i)) h).trans (State.phys32_eq fun _ _ => rfl).symm

theorem append_bytes (v : Dword) :
    v.extractLsb' (8 * 3) 8 ++ v.extractLsb' (8 * 2) 8 ++ v.extractLsb' (8 * 1) 8 ++ v.extractLsb' (8 * 0) 8 = v := by
  refine BitVec.eq_of_toNat_eq ?_
  have := v.isLt
  rw [toNat_four_bytes]
  simp only [BitVec.extractLsb'_toNat, Nat.shiftRight_eq_div_pow]
  omega

theorem byte_of_toNat (v : Dword) (i : Nat) : BitVec.ofNat 8 (v.toNat / 256 ^ i) = v.extractLsb' (8 * i) 8 := by
  refine BitVec.eq_of_toNat_eq ?_
  rw [BitVec.extractLsb'_toNat, BitVec.toNat_ofNat, Nat.shiftRight_eq_div_pow, pow_mul]
  rfl

theorem State.putPhys32_eq_store (s : State) (a v : Dword) :
    s.putPhys32 a v = (Ref.flat a 4).store v.toNat 4 0 s := by
  have h0 : (Ref.flat a 4).pa 0 = a := (Ref.flat_pa a (by decide) (by decide)).trans (BitVec.add_zero a)
  have hpa (i : Nat) (hi : i < 4) : (Ref.flat a 4).pa i = a + BitVec.ofNat 32 i := Ref.flat_pa a (by decide) hi
  simp only [Ref.store, byte_of_toNat, h0, hpa 1 (by decide), hpa 2 (by decide), hpa 3 (by decide)]
  rfl

theorem State.cell_putPhys32 (hm : Mem.wf s.mem = true) (h : s.RamEntry a) (v : Dword) {i : Nat} (hi : i < 4) :
    (s.putPhys32 a v).cell (a + BitVec.ofNat 32 i) = v.extractLsb' (8 * i) 8 := by
  have hpa (i : Nat) (hi : i < 4) : (Ref.flat a 4).pa i = a + BitVec.ofNat 32 i := Ref.flat_pa a (by decide) hi
  have hcell := (Ref.flat a 4).cell_store v.toNat 4 0 hm (fun x y _ hx _ hy he => by
    rw [hpa x (by omega), hpa y (by omega)] at he
    bv_omega) (Nat.zero_le i) (by omega : i < 0 + 4)
  rw [hpa i hi, if_pos (h.ram i hi), byte_of_toNat] at hcell
  rw [State.putPhys32_eq_store, hcell]

theorem State.cell_putPhys32_of_ne (hm : Mem.wf s.mem = true) (v : Dword) {q : Dword}
    (hq : ∀ i, i < 4 → q ≠ a + BitVec.ofNat 32 i) : (s.putPhys32 a v).cell q = s.cell q := by
  rw [State.putPhys32_eq_store]
  refine (Ref.flat a 4).cell_store_of_ne _ 4 0 hm fun i _ hi he => hq i (by omega) (he.trans ?_)
  exact Ref.flat_pa a (by decide) (by omega)

theorem or_eq_self {x bits : Dword} (h : x &&& bits = bits) : x ||| bits = x := by
  refine BitVec.eq_of_getLsbD_eq fun i _ => ?_
  have hi := congrArg (BitVec.getLsbD · i) h
  rw [BitVec.getLsbD_or]
  simp only [BitVec.getLsbD_and] at hi
  cases hx : x.getLsbD i <;> simp_all

/-- Setting bits of an entry in RAM is a store of the doubleword, or no store where they are set. -/
theorem State.orPhys32_ram (h : s.RamEntry a) (bits : Dword) :
    s.orPhys32 a bits = s ∧ s.phys32 a ||| bits = s.phys32 a ∨
    s.orPhys32 a bits = s.putPhys32 a (s.phys32 a ||| bits) := by
  have hbus : s.bus a 4 = s := State.bus_holds fun i hi => h.holds hi
  simp only [State.orPhys32, hbus]
  split
  · exact .inl ⟨rfl, or_eq_self ‹_›⟩
  · exact .inr rfl

theorem State.phys32_orPhys32 (hm : Mem.wf s.mem = true) (h : s.RamEntry a) (bits : Dword) :
    (s.orPhys32 a bits).phys32 a = s.phys32 a ||| bits := by
  rcases State.orPhys32_ram h bits with ⟨hsame, hset⟩ | hput
  · rw [hsame, hset]
  · have ht : (s.putPhys32 a (s.phys32 a ||| bits)).RamEntry a := h.accessed (.putPhys32 s a _)
    rw [hput, State.phys32_eq fun i hi => (State.phys_holds (ht.holds hi)).trans (State.cell_putPhys32 hm h _ hi),
      append_bytes]

/-- Setting bits of an entry leaves every byte outside it. -/
theorem State.cell_orPhys32_of_ne (hm : Mem.wf s.mem = true) (h : s.RamEntry a) (bits : Dword) {q : Dword}
    (hq : q.extractLsb' 2 30 ≠ a.extractLsb' 2 30) : (s.orPhys32 a bits).cell q = s.cell q := by
  rcases State.orPhys32_ram h bits with ⟨hsame, -⟩ | hput
  · rw [hsame]
  · rw [hput]
    exact State.cell_putPhys32_of_ne hm _ fun i hi e => hq (e ▸ extractLsb'_add_of_aligned h.aligned hi)

theorem State.phys32_orPhys32_of_ne (hm : Mem.wf s.mem = true) (h : s.RamEntry a) (hp : s.RamEntry p) (bits : Dword)
    (hne : p ≠ a) : (s.orPhys32 a bits).phys32 p = s.phys32 p := by
  have ht : (s.orPhys32 a bits).RamEntry p := hp.accessed (.orPhys32 s a bits)
  refine State.phys32_congr fun i hi => ?_
  rw [State.phys_holds (ht.holds hi), State.phys_holds (hp.holds hi)]
  exact State.cell_orPhys32_of_ne hm h bits fun e =>
    hne (aligned_ext hp.aligned h.aligned ((extractLsb'_add_of_aligned hp.aligned hi).symm.trans e))

/-- Setting bits of one entry, seen in any entry. -/
theorem State.bit_orPhys32 (hm : Mem.wf s.mem = true) (h : s.RamEntry a) (hp : s.RamEntry p) (bits : Dword) (n : Nat) :
    bit ((s.orPhys32 a bits).phys32 p) n = (bit (s.phys32 p) n || (decide (p = a) && bit bits n)) := by
  by_cases hpe : p = a
  · subst hpe
    rw [State.phys32_orPhys32 hm h]
    simp [bit]
  · rw [State.phys32_orPhys32_of_ne hm h hp bits hpe]
    simp [hpe]

/-- The bits a translation sets: the accessed bit, and the dirty bit of a write. -/
theorem bit_marks (dirty : Bool) (n : Nat) :
    bit (if dirty = true then 0x60 else 0x20) n = (decide (n = 5) || (dirty && decide (n = 6))) := by
  by_cases hn : n < 32
  · cases dirty <;> interval_cases n <;> rfl
  · have h5 : n ≠ 5 := by omega
    have h6 : n ≠ 6 := by omega
    refine (BitVec.getLsbD_of_ge _ n (Nat.not_lt.1 hn)).trans ?_
    simp [h5, h6]

theorem State.orPhys32_tlb (s : State) (a bits : Dword) : (s.orPhys32 a bits).tlb = s.tlb := by
  simp only [State.orPhys32, apply_ite State.tlb, State.putPhys32, State.putByte_tlb, State.bus, State.noteReads_tlb,
    ite_self]

/-! ## Making a translation -/

theorem touch_served (hpg : s.pg = true) (la pa : BitVec 20) (w : Bool) :
    touch ⟨la, pa, none⟩ w s = .ok () { s with tlb := { s.tlb with counter := s.tlb.counter + 1 } } := by
  simp only [touch, op_get_bind, op_ite, hpg, if_true]
  rfl

theorem Tlb.put_self (t : Tlb) (page : BitVec 20) (k : BitVec 2) (e : TlbEntry) :
    (t.put page k e).entries[tlbIndex page k] = e := by
  simp [Tlb.put]

/-- The two entries walked with the bits of a translation set. -/
def State.marked (s : State) (pdeAddr pteAddr : Dword) (pdeDirty write : Bool) : State :=
  (s.orPhys32 pdeAddr (if pdeDirty = true then 0x60 else 0x20)).orPhys32 pteAddr (if write = true then 0x60 else 0x20)

/-- The entry a translation puts into the TLB. -/
def State.filled (s : State) (la pa : BitVec 20) (pteAddr : Dword) (u w write : Bool) : TlbEntry :=
  { v := true, tag := la, pa := pa, d := write || bit (s.phys32 pteAddr) 6, u := u, w := w }

/-- Whether the directory entry becomes dirty, and the way taken, are free values. -/
theorem touch_walked (hpg : s.pg = true) (la pa : BitVec 20) (pdeAddr pteAddr : Dword) (u w write : Bool) :
    ∃ pdeDirty way, let m := s.drew.marked pdeAddr pteAddr pdeDirty write
      let tlb := m.tlb.put la way (m.filled la pa pteAddr u w write)
      touch ⟨la, pa, some (pdeAddr, pteAddr, u, w)⟩ write s =
        .ok () { m with tlb := { tlb with counter := tlb.counter + 1 } } := by
  simp only [touch, op_get_bind, op_ite, hpg, if_true]
  exact ⟨_, _, rfl⟩

theorem Accessed.marked (s : State) (pdeAddr pteAddr : Dword) (pdeDirty write : Bool) :
    Accessed s (s.marked pdeAddr pteAddr pdeDirty write) :=
  (Accessed.orPhys32 s pdeAddr _).trans (.orPhys32 _ pteAddr _)

theorem State.marked_tlb (s : State) (pdeAddr pteAddr : Dword) (pdeDirty write : Bool) :
    (s.marked pdeAddr pteAddr pdeDirty write).tlb = s.tlb := (State.orPhys32_tlb _ _ _).trans (State.orPhys32_tlb _ _ _)

section
variable {pdeAddr pteAddr : Dword} (hm : Mem.wf s.mem = true) (hd : s.RamEntry pdeAddr) (ht : s.RamEntry pteAddr)
  (pdeDirty write : Bool)
include hm hd ht

theorem State.bit_marked (hp : s.RamEntry p) (n : Nat) :
    bit ((s.marked pdeAddr pteAddr pdeDirty write).phys32 p) n =
      (bit (s.phys32 p) n || (decide (p = pdeAddr) && (decide (n = 5) || (pdeDirty && decide (n = 6)))) ||
        (decide (p = pteAddr) && (decide (n = 5) || (write && decide (n = 6))))) := by
  have hfirst := Accessed.orPhys32 s pdeAddr (if pdeDirty = true then 0x60 else 0x20)
  rw [State.marked, State.bit_orPhys32 ((Calm.orPhys32 s _ _).mem hm) (ht.accessed hfirst) (hp.accessed hfirst),
    State.bit_orPhys32 hm hd hp, bit_marks, bit_marks]

theorem State.cell_marked {q : Dword} (hqd : q.extractLsb' 2 30 ≠ pdeAddr.extractLsb' 2 30)
    (hqt : q.extractLsb' 2 30 ≠ pteAddr.extractLsb' 2 30) :
    (s.marked pdeAddr pteAddr pdeDirty write).cell q = s.cell q := by
  have hfirst := Accessed.orPhys32 s pdeAddr (if pdeDirty = true then 0x60 else 0x20)
  rw [State.marked, State.cell_orPhys32_of_ne ((Calm.orPhys32 s _ _).mem hm) (ht.accessed hfirst) _ hqt,
    State.cell_orPhys32_of_ne hm hd _ hqd]

end

/-- An entry in RAM reads as before when a free value is used. -/
theorem State.phys32_drew (h : s.RamEntry a) : s.drew.phys32 a = s.phys32 a := by
  refine State.phys32_congr fun i hi => ?_
  rw [State.phys_holds (h.holds hi)]
  exact State.phys_holds (s := s.drew) (h.holds hi)

/-- Settles O10: the walk is `probeWalk_run`, the use of an entry `probePage_translated`, two pages `probe_two_order`; a
translation made is `touch_walked`, whose marks `State.bit_marked` reads in either entry, also where both are one. -/
theorem pageTranslation : Obligations.PageTranslation := by
  refine ⟨⟨fun s la fa w u hpg => ⟨?_, probePage_untranslated hpg, fun k hk => probePage_translated hpg hk⟩,
    fun s la pa write hpg => touch_served hpg la pa write⟩, fun s k off n w hok => prepare_checked hok, ?_, ?_, ?_⟩
  · have hrun := probeWalk_run s la fa w u
    split
    · exact hrun.trans (if_pos ‹_›)
    · exact hrun.trans (if_neg ‹_›)
  · intro s lin n w u hpg last upper up page
    refine ⟨fun hone x p t => ?_, fun hne x p q t t' => ?_⟩
    · rw [probe_one hone]
      exact ⟨fun h => op_bind_error h, fun h => op_bind_ok h⟩
    · rw [probe_two_order hpg hne]
      refine ⟨fun h => op_bind_error h, fun h => ?_⟩
      rw [op_bind_ok h]
      exact ⟨fun h' => op_bind_error h', fun h' => op_bind_ok h'⟩
  · intro r i la
    unfold Ref.pa
    cases r.hi <;> rfl
  · intro s la pa pdeAddr pteAddr u w write hpg hm hpde hpte hram
    have hd : s.RamEntry pdeAddr := ⟨hpde, fun i hi => (hram i hi).1⟩
    have ht : s.RamEntry pteAddr := ⟨hpte, fun i hi => (hram i hi).2⟩
    have hd' := hd.accessed (.drew s)
    have ht' := ht.accessed (.drew s)
    obtain ⟨pdeDirty, way, htouch⟩ := touch_walked hpg la pa pdeAddr pteAddr u w write
    have hbit {p : Dword} (hp : s.RamEntry p) :=
      State.bit_marked (s := s.drew) hm hd' ht' pdeDirty write (hp.accessed (.drew s))
    have hcell {q : Dword} := State.cell_marked (s := s.drew) hm hd' ht' pdeDirty write (q := q)
    have hframe := (Accessed.drew s).trans (.marked s.drew pdeAddr pteAddr pdeDirty write)
    have htlb : _ = s.tlb := s.drew.marked_tlb pdeAddr pteAddr pdeDirty write
    generalize s.drew.marked pdeAddr pteAddr pdeDirty write = m at *
    refine ⟨_, htouch, ?_, ?_, ?_, fun _ => hcell, ?_, ⟨way, ?_⟩, ?_, hframe.regs, hframe.eflags, hframe.segs⟩
    · refine (hbit hd 5).trans ?_
      simp
    · refine (hbit ht 5).trans ?_
      simp
    · refine fun hw => (hbit ht 6).trans ?_
      simp [hw]
    · intro b h5 h6
      refine ⟨(hbit ht b).trans ?_, (hbit hd b).trans ?_⟩ <;> simp [h5, h6, State.phys32_drew, hd, ht]
    · have hself := Tlb.put_self m.tlb la way (m.filled la pa pteAddr u w write)
      dsimp only
      rw [hself]
      exact ⟨rfl, rfl, rfl, rfl, rfl, fun hw => by simp [State.filled, hw]⟩
    · dsimp only [Tlb.put]
      rw [htlb]

end Sys2Proof.Machine
end

section
namespace Sys2Proof.Machine
variable {α β : Type} {s t u : State}

/-! # Where the machine stops

No operation of the machine is refused but two, and the only fault is that of two TLB entries for one page. `Unrefused`
asks nothing of the state an operation begins in, where `Quiet` speaks of the invariant and lets a refusal pass. -/

/-! ## Operations that are never refused -/

/-- The operation ends in no refusal, from any state. -/
def Unrefused (x : Op α) : Prop := ∀ s r t, x s ≠ .error (.refuse r) t

/-- What stops as a whole stopped in its first part or in the rest. -/
theorem op_bind_eq_error {x : Op α} {f : α → Op β} {e : Stop} (h : (x >>= f) s = .error e t) :
    x s = .error e t ∨ ∃ a u, x s = .ok a u ∧ f a u = .error e t := by
  rw [op_bind] at h
  cases hx : x s with
  | ok a u =>
    rw [hx] at h
    exact .inr ⟨a, u, rfl, h⟩
  | error e' u =>
    rw [hx] at h
    cases h
    exact .inl rfl

namespace Unrefused

/-- An operation that always completes. -/
theorem of_ok {x : Op α} {f : State → α} {g : State → State} (h : ∀ s, x s = .ok (f s) (g s)) : Unrefused x :=
  fun s _ _ h' => nomatch (h s).symm.trans h'

theorem pure {a : α} : Unrefused (Pure.pure a : Op α) := .of_ok (op_pure a)

theorem get : Unrefused (MonadState.get : Op State) := .of_ok op_get

theorem update {f : State → State} : Unrefused (modify f : Op Unit) := .of_ok (op_modify f)

theorem raise {v : Byte} {c : Option (BitVec 16)} : Unrefused (Machine.raise v c : Op α) := fun _ _ _ => nofun

theorem fault {f : Fault} : Unrefused (throw (.fault f) : Op α) := fun _ _ _ => nofun

theorem bind {x : Op α} {f : α → Op β} (hx : Unrefused x) (hf : ∀ {a}, Unrefused (f a)) : Unrefused (x >>= f) :=
  fun s r t h => (op_bind_eq_error h).elim (hx s r t) fun ⟨_, u, _, hfu⟩ => hf u r t hfu

theorem ite {c : Prop} [Decidable c] {x y : Op α} (hx : Unrefused x) (hy : Unrefused y) :
    Unrefused (if c then x else y) := by
  split <;> assumption

/-- What may come first, and the rest. -/
theorem first {c : Prop} [Decidable c] {x : Op Unit} {k : Unit → Op β} (hx : Unrefused x) (hk : Unrefused (k ())) :
    Unrefused (if c then x >>= k else k ()) := .ite (.bind hx hk) hk

/-- Either of two, and the rest. -/
theorem either {c : Prop} [Decidable c] {x y : Op α} {f : α → Op β} (hx : Unrefused x) (hy : Unrefused y)
    (hf : ∀ {a}, Unrefused (f a)) : Unrefused (if c then x >>= f else y >>= f) := .ite (.bind hx hf) (.bind hy hf)

/-! ### Memory -/

theorem fresh : Unrefused Machine.fresh := .of_ok fresh_run

theorem probeWalk {la fa w u} : Unrefused (Machine.probeWalk la fa w u) := by
  intro s
  unfold Machine.probeWalk
  cases s.walk la w u <;> exact fun _ _ => nofun

theorem probePage {la fa w u} : Unrefused (Machine.probePage la fa w u) :=
  .bind .get <| .ite .pure <| by
    dsimp only
    split
    · exact .probeWalk
    · exact .bind .fresh <| .ite (.ite .pure .probeWalk) <| .bind .update .probeWalk
    · exact .fault

theorem probe {lin n w u} : Unrefused (Machine.probe lin n w u) :=
  .ite (.bind .probePage .pure) <| .bind .get <|
    .ite (.bind .probePage <| .bind .probePage .pure) <|
      .bind .fresh <| .ite (.bind .probePage <| .bind .probePage .pure) <| .bind .probePage <| .bind .probePage .pure

theorem touchRef {r w} : Unrefused (Machine.touchRef r w) := .of_ok (touchRef_run r w)

theorem loadRef {r} : Unrefused (Machine.loadRef r) := .of_ok fun _ => rfl

theorem readRef {r} : Unrefused (Machine.readRef r) := .of_ok (readRef_run r)

theorem writeRef {r v} : Unrefused (Machine.writeRef r v) := .of_ok (writeRef_run r v)

theorem linRead {lin n} : Unrefused (Machine.linRead lin n) := .bind .probe <| .bind .touchRef .loadRef

theorem sysWrite {r v} : Unrefused (Machine.sysWrite r v) := .bind .touchRef .update

theorem linWrite {lin n v} : Unrefused (Machine.linWrite lin n v) := .bind .probe .sysWrite

/-! ### Segments -/

theorem checkVia {r k c off n w} : Unrefused (Machine.checkVia r k c off n w) :=
  .bind .get <| @fun s => by
    cases r.check s.prot off.toNat n w with
    | ok => exact .pure
    | nullSelector => exact .raise
    | violation => exact .ite .raise .raise

theorem prepareVia {r k c off n w u} : Unrefused (Machine.prepareVia r k c off n w u) := .bind .checkVia .probe

theorem prepare {k off n w} : Unrefused (Machine.prepare k off n w) := .bind .get .prepareVia

theorem checkWhole {k off n w} : Unrefused (Machine.checkWhole k off n w) := .bind .get .checkVia

theorem readRefs {l} : Unrefused (Machine.readRefs l) := .of_ok (readRefs_run l)

theorem memRead {k off n} : Unrefused (Machine.memRead k off n) := .bind .prepare .readRef

theorem memWrite {k off n v} : Unrefused (Machine.memWrite k off n v) := .bind .prepare .writeRef

theorem descFetch {sel} : Unrefused (Machine.descFetch sel) :=
  .bind .get <| @fun s => by
    cases s.descAddr sel with
    | none => exact .pure
    | some lin => exact .bind .linRead <| .bind .linRead .pure

theorem descRead {lin} : Unrefused (Machine.descRead lin) := .bind .linRead .pure

theorem descOr {sel v c} : Unrefused (Machine.descOr sel (Machine.raise v c)) :=
  .bind .descFetch <| @fun d => by
    cases d with
    | none => exact .raise
    | some d => exact .pure

theorem descUpdate {d a b} : Unrefused (Machine.descUpdate d a b) := .bind .linRead .linWrite

theorem setAccessed {d} : Unrefused (Machine.setAccessed d) := .descUpdate

theorem checkData {level sel v c} : Unrefused (Machine.checkData level sel (Machine.raise v c)) :=
  .bind .descOr <| .ite .raise <| .ite .raise <| .ite .raise .pure

theorem checkStack {level sel v c} : Unrefused (Machine.checkStack level sel (Machine.raise v c)) :=
  .bind .descOr <| .ite .raise <| .ite .raise <| .ite .raise <| .ite .raise .pure

theorem loadDataProt {k sel} : Unrefused (Machine.loadDataProt k sel) :=
  .bind .get <| .ite .update <| .bind .checkData <| .bind .setAccessed .update

theorem loadStackProt {sel} : Unrefused (Machine.loadStackProt sel) :=
  .bind .get <| .ite .raise <| .bind .checkStack <| .bind .setAccessed .update

theorem loadSeg {k sel} : Unrefused (Machine.loadSeg k sel) :=
  .bind .get <| .ite .update <| .ite .update <| .ite .loadStackProt .loadDataProt

theorem loadLdtr {sel} : Unrefused (Machine.loadLdtr sel) :=
  .ite .update <| .ite .raise <| .bind .descOr <| .ite .raise <| .ite .raise .update

theorem loadTr {sel} : Unrefused (Machine.loadTr sel) :=
  .ite .raise <| .ite .raise <| .bind .descOr <| .ite .raise <| .ite .raise <| .bind .descUpdate .update

/-! ### The stack -/

theorem preparePushes {ss c u} : ∀ {items : List (Nat × Nat)} {sp}, Unrefused (Machine.preparePushes ss c u sp items)
  | [], _ => .pure
  | (_, _) :: _, _ => .bind .prepareVia <| .bind preparePushes .pure

theorem writeAll {l} : Unrefused (Machine.writeAll l) := .of_ok (writeAll_run l)

theorem pushItems {items} : Unrefused (Machine.pushItems items) :=
  .bind .get <| .bind .preparePushes <| .bind .writeAll .update

theorem stackRead {sp k n} : Unrefused (Machine.stackRead sp k n) := .bind .get .memRead

theorem prepareStack {sp n} : ∀ {ks : List Nat}, Unrefused (Machine.prepareStack sp n ks)
  | [] => .pure
  | _ :: _ => .bind .get <| .bind .prepare <| .bind prepareStack .pure

theorem stackReads {sp n ks} : Unrefused (Machine.stackReads sp n ks) := .bind .prepareStack .readRefs

theorem pop {n} : Unrefused (Machine.pop n) := .bind .get <| .bind .memRead <| .bind .update .pure

theorem selItem {n sel} : Unrefused (Machine.selItem n sel) := .ite (.bind .fresh .pure) .pure

/-! ### Transfers and tasks -/

theorem commitCS {sel d level off} : Unrefused (Machine.commitCS sel d level off) := .bind .setAccessed .update

theorem commitReal {sel off} : Unrefused (Machine.commitReal sel off) := .bind .loadSeg .update

theorem innerStack {level ex} : Unrefused (Machine.innerStack level ex) :=
  .bind .get <| .ite
    (.ite .raise <| .bind .linRead <| .bind .linRead .pure)
    (.ite .raise <| .bind .linRead <| .bind .linRead .pure)

theorem checkInner {level sel ex} : Unrefused (Machine.checkInner level sel ex) :=
  .ite .raise <| .bind .descOr <| .ite .raise <| .ite .raise .pure

theorem prepareSaves {base} : ∀ {l : List (Nat × Nat × Nat)}, Unrefused (Machine.prepareSaves base l)
  | [] => .pure
  | (_, _, _) :: _ => .bind .probe <| .bind prepareSaves .pure

theorem sysWriteAll : ∀ {l : List (Ref × Nat)}, Unrefused (Machine.sysWriteAll l)
  | [] => .pure
  | (_, _) :: _ => .bind .sysWrite sysWriteAll

theorem prepareReads {base} : ∀ {l : List (Nat × Nat)}, Unrefused (Machine.prepareReads base l)
  | [] => .pure
  | (_, _) :: _ => .bind .probe <| .bind prepareReads .pure

theorem readAll : ∀ {l : List Ref}, Unrefused (Machine.readAll l)
  | [] => .pure
  | _ :: _ => .bind .touchRef <| .bind .loadRef <| .bind readAll .pure

theorem prepareUpdate {wanted lin} : Unrefused (Machine.prepareUpdate wanted lin) := .ite (.bind .probe .pure) .pure

theorem makeUpdate {a b} : ∀ {r : Option Ref}, Unrefused (Machine.makeUpdate a b r)
  | none => .pure
  | some _ => .bind .touchRef <| .bind .loadRef .update

theorem committed {x : Op α} (hx : Unrefused x) : Unrefused (Machine.committed x) := by
  intro s r t h
  unfold Machine.committed at h
  split at h
  · cases h
  · exact hx s r t h

theorem taskLoadLdtr {sel ex} : Unrefused (Machine.taskLoadLdtr sel ex) :=
  .ite .pure <| .ite .raise <| .bind .descOr <| .ite .raise .update

theorem taskLoadCs {sel ex} : Unrefused (Machine.taskLoadCs sel ex) :=
  .ite .raise <| .bind .descOr <| .ite .raise <| .ite .raise <| .ite .raise <| .ite .raise <| .bind .setAccessed .update

theorem taskLoadSs {sel ex} : Unrefused (Machine.taskLoadSs sel ex) :=
  .bind .get <| .ite .raise <| .bind .descOr <| .ite .raise <| .ite .raise <| .ite .raise <| .bind .setAccessed .update

theorem taskLoadData {k sel ex} : Unrefused (Machine.taskLoadData k sel ex) :=
  .bind .get <| .ite .pure <| .bind .descOr <| .ite .raise <| .ite .raise <| .ite .raise <| .bind .setAccessed .update

theorem taskPhaseC {tsel i ex} : Unrefused (Machine.taskPhaseC tsel i ex) :=
  .bind .taskLoadLdtr <| .bind .get <| .ite
    (.bind .update <| .bind .get <| .ite .raise .pure)
    (.bind .taskLoadCs <| .bind .taskLoadSs <| .bind .taskLoadData <| .bind .taskLoadData <| .bind .taskLoadData <|
      .bind .taskLoadData <| .bind .get <| .ite .raise .pure)

theorem taskSwitch {tsel d reason e fl ex} : Unrefused (Machine.taskSwitch tsel d reason e fl ex) := by
  unfold Machine.taskSwitch
  dsimp only
  exact .first .raise <| .first .raise <| .first .raise <| .first .raise <| .bind .get <| .first .raise <|
    .bind .prepareSaves <| .bind .prepareReads <| .either .prepareSaves .pure <|
    .bind .prepareUpdate <| .bind .prepareUpdate <| .bind .makeUpdate <| .bind .sysWriteAll <| .bind .readAll <|
    .bind (.of_ok fun _ => rfl) <| .bind .sysWriteAll <| .bind .makeUpdate <| .bind .update <|
    .bind (.committed .taskPhaseC) <| .ite .update .pure

/-! ### Delivery -/

theorem realDeliver {e} : Unrefused (Machine.realDeliver e) :=
  .bind .get <| .ite .raise <| .bind .linRead <| .bind .pushItems <| .bind .update .commitReal

theorem frameItems {e s n} : Unrefused (Machine.frameItems e s n) := .bind .selItem .pure

theorem sameLevelDeliver {e sel d n off c} : Unrefused (Machine.sameLevelDeliver e sel d n off c) :=
  .bind .get <| .bind .frameItems <| .bind .preparePushes <| .first .raise <| .bind .setAccessed <| .bind .writeAll <|
    .bind .update <| .bind .update .update

theorem innerDeliver {e sel d n off c v} : Unrefused (Machine.innerDeliver e sel d n off c v) :=
  .bind .get <| .bind .innerStack <| .bind .checkInner <| .bind .selItem <| .bind .selItem <| .bind .selItem <|
    .bind .selItem <| .bind .selItem <| .bind .frameItems <| .bind .preparePushes <| .first .raise <|
    .bind .setAccessed <| .bind .setAccessed <| .bind .writeAll <| .bind .update <| .bind .update <| .bind .update <|
    .bind .update <| .ite .update .pure

theorem gateDeliver {e g} : Unrefused (Machine.gateDeliver e g) :=
  .bind .get <| .ite .raise <| .bind .descOr <| .ite .raise <| .ite .raise <| .ite .raise <|
    .ite (.ite .raise .innerDeliver) <| .ite .innerDeliver .sameLevelDeliver

theorem taskGateDeliver {e g} : Unrefused (Machine.taskGateDeliver e g) :=
  .bind .get <| .ite .raise <| .bind .descOr <| .ite .raise <| .bind .taskSwitch <| by
    cases e.code with
    | none => exact .pure
    | some c => exact .committed <| .bind .get <| .bind .preparePushes <| .bind .writeAll .update

theorem interrupt {e} : Unrefused (Machine.interrupt e) :=
  .bind .get <| .ite (.bind .realDeliver .pure) <| .ite .raise <| .bind .descRead <| .ite .raise <| .ite .raise <|
    .ite .raise <| .ite (.bind .taskGateDeliver .pure) (.bind .gateDeliver .pure)

theorem softInt {v} : Unrefused (Machine.softInt v) := .bind .get <| .bind .interrupt .pure

/-! ### Far transfers -/

theorem nearCheck {t} : Unrefused (Machine.nearCheck t) := .bind .get <| .ite .raise .pure

theorem memOperand : ∀ {rm : RM}, Unrefused (Machine.memOperand rm)
  | .reg _ => .raise
  | .mem _ => .bind .get .pure

theorem readParts {lo hi : Op Ref} (hl : Unrefused lo) (hh : Unrefused hi) : Unrefused (Machine.readParts lo hi) :=
  .bind hl <| .bind hh <| .bind .readRef <| .bind .readRef .pure

theorem farPointer {s} : ∀ {f : FarForm}, Unrefused (Machine.farPointer s f)
  | .ptr _ _ => .pure
  | .rmOp _ => .bind .memOperand <| .bind (.readParts .prepare .prepare) .pure

theorem directCodeCheck {sel d off} : Unrefused (Machine.directCodeCheck sel d off) :=
  .bind .get <| .ite .raise <| .ite .raise <| .ite .raise <| .ite .raise .pure

theorem callGateTarget {sel g isCall} : Unrefused (Machine.callGateTarget sel g isCall) :=
  .bind .get <| .ite .raise <| .ite .raise <| .ite .raise <| .bind .descOr <| .ite .raise <| .ite .raise <|
    .ite .raise <| .ite .raise .pure

theorem callSame {sel d off n} : Unrefused (Machine.callSame sel d off n) :=
  .bind .get <| .bind .selItem <| .bind .preparePushes <| .bind .setAccessed <| .bind .writeAll <| .bind .update .update

theorem callInner {g} : Unrefused (Machine.callInner g) :=
  .bind .get <| .bind .innerStack <| .bind .checkInner <| .bind .preparePushes <| .first .raise <| .bind .stackReads <|
    .bind .selItem <| .bind .selItem <| .bind .setAccessed <| .bind .setAccessed <| .bind .writeAll <|
    .bind .update <| .bind .update .update

theorem taskGateTransfer {sel g reason} : Unrefused (Machine.taskGateTransfer sel g reason) :=
  .bind .get <| .ite .raise <| .ite .raise <| .ite .raise <| .bind .descOr <| .ite .raise .taskSwitch

theorem tssTransfer {sel d reason} : Unrefused (Machine.tssTransfer sel d reason) :=
  .bind .get <| .ite .raise <| .ite .raise .taskSwitch

theorem farJmp {sel off} : Unrefused (Machine.farJmp sel off) :=
  .bind .get <| .ite (.bind .nearCheck <| .bind .commitReal .pure) <| .ite .raise <| .bind .descOr <|
    .ite (.bind .directCodeCheck <| .bind .commitCS .pure) <|
    .ite (.bind .callGateTarget <| .first .raise <| .bind .commitCS .pure) <|
    .ite (.bind .taskGateTransfer .pure) <| .ite (.bind .tssTransfer .pure) .raise

theorem farCall {sel off} : Unrefused (Machine.farCall sel off) :=
  .bind .get <| .ite (.bind .nearCheck <| .bind .selItem <| .bind .pushItems <| .bind .commitReal .pure) <|
    .ite .raise <| .bind .descOr <| .ite (.bind .directCodeCheck <| .bind .callSame .pure) <|
    .ite (.bind .callGateTarget <| .ite (.bind .callInner .pure) <| .first .raise <| .bind .callSame .pure) <|
    .ite (.bind .taskGateTransfer .pure) <| .ite (.bind .tssTransfer .pure) .raise

/-! ### Returns -/

theorem returnTarget {sel} : Unrefused (Machine.returnTarget sel) :=
  .bind .get <| .ite .raise <| .ite .raise <| .bind .descOr <| .ite .raise <| .ite .raise <| .ite .raise <|
    .ite .raise .pure

theorem checkOuter {level sel} : Unrefused (returnOuter.checkOuter level sel) :=
  .ite .raise <| .bind .descOr <| .ite .raise <| .ite .raise <| .ite .raise .pure

theorem returnOuter {sel d ip n base k} : Unrefused (Machine.returnOuter sel d ip n base k) :=
  .bind .get <| .bind .stackReads <| .ite .raise <| .bind .checkOuter <| .ite .raise <| .bind .commitCS <|
    .bind .setAccessed <| .bind .update .update

theorem farRet {k} : Unrefused (Machine.farRet k) :=
  .bind .get <| .bind .stackReads <| .ite (.bind .nearCheck <| .bind .update .commitReal) <| .bind .returnTarget <|
    .ite (.first .raise <| .bind .update .commitCS) .returnOuter

theorem requireIopl3 : Unrefused Machine.requireIopl3 := .bind .get <| .ite .raise .pure

theorem iretReal : Unrefused Machine.iretReal :=
  .bind .get <| .bind .stackReads <| .bind .nearCheck <| .bind .update <| .bind .commitReal .update

theorem iretToV86 {ip cs fl} : Unrefused (Machine.iretToV86 ip cs fl) :=
  .bind .get <| .bind .stackReads <| .first .raise .update

theorem iretProcedure : Unrefused Machine.iretProcedure :=
  .bind .get <| .bind .stackReads <| .ite .iretToV86 <| .bind .returnTarget <|
    .ite (.first .raise <| .bind .update <| .bind .commitCS .update) (.bind .returnOuter .update)

theorem iretTask : Unrefused Machine.iretTask :=
  .bind .get <| .first .raise <| .bind .linRead <| .ite .raise <| .bind .descOr <| .ite .raise .taskSwitch

theorem interruptReturn : Unrefused Machine.interruptReturn :=
  .bind .get <| .bind .requireIopl3 <| .ite (.bind .iretReal <| .bind .update .pure) <|
    .either .iretTask .iretProcedure <| .bind .update .pure

/-! ### Operands -/

theorem getReg {k r} : Unrefused (Machine.getReg k r) := .of_ok (getReg_run k r)

theorem setReg {k r v} : Unrefused (Machine.setReg k r v) := .of_ok (setReg_run k r v)

theorem setStatus {f} : Unrefused (Machine.setStatus f) := .of_ok (setStatus_run f)

theorem undefStatus : Unrefused Machine.undefStatus := .of_ok undefStatus_run

theorem setFlagBit {n b} : Unrefused (Machine.setFlagBit n b) := .of_ok (setFlagBit_run n b)

theorem locate {k} : ∀ {rm : RM} {w}, Unrefused (Machine.locate k rm w)
  | .reg _, _ => .pure
  | .mem _, _ => .bind .get <| .bind .prepare .pure

theorem readPlace {k p} : Unrefused (Machine.readPlace k p) := .of_ok (readPlace_run k p)

theorem writePlace {k p v} : Unrefused (Machine.writePlace k p v) := .of_ok (writePlace_run k p v)

theorem readRM {k rm} : Unrefused (Machine.readRM k rm) := .bind .locate .readPlace

theorem writeRM {k rm v} : Unrefused (Machine.writeRM k rm v) := .bind .locate .writePlace

theorem updateRM {k rm} {f : Val k → Op (Val k)} (hf : ∀ {a}, Unrefused (f a)) : Unrefused (Machine.updateRM k rm f) :=
  .bind .locate <| .bind .readPlace <| .bind hf .writePlace

/-! ### Arithmetic and logic -/

theorem aluUpdate {s} {op : (k : Width) → Val k → Val k → Op (Val k)} (h : ∀ {k a b}, Unrefused (op k a b)) :
    ∀ {f : AluForm}, Unrefused (Machine.aluUpdate s op f)
  | .rmReg _ _ _ | .rmImm8 _ _ | .rmImm8Alias _ _ | .rmImm _ _ | .rmSext _ _ => .updateRM h
  | .regRm _ _ _ => .bind .readRM <| .bind h .setReg
  | .alImm _ | .axImm _ => .bind h .setReg

theorem aluCompare {s} {op : (k : Width) → Val k → Val k → Op Unit} (h : ∀ {k a b}, Unrefused (op k a b)) :
    ∀ {f : AluForm}, Unrefused (Machine.aluCompare s op f)
  | .rmReg _ _ _ | .regRm _ _ _ | .rmImm8 _ _ | .rmImm8Alias _ _ | .rmImm _ _ | .rmSext _ _ => .bind .readRM h
  | .alImm _ | .axImm _ => h

theorem addOp {c k a b} : Unrefused (Machine.addOp c k a b) := .bind .setStatus .pure

theorem subOp {c k a b} : Unrefused (Machine.subOp c k a b) := .bind .setStatus .pure

theorem setLogic {n : Nat} {r : BitVec n} : Unrefused (Machine.setLogic r) := .of_ok (setLogic_run r)

theorem logicOp {f : {n : Nat} → BitVec n → BitVec n → BitVec n} {k a b} : Unrefused (Machine.logicOp f k a b) :=
  .bind .setLogic .pure

theorem incUpdate {s} {op : (k : Width) → Val k → Op (Val k)} (h : ∀ {k a}, Unrefused (op k a)) :
    ∀ {f : IncForm}, Unrefused (Machine.incUpdate s op f)
  | .reg _ | .rmOp _ _ => .updateRM h

theorem setPair {k hi lo} : Unrefused (Machine.setPair k hi lo) := .of_ok (setPair_run k hi lo)

theorem mulStatus {lost} : Unrefused (Machine.mulStatus lost) := .of_ok (mulStatus_run lost)

theorem imulTo {k r x y} : Unrefused (Machine.imulTo k r x y) := .bind .setReg .mulStatus

theorem divideError : Unrefused (Machine.divideError : Op α) := .bind .undefStatus <| .bind .setStatus .raise

theorem setQuotient {k q r} : Unrefused (Machine.setQuotient k q r) := .of_ok (setQuotient_run k q r)

theorem decimalAdjust {s f} : Unrefused (Machine.decimalAdjust s f) :=
  .bind .undefStatus <| .bind .setReg .setStatus

theorem bitSelect {k w} : ∀ {f : BitForm}, Unrefused (Machine.bitSelect k w f)
  | .rmReg (.reg _) _ => .bind .getReg .pure
  | .rmReg (.mem _) _ => .bind .get <| .bind .prepare .pure
  | .rmImm _ _ => .bind .locate .pure

theorem bitStatus {b} : Unrefused (Machine.bitStatus b) := .of_ok (bitStatus_run b)

theorem bitUpdate {s} {f : {n : Nat} → BitVec n → BitVec n → BitVec n} {form} :
    Unrefused (Machine.bitUpdate s f form) :=
  .bind .bitSelect <| .bind .readPlace <| .bind .writePlace .bitStatus

theorem bitScan {k r rm} {scan : Val k → Nat} : Unrefused (Machine.bitScan k r rm scan) :=
  .bind .readRM <| .bind .undefStatus <| .bind .setStatus <| .ite .setReg .pure

theorem rotate {s wide rm c} {step : ShiftStep} : Unrefused (Machine.rotate s wide rm c step) :=
  .updateRM <| .ite .pure <| .bind .undefStatus <| .bind .setStatus .pure

theorem shift {s wide rm c} {step : ShiftStep} {of : {n : Nat} → BitVec n → BitVec n → Bool → Bool} :
    Unrefused (Machine.shift s wide rm c step of) :=
  .updateRM <| .ite .pure <| .bind .undefStatus <| .bind .setStatus .pure

theorem doubleShift {s rm c} {f : Val s.ow → Nat → Val s.ow × Bool} : Unrefused (Machine.doubleShift s rm c f) :=
  .updateRM <| .ite .pure <| .bind .undefStatus <| .ite (.bind .setStatus .pure) <|
    .bind .fresh <| .bind .setStatus .pure

/-! ### Control -/

theorem nearBranch {t} : Unrefused (Machine.nearBranch t) := .bind .nearCheck .update

theorem jumpIf {s c} : ∀ {f : JccForm}, Unrefused (Machine.jumpIf s c f)
  | .short _ | .near _ => .ite .nearBranch .pure

theorem loopIf {s c rel} : Unrefused (Machine.loopIf s c rel) := .bind .setReg <| .ite .nearBranch .pure

theorem callTo {s t} : Unrefused (Machine.callTo s t) := .bind .nearCheck <| .bind .pushItems .update

/-! ### Data movement and segments -/

theorem readMoff {k off} : Unrefused (Machine.readMoff k off) := .bind .get <| .bind .memRead .pure

theorem preparePops {n} : ∀ {k : Nat} {sp}, Unrefused (Machine.preparePops n k sp)
  | 0, _ => .pure
  | _ + 1, _ => .bind .get <| .bind .prepare <| .bind preparePops .pure

theorem requireIopl : Unrefused Machine.requireIopl := .bind .get <| .ite .raise .pure

theorem shadowSs {k} : Unrefused (Machine.shadowSs k) := .ite .update .pure

theorem storeSel {sel} : ∀ {rm : RM}, Unrefused (Machine.storeSel rm sel)
  | .reg _ => .bind .get .setReg
  | .mem _ => .bind .get .writeRM

theorem loadPointer {k r rm} : Unrefused (Machine.loadPointer k r rm) :=
  .bind .get <| .bind .memOperand <| .bind .checkWhole <| .bind (.readParts .prepare .prepare) <|
    .bind .loadSeg .setReg

/-! ### Input, output, strings -/

theorem bitmapCheck {port n} : Unrefused (Machine.bitmapCheck port n) :=
  .bind .get <| .ite .raise <| .bind .linRead <| .ite .raise <| .bind .linRead <| .ite .pure .raise

theorem ioCheck {port n} : Unrefused (Machine.ioCheck port n) :=
  .bind .get <| .ite .pure <| .ite .bitmapCheck <| .ite .pure .bitmapCheck

theorem ioRead {k port} : Unrefused (Machine.ioRead k port) := .bind .fresh <| .bind .update .pure

theorem prepareSource {k} : Unrefused (Machine.prepareSource k) := .bind .get .prepare

theorem prepareDest {k w} : Unrefused (Machine.prepareDest k w) := .bind .get .prepare

theorem readElem {k r} : Unrefused (Machine.readElem k r) := .bind .readRef .pure

theorem stringStep {compares} {elem : Op Unit} (h : Unrefused elem) : Unrefused (Machine.stringStep compares elem) :=
  .bind .get <| @fun s => by
    cases s.pfx.rep with
    | none => exact .bind h .pure
    | some _ => exact .ite .pure <| .bind h <| .bind .update <| .bind .get <| .ite .pure <| .bind .update .pure

theorem movsElem {k} : Unrefused (Machine.movsElem k) :=
  .bind .prepareSource <| .bind .prepareDest <| .bind .readElem <| .bind .writeRef .update

theorem cmpsElem {k} : Unrefused (Machine.cmpsElem k) :=
  .bind .prepareSource <| .bind .prepareDest <| .bind .readElem <| .bind .readElem <| .bind .setStatus .update

theorem scasElem {k} : Unrefused (Machine.scasElem k) :=
  .bind .prepareDest <| .bind .readElem <| .bind .getReg <| .bind .setStatus .update

theorem lodsElem {k} : Unrefused (Machine.lodsElem k) :=
  .bind .prepareSource <| .bind .readElem <| .bind .setReg .update

theorem stosElem {k} : Unrefused (Machine.stosElem k) :=
  .bind .prepareDest <| .bind .getReg <| .bind .writeRef .update

theorem insElem {k} : Unrefused (Machine.insElem k) :=
  .bind .getReg <| .bind .ioCheck <| .bind .prepareDest <| .bind .ioRead <| .bind .writeRef .update

theorem outsElem {k} : Unrefused (Machine.outsElem k) :=
  .bind .getReg <| .bind .ioCheck <| .bind .prepareSource <| .bind .readElem <| .bind .update .update

/-! ### System instructions -/

theorem requireCpl0 : Unrefused Machine.requireCpl0 := .bind .get <| .ite .raise .pure

theorem requireProtected : Unrefused Machine.requireProtected := .bind .get <| .ite .raise .pure

theorem inspect {sel} : Unrefused (Machine.inspect sel) :=
  .ite .pure <| .bind .get <| @fun s => by
    cases s.descAddr sel with
    | none => exact .pure
    | some lin => exact .bind .descRead .pure

theorem visible {rm} {kind : Desc → Bool} : Unrefused (Machine.visible rm kind) :=
  .bind .requireProtected <| .bind .readRM <| .bind .get <| .bind .inspect .pure

theorem readTable {os32 rm} : Unrefused (Machine.readTable os32 rm) :=
  .bind .memOperand <| .bind .requireCpl0 <| .bind .checkWhole <| .bind (.readParts .prepare .prepare) .pure

theorem writeTable {os32 rm t} : Unrefused (Machine.writeTable os32 rm t) :=
  .bind .memOperand <| .bind .checkWhole <| .bind .prepare <| .bind .prepare <| .bind .fresh <|
    .bind .writeRef .writeRef

theorem specialMove {mod defined} : Unrefused (Machine.specialMove mod defined) :=
  .ite .raise <| .ite .raise .requireCpl0

theorem flagsUndefined : Unrefused Machine.flagsUndefined := .of_ok flagsUndefined_run

theorem crPut {n v} : Unrefused (Machine.crPut n v) := .ite (.ite .raise .update) <| .ite .update .update

theorem generalDetect : Unrefused Machine.generalDetect := .bind .get <| .ite (.bind .update .raise) .pure

theorem prepareDisplay {big n} : ∀ {k : Nat} {bp sp}, Unrefused (Machine.prepareDisplay big n k bp sp)
  | 0, _, _ => .pure
  | _ + 1, _, _ => .bind .prepare <| .bind .prepare <| .bind prepareDisplay .pure

theorem makeFrame : ∀ {l : List FrameStep}, Unrefused (Machine.makeFrame l)
  | [] => .pure
  | .copy _ _ :: _ => .bind .readRef <| .bind .writeRef makeFrame
  | .store _ _ :: _ => .bind .writeRef makeFrame

theorem scallOk {p} : ∀ {v : Option Dword}, Unrefused (Machine.scallOk p v)
  | none => .bind .setFlagBit .pure
  | some _ => .bind .setFlagBit .writePlace

theorem scallFail {p} : Unrefused (Machine.scallFail p) := .bind .setFlagBit .writePlace

theorem scallFunction {s p modrm v} : Unrefused (Machine.scallFunction s p modrm v) :=
  .ite (.ite .scallFail .update) <| by
    split
    · exact .scallOk
    · exact .ite .scallFail <| .bind .update .scallOk
    · exact .ite .scallFail <| .bind .update .scallOk
    · exact .ite .scallFail <| .bind .update .scallOk
    · exact .ite .scallFail <| .bind .update .scallOk
    · exact .scallOk
    · exact .ite .scallFail <| .bind .update .scallOk
    · exact .scallFail

/-! ### Fetching -/

theorem touch {p w} : Unrefused (Machine.touch p w) := fun s r t h => by
  obtain ⟨u, hu, -⟩ := touch_ok p w s
  exact nomatch hu.symm.trans h

theorem fetchPage {lin} : Unrefused (Machine.fetchPage lin) :=
  .bind .get <| @fun s => by
    split
    · exact .pure
    · refine .ite .pure <| .bind .fresh <| @fun n => ?_
      lift_lets
      intro held
      cases held with
      | none => exact .bind .probePage <| .bind .touch <| .bind .update .pure
      | some pa => exact .pure

theorem fetchAddress {off} : Unrefused (Machine.fetchAddress off) := .bind .get <| .ite .raise .fetchPage

theorem fetchByte {old off} : Unrefused (Machine.fetchByte old off) :=
  .bind .fetchAddress <| @fun pa => .bind .get <| @fun s => by
    cases (if old then s.stale.find? (fun c => c.1 == pa.toNat) else none) with
    | none => exact .of_ok fun _ => rfl
    | some c => exact .pure

theorem fetchItem {old} : ∀ {k : Nat} {bytes off}, Unrefused (Machine.fetchItem old k bytes off)
  | 0, _, _ => .raise
  | _ + 1, _, _ => .bind .fetchByte <| .bind .get <| @fun s => by
    split
    · exact .pure
    · exact fetchItem

theorem fetchInstr {old} : ∀ {k : Nat} {off len}, Unrefused (Machine.fetchInstr old k off len)
  | 0, _, _ => .raise
  | _ + 1, _, _ => .bind .fetchItem <| .ite (.bind .update fetchInstr) .pure

theorem fetch : Unrefused Machine.fetch :=
  .bind .get <| .ite (.bind .pure <| .first .update .fetchInstr)
    (.bind .fresh <| .bind .pure <| .first .update .fetchInstr)

end Unrefused

/-! ## Outcomes -/

/-- A next state, or the stop of two TLB entries for one page (22_paging.md R242). -/
def Answers (o : Host.Outcome State Fault Refusal) : Prop := GoesOn o ∨ o = .fault .tlbTwoMatches

theorem Answers.next (s : State) : Answers (.next s) := .inl ⟨s, rfl⟩

theorem Answers.fault : ∀ f : Fault, Answers (.fault f)
  | .tlbTwoMatches => .inr rfl

/-- Whatever an event's delivery raises, it ends in a next state, at worst in shutdown (60_exceptions.md R699). -/
theorem deliverFrom_answers : ∀ (k : Nat) (taken : State → State) (e : Event) (s : State),
    Answers (deliverFrom k taken e s)
  | 0, _, e, s => .next (s.shutDown e.ret)
  | k + 1, taken, e, s => by
    have follow (first : Event) (x : Exn) (t : State) : Answers (match deliveryFault first x with
        | none => .next (t.shutDown first.ret)
        | some e' => deliverFrom k id e' t) := by
      cases deliveryFault first x with
      | none => exact .next _
      | some e' => exact deliverFrom_answers k id e' t
    unfold deliverFrom
    split
    · exact .next _
    · cases hi : interrupt e s with
      | ok b t => exact .next _
      | error x t => cases x with
        | exc x => exact follow e x (s.rollback t)
        | late x => exact follow { e with ret := t.eip } x t
        | fault f => exact .fault f
        | refuse r => exact absurd hi (Unrefused.interrupt s r t)

theorem deliver_answers (e : Event) (s : State) : Answers (deliver e s) := deliverFrom_answers 5 id e s

/-- A meaning is refused only where its operation is. -/
theorem runEnd_answers_or (l : Bool) (x : Op End) (s : State) :
    Answers (runEnd l x s) ∨ ∃ r t, x s = .error (.refuse r) t ∧ runEnd l x s = .refused r := by
  by_cases hlock : (s.pfx.lock && !l) = true
  · have hx : (do checkLock l; x) s = .error (.exc ⟨6, none⟩) s :=
      op_bind_error (by rw [checkLock, op_get_bind, if_pos hlock, raiseUD_run])
    rw [runEnd, hx]
    exact .inl (deliver_answers _ _)
  · have hx : (do checkLock l; x) s = x s := op_bind_ok (by rw [checkLock, op_get_bind, if_neg hlock, op_pure])
    rw [runEnd, hx]
    cases x s with
    | ok e t => exact .inl (.next _)
    | error e t => cases e with
      | exc e => exact .inl (deliver_answers _ _)
      | late e => exact .inl (deliver_answers _ _)
      | fault f => exact .inl (.fault f)
      | refuse r => exact .inr ⟨r, t, rfl, rfl⟩

theorem run_answers_or (l : Bool) (x : Op Unit) (s : State) :
    Answers (run l x s) ∨ ∃ r t, x s = .error (.refuse r) t ∧ run l x s = .refused r :=
  (runEnd_answers_or l _ s).imp_right fun ⟨r, t, hx, ho⟩ =>
    ⟨r, t, (op_bind_eq_error hx).resolve_right (fun ⟨_, _, _, h⟩ => nomatch h), ho⟩

theorem runEnd_answers {x : Op End} (hx : Unrefused x) (l : Bool) (s : State) : Answers (runEnd l x s) :=
  (runEnd_answers_or l x s).resolve_right fun ⟨r, t, h, _⟩ => hx s r t h

/-! ## Every instruction -/

section
variable {i : Instr}

/-- The stops of an instruction that the manual gives no meaning to (22_paging.md R240, R242; 49_system_misc.md
R655). -/
def Named (i : Instr) (s : State) (o : Host.Outcome State Fault Refusal) : Prop :=
  GoesOn o ∨ o = .fault .tlbTwoMatches ∨ (o = .refused .coprocessor ∧ ∃ op ext rm, i = .esc op ext rm) ∨
    (o = .refused .tlbTestWithPaging ∧ s.pg = true ∧ ∃ mod r, i = .movToTr mod 6 r)

theorem Answers.named {o : Host.Outcome State Fault Refusal} (h : Answers o) : Named i s o :=
  h.elim .inl fun hf => .inr (.inl hf)

theorem specialMove_defined {mod : BitVec 2} {d : Bool} (h : specialMove mod d s = .ok () t) : d = true := by
  cases d with
  | true => rfl
  | false =>
    simp only [specialMove, Bool.not_false, if_true, op_ite, raiseUD_run, ite_self] at h
    cases h

theorem trPut_refused {n : BitVec 3} {v : Dword} {r : Refusal} (h : trPut n v s = .error (.refuse r) t) :
    n ≠ 7 ∧ s.pg = true ∧ r = .tlbTestWithPaging := by
  simp only [trPut, op_get_bind, op_ite, op_modify, op_throw, fresh_bind, op_modify_bind] at h
  split_ifs at h with h7 hpg
  cases h
  exact ⟨h7, hpg, rfl⟩

namespace Named

theorem runEnd {x : Op End} {l : Bool} (hx : Unrefused x) : Named i s (Machine.runEnd l x s) :=
  (runEnd_answers hx l s).named

theorem run {x : Op Unit} {l : Bool} (hx : Unrefused x) : Named i s (Machine.run l x s) := .runEnd (.bind hx .pure)

theorem mov {f : MovForm} : Named i s (execMov f s) := .run <| match f with
  | .rmReg _ _ _ | .rmImm8 _ _ | .rmImm _ _ => .writeRM
  | .regRm _ _ _ => .bind .readRM .setReg
  | .accMoff _ _ => .bind .readMoff .setReg
  | .moffAcc _ _ => .bind .get .memWrite
  | .regImm8 _ _ | .regImm _ _ => .setReg

theorem test {f : TestForm} : Named i s (execTest f s) := .run <| match f with
  | .rmReg _ _ _ | .rmImm8 _ _ _ | .rmImm _ _ _ => .bind .readRM .setLogic
  | .alImm _ | .axImm _ => .setLogic

theorem imul {f : ImulForm} : Named i s (execImul f s) := .run <| match f with
  | .one _ _ => .bind .readRM <| .bind .getReg <| .bind .setPair .mulStatus
  | .two _ _ | .three _ _ _ | .threeSext _ _ _ => .bind .readRM .imulTo

theorem push {f : PushForm} : Named i s (execPush f s) := .run <| match f with
  | .reg _ | .imm _ | .imm8 _ => .pushItems
  | .rmOp _ => .bind .locate <| .bind .preparePushes <| .bind .readPlace <| .bind .writeAll .update

theorem pop {f : PopForm} : Named i s (execPop f s) := .run <| match f with
  | .reg _ => .bind .pop .setReg
  | .rmOp _ => .bind .prepare <| .bind .update <| .bind .locate <| .bind .readRef .writePlace

theorem xchg : ∀ {f : XchgForm}, Named i s (execXchg f s)
  | .rmReg _ _ _ => .run <| .bind .locate <| .bind .readPlace <| .bind .getReg <| .bind .writePlace .setReg
  | .acc _ => .run <| .bind .getReg <| .bind .getReg <| .bind .setReg .setReg

theorem movToSreg {k : SregField} {rm : RM} : Named i s (execMovToSreg k rm s) := .run <| by
  split
  · exact .raise
  · exact .raise
  · exact .raise
  · exact .bind .readRM <| .bind .loadSeg .shadowSs

theorem movFromSreg {rm : RM} {k : SregField} : Named i s (execMovFromSreg rm k s) := .run <| by
  split
  · exact .raise
  · exact .raise
  · exact .storeSel

theorem popSreg {k : Sreg} : Named i s (execPopSreg k s) := .run <| by
  split
  · exact .raise
  · exact .bind .pop <| .bind .loadSeg .shadowSs

theorem jmpNear {f : JmpForm} : Named i s (execJmpNear f s) := .run <| match f with
  | .short _ | .near _ => .nearBranch
  | .rmOp _ => .bind .readRM .nearBranch

theorem callNear {f : CallForm} : Named i s (execCallNear f s) := .run <| match f with
  | .rel _ => .callTo
  | .rmOp _ => .bind .readRM .callTo

theorem lar {r : Reg} {rm : RM} : Named i s (execLar r rm s) := .run <| .bind .visible <| @fun o => by
  cases o with
  | none => exact .setFlagBit
  | some d => exact .bind .fresh <| .bind .setReg .setFlagBit

theorem lsl {r : Reg} {rm : RM} : Named i s (execLsl r rm s) := .run <| .bind .visible <| @fun o => by
  cases o with
  | none => exact .setFlagBit
  | some d => exact .bind .setReg .setFlagBit

theorem popa : Named i s (execPopa s) :=
  .run <| .bind .preparePops <| .bind .readRefs <| .bind .setReg <| .bind .setReg <| .bind .setReg <| .bind .setReg <|
    .bind .setReg <| .bind .setReg <| .bind .setReg .update

theorem enter {size : BitVec 16} {level : BitVec 8} : Named i s (execEnter size level s) :=
  have last {k : Width} {l : List FrameStep} {big : Bool} {bp sp : Dword} {v : Val k} : Unrefused (do
      makeFrame l
      if big then setReg .d .ebp bp
      setReg k .ebp v
      modify fun t => t.setSp sp) := .bind .makeFrame <| .first .setReg <| .bind .setReg .update
  .run <| .bind .prepare <| .bind .prepareDisplay <| .ite (.bind .pure last) <| .bind .prepare <| .bind .pure last

/-- ESC is handed on only to a coprocessor that is there (49_system_misc.md R655). -/
theorem esc {op ext : BitVec 3} {rm : RM} : Named (.esc op ext rm) s (execEsc op ext rm s) := by
  rcases run_answers_or false _ s with h | ⟨r, t, hx, ho⟩
  · exact h.named
  · simp only [op_ite, raiseNM_run, raiseMF_run, op_throw] at hx
    split_ifs at hx <;> cases hx
    exact .inr (.inr (.inl ⟨ho, op, ext, rm, rfl⟩))

/-- A write of TR6 is refused with paging on (22_paging.md R240). -/
theorem movToTr {mod : BitVec 2} {n : BitVec 3} {r : Reg} : Named (.movToTr mod n r) s (execMovToTr mod n r s) := by
  rcases run_answers_or false _ s with h | ⟨q, t, hx, ho⟩
  · exact h.named
  · obtain ⟨a, u, hmove, hput⟩ := (op_bind_eq_error hx).resolve_left (Unrefused.specialMove s q t)
    have hput := (op_bind_eq_error hput).resolve_right fun ⟨_, v, _, h⟩ => Unrefused.flagsUndefined v q t h
    have hcalm := (Quiet.specialMove mod (trExists n) s).1
    rw [hmove] at hcalm
    obtain ⟨h7, hpg, rfl⟩ := trPut_refused hput
    have hn : n = 6 ∨ n = 7 := by simpa [trExists] using specialMove_defined hmove
    exact .inr (.inr (.inr ⟨ho, hcalm.pg.symm.trans hpg, mod, r, by rw [hn.resolve_right h7]⟩))

end Named

theorem exec_named (i : Instr) (s : State) : Named i s (exec i s) := by
  cases i with
  | segEs | segCs | segSs | segDs | segFs | segGs | opsize | adrsize | lock | repne | rep => exact (Answers.next _).named
  | add f | adc f => exact .run (.aluUpdate .addOp)
  | sub f | sbb f => exact .run (.aluUpdate .subOp)
  | and_ f | or_ f | xor_ f => exact .run (.aluUpdate .logicOp)
  | cmp f => exact .run (.aluCompare .setStatus)
  | test f => exact .test
  | inc f | dec f => exact .run (.incUpdate <| .bind .setStatus .pure)
  | neg wide rm => exact .run (.updateRM <| .bind .setStatus .pure)
  | not_ wide rm => exact .run (.updateRM .pure)
  | mul wide rm => exact .run (.bind .readRM <| .bind .getReg <| .bind .setPair .mulStatus)
  | imul f => exact .imul
  | div wide rm => exact .run (.bind .readRM <| .ite .divideError <| .ite .divideError .setQuotient)
  | idiv wide rm => exact .run (.bind .readRM <| .ite .divideError <| .ite .setQuotient .divideError)
  | daa | das => exact .run .decimalAdjust
  | aaa | aas => exact .run (.bind .getReg <| .bind .setReg <| .first .setReg <| .bind .undefStatus .setStatus)
  | aam i => exact .run (.bind .undefStatus <| .ite (.bind .setStatus .raise) <| .bind .setReg <| .bind .setReg .setStatus)
  | aad i => exact .run (.bind .getReg <| .bind .setReg <| .bind .setReg <| .bind .undefStatus .setStatus)
  | rol wide rm c | ror wide rm c | rcl wide rm c | rcr wide rm c => exact .run .rotate
  | shl a wide rm c => exact .run .shift
  | shr wide rm c | sar wide rm c => exact .run .shift
  | shld rm r c | shrd rm r c => exact .run .doubleShift
  | bt f => exact .run (.bind .bitSelect <| .bind .readPlace .bitStatus)
  | bts f | btr f | btc f => exact .run .bitUpdate
  | bsf r rm | bsr r rm => exact .run .bitScan
  | mov f => exact .mov
  | movzx wide r rm | movsx wide r rm => exact .run (.bind .readRM .setReg)
  | movFromSreg rm k => exact .movFromSreg
  | movToSreg k rm => exact .movToSreg
  | movFromCr mod n r | movFromTr mod n r => exact .run (.bind .specialMove <| .bind .setReg .flagsUndefined)
  | movToCr mod n r => exact .run (.bind .specialMove <| .bind .crPut .flagsUndefined)
  | movFromDr mod n r => exact .run (.bind .specialMove <| .bind .generalDetect <| .bind .setReg .flagsUndefined)
  | movToDr mod n r => exact .run (.bind .specialMove <| .bind .generalDetect <| .bind .update .flagsUndefined)
  | movToTr mod n r => exact .movToTr
  | push f => exact .push
  | pushSreg k => exact .run (.bind .selItem .pushItems)
  | pop f => exact .pop
  | popSreg k => exact .popSreg
  | pusha => exact .run .pushItems
  | popa => exact .popa
  | pushf => exact .run (.bind .requireIopl3 .pushItems)
  | popf => exact .run (.bind .requireIopl3 <| .bind .pop .update)
  | xchg f => exact .xchg
  | nop => exact .run .pure
  | cbw | cwde | cwd | cdq => exact .run (.bind .getReg .setReg)
  | lea r rm => exact .run (.bind .memOperand .setReg)
  | les r rm | lds r rm | lss r rm | lfs r rm | lgs r rm => exact .run .loadPointer
  | in_ f => exact .run (.bind .ioCheck <| .bind .ioRead .setReg)
  | out f => exact .run (.bind .ioCheck .update)
  | insb | insv => exact .runEnd (.stringStep .insElem)
  | outsb | outsv => exact .runEnd (.stringStep .outsElem)
  | movsb | movsv => exact .runEnd (.stringStep .movsElem)
  | cmpsb | cmpsv => exact .runEnd (.stringStep .cmpsElem)
  | stosb | stosv => exact .runEnd (.stringStep .stosElem)
  | lodsb | lodsv => exact .runEnd (.stringStep .lodsElem)
  | scasb | scasv => exact .runEnd (.stringStep .scasElem)
  | jo f | jno f | jb f | jnb f | jz f | jnz f | jbe f | jnbe f | js f | jns f | jp f | jnp f | jl f | jnl f | jle f
  | jnle f => exact .run .jumpIf
  | seto rm | setno rm | setb rm | setnb rm | setz rm | setnz rm | setbe rm | setnbe rm | sets rm | setns rm | setp rm
  | setnp rm | setl rm | setnl rm | setle rm | setnle rm => exact .run .writeRM
  | loop rel | loope rel | loopne rel => exact .run .loopIf
  | jcxz rel => exact .run (.ite .nearBranch .pure)
  | jmpNear f => exact .jmpNear
  | callNear f => exact .callNear
  | retNear n => exact .run (.bind .stackRead <| .bind .nearCheck <| .bind .update .update)
  | jmpFar f => exact .runEnd (.bind .farPointer .farJmp)
  | callFar f => exact .runEnd (.bind .farPointer .farCall)
  | retFar n => exact .run .farRet
  | int3 => exact .runEnd .softInt
  | int n => exact .runEnd (.bind .requireIopl3 .softInt)
  | into => exact .runEnd (.ite .softInt .pure)
  | iret => exact .runEnd .interruptReturn
  | enter size level => exact .enter
  | leave => exact .run (.bind .memRead <| .bind .update .setReg)
  | bound r rm => exact .run (.bind .memOperand <| .bind (.readParts .prepare .prepare) <| .ite .raise .pure)
  | arpl rm r => exact .run (.bind .requireProtected <| .bind .locate <| .bind .readPlace <|
      .ite (.bind .writePlace .setFlagBit) .setFlagBit)
  | wait => exact .runEnd (.ite .raise <| .ite .raise <| .ite (.bind .update .pure) .pure)
  | sahf => exact .run (.bind .getReg .update)
  | lahf => exact .run .setReg
  | xlatb => exact .run (.bind .memRead .setReg)
  | esc op ext rm => exact .esc
  | hlt | clts => exact .run (.bind .requireCpl0 .update)
  | cmc | clc | stc | cld | std => exact .run .setFlagBit
  | cli => exact .run (.bind .requireIopl .setFlagBit)
  | sti => exact .run (.bind .requireIopl <| .bind .setFlagBit <| .ite .update .pure)
  | sldt rm | str rm => exact .run (.bind .requireProtected .writeRM)
  | lldt rm => exact .run (.bind .requireProtected <| .bind .requireCpl0 <| .bind .readRM .loadLdtr)
  | ltr rm => exact .run (.bind .requireProtected <| .bind .requireCpl0 <| .bind .readRM .loadTr)
  | verr rm | verw rm => exact .run (.bind .visible .setFlagBit)
  | sgdt rm | sidt rm => exact .run .writeTable
  | lgdt rm | lidt rm => exact .run (.bind .readTable .update)
  | smsw rm => exact .run .writeRM
  | lmsw rm => exact .run (.bind .requireCpl0 <| .bind .readRM .update)
  | lar r rm => exact .lar
  | lsl r rm => exact .lsl
  | scall r rm => exact .run (.ite .raise <| .bind .locate <| .bind .readPlace .scallFunction)
  | ssvLow n | ssvHigh n | undefined u => exact .run .raise

end

/-! ## The step -/

/-- What running the next instruction may answer. -/
def Runs (s : State) (o : Host.Outcome State Fault Refusal) : Prop :=
  Answers o ∨ o = .refused .coprocessor ∨ (o = .refused .tlbTestWithPaging ∧ s.pg = true)

theorem Named.runs {i : Instr} {o : Host.Outcome State Fault Refusal} (h : Named i u o) (hpg : u.pg = s.pg) :
    Runs s o := by
  rcases h with h | h | ⟨h, -⟩ | ⟨h, hp, -⟩
  · exact .inl (.inl h)
  · exact .inl (.inr h)
  · exact .inr (.inl h)
  · exact .inr (.inr ⟨h, hpg ▸ hp⟩)

theorem Runs.endUnit {o : Host.Outcome State Fault Refusal} (h : Runs s o) : Runs s (Machine.endUnit o) := by
  cases o with
  | next t => exact .inl (.next _)
  | fault f => exact .inl (.fault f)
  | refused r => exact h

theorem runInstr_runs (s : State) : Runs s (runInstr exec s) := by
  have raised (e : Event) (t : State) : Runs s (endUnit (deliver e t)) := .endUnit (.inl (deliver_answers e t))
  have run (i : Instr) {t : State} (h : Calm s t) : Runs s (endUnit (exec i t)) := .endUnit ((exec_named i t).runs h.pg)
  have hbegun : Calm s s.begun := .idle rfl rfl
  obtain ⟨hfetch, -⟩ := Quiet.fetch s.begun
  unfold runInstr
  dsimp only
  split
  · exact run _ (hbegun.trans (.idle rfl rfl))
  · cases hf : fetch s.begun with
    | ok r u =>
      obtain ⟨i, len⟩ := r
      rw [hf] at hfetch
      dsimp only
      split
      · exact raised _ _
      · have hfetched : Calm u (u.fetched i len) := .idle rfl rfl
        exact run i (((hbegun.trans hfetch).trans hfetched).trans (.prefetched _))
    | error e u => cases e with
      | exc x => exact raised _ _
      | late x => exact raised _ _
      | fault f => exact .inl (.fault f)
      | refuse r => exact absurd hf (Unrefused.fetch s.begun r u)

theorem takeDue_answers (s : State) : ∀ d : Due, Answers (s.takeDue d)
  | .trap | .breakpoint | .intr => deliver_answers _ _
  | .nmi => deliverFrom_answers _ _ _ _
  | .anmi | .nothing => .next _

/-- Behind the boundary a step takes the event due, waits, or runs the next instruction. -/
theorem step_runs_or (s : State) :
    Runs s (step s) ∨ (step s = .refused .insideSuperState ∧ s.run = .superstate) := by
  unfold step stepWith
  split
  · exact .inl (.inl (.next _))
  · split
    · exact .inr ⟨rfl, ‹_›⟩
    · dsimp only
      split
      · split
        · refine .inl ?_
          have h := runInstr_runs s.boundary
          unfold Runs at *
          rwa [(Calm.boundary s).pg] at h
        · exact .inl (.inl (.next _))
      · exact .inl (.inl (takeDue_answers _ _))

/-- Settles O45: no operation but those of ESC and of TR6 is ever refused (`exec_named`), a delivery ends at worst in
shutdown, and the boundary leaves PG as it is. -/
theorem stopsAreNamed : Obligations.StopsAreNamed := by
  refine ⟨exec_named, deliver_answers, fun s => ?_⟩
  rcases step_runs_or s with (((h | h) | h | h) | h)
  · exact .inl h
  · exact .inr (.inl h)
  · exact .inr (.inr (.inl h))
  · exact .inr (.inr (.inr (.inl h)))
  · exact .inr (.inr (.inr (.inr h)))

end Sys2Proof.Machine
end

section
namespace Sys2Proof.Machine
variable {s t : State} {k : Width} {rm : RM} {p : Place} {a : Val k} {w : Bool} {x : Ref} {off : Imm}

/-! # Moves, exchanges and sign extension -/

/-! ## Operands -/

/-- Reading an r/m operand leaves what memory accesses leave (20_memory.md R113). -/
theorem accessed_operand (h : s.operand k rm w p a t) : Accessed s t := by
  obtain ⟨u, hloc, -, rfl⟩ := h
  exact (locate_ok hloc).accessed.trans (.placeSeen p u)

theorem Accessed.reg (h : Accessed s t) (k : Width) (r : Reg) : t.reg k r = s.reg k r := by
  unfold State.reg
  rw [h.regs]

theorem readRM_operand (h : s.operand k rm false p a t) : readRM k rm s = .ok a t := by
  obtain ⟨u, hloc, rfl, rfl⟩ := h
  exact readRM_ok hloc

theorem readMoff_ok (h : prepare (s.segFor .ds) off.zext k.bytes false s = .ok x t) :
    readMoff k off s = .ok (BitVec.ofNat _ (x.value t)) (x.seen t) := by
  rw [readMoff, op_get_bind]
  exact (op_bind_ok (memRead_ok h)).trans rfl

theorem writeMoff_ok (v : Val k) (h : prepare (s.segFor .ds) off.zext k.bytes true s = .ok x t) :
    writeMoff k off v s = .ok () (x.stored v.toNat t) := by
  rw [writeMoff, op_get_bind]
  exact memWrite_ok h

/-! ## The instructions -/

theorem run_unlocked {op : Op Unit} (hlock : s.pfx.lock = false) (h : op s = .ok () t) :
    run false op s = completes s t := run_ok (lock_free hlock) h

/-- Settles O26: each form reads or writes an r/m or direct-offset operand; zero extension keeps the number read, sign
extension the integer. -/
theorem movResult : Obligations.MovResult := by
  refine ⟨fun s t p x rm r wide off i i8 hlock => ?_, fun wide r rm s t p v hlock hv => ?_⟩
  · have done {op : Op Unit} {u : State} : op s = .ok () u → run false op s = completes s u := run_unlocked hlock
    exact ⟨fun h => done (writeRM_ok h), fun a h => done (op_bind_ok (readRM_operand h)),
      fun h => done (op_bind_ok (readMoff_ok h)), fun h => done (writeMoff_ok _ h), done rfl, done rfl,
      fun h => done (writeRM_ok h), fun h => done (writeRM_ok h)⟩
  · have hread : readRM (extendFrom wide) rm s = .ok v t := readRM_operand hv
    rw [BitVec.ofNat_toNat]
    exact ⟨run_unlocked hlock (op_bind_ok hread), run_unlocked hlock (op_bind_ok hread)⟩

/-- Settles O27: reading one operand leaves the other, which is a register, as it was. -/
theorem exchangeResult : Obligations.ExchangeResult := by
  refine ⟨fun wide rm r s t p a hlock ha => ?_,
    fun r s hlock => ⟨run_unlocked hlock rfl, run_unlocked hlock rfl⟩⟩
  have hreg : t.reg (s.width wide) r = s.reg (s.width wide) r := (accessed_operand ha).reg _ r
  obtain ⟨u, hloc, rfl, rfl⟩ := ha
  refine run_ok (fun h => by rw [hlock h, Bool.not_false]) ?_
  rw [op_bind_ok hloc, op_bind_ok (readPlace_run _ _ _), op_bind_ok (getReg_run _ _ _), hreg,
    op_bind_ok (writePlace_run _ _ _ _), setReg_run]

/-- The sign of AX is bit 15 of EAX. -/
theorem State.msb_ax (s : State) : (s.reg .w .eax).msb = s.regs.eax.getLsbD 15 := by
  show (s.regs.eax.extractLsb' 0 16).msb = _
  simp [BitVec.msb_eq_getLsbD_last]

/-- The sign of EAX is its bit 31. -/
theorem State.msb_eax (s : State) : (s.reg .d .eax).msb = s.regs.eax.getLsbD 31 :=
  BitVec.msb_eq_getLsbD_last _

/-- Settles O28: CWD and CDQ spread the accumulator's sign bit; a word written leaves the upper half of its register. -/
theorem convertAccumulator : Obligations.ConvertAccumulator := by
  refine ⟨fun as32 rest => ⟨rfl, rfl, rfl, rfl⟩, fun s hlock => ?_, fun s hlock i hi => ?_⟩
  · dsimp only
    rw [← s.msb_ax, ← s.msb_eax]
    exact ⟨run_unlocked hlock rfl, run_unlocked hlock rfl, run_unlocked hlock rfl, run_unlocked hlock rfl⟩
  · rcases hi with rfl | rfl | rfl | rfl <;> exact run_locked hlock

end Sys2Proof.Machine
end

section
namespace Sys2Proof.Machine
variable {s t u : State} {x : Ref} {n : Nat}

/-! # The stack instructions -/

/-! ## PUSH -/

/-- PUSH of an r/m operand: the operand and the stack are checked before the operand is read (22_paging.md R224). -/
theorem pushRM_ok {rm : RM} {p : Place} (hloc : locate s.ow rm false s = .ok p u)
    (hstack : prepare .ss (s.below s.ow.bytes) s.ow.bytes true u = .ok x t) (hlock : s.pfx.lock = false) :
    exec (.push (.rmOp rm)) s =
      completes s ((x.stored (p.value s.ow t).toNat (p.seen t)).setSp (s.below s.ow.bytes)) := by
  have hkeep : Accessed s u := (locate_ok hloc).accessed
  have hroom := preparePushes_one (v := 0) hstack hkeep.segs hkeep.cpl
  refine run_unlocked hlock ((op_bind_ok hloc).trans ((op_bind_ok hroom).trans ?_))
  exact (op_bind_ok (readPlace_run _ p t)).trans (op_bind_ok (writeAll_run _ _))

/-- PUSH of a segment register: the selector becomes an item, then the item is pushed (48_flag_segment.md R588). -/
theorem pushSreg_ok {k : Sreg} (hlock : s.pfx.lock = false) :
    let i := s.itemOf s.ow.bytes (s.segs.get k).sel
    prepare .ss (s.below i.1.1) i.1.1 true i.2 = .ok x t →
    exec (.pushSreg k) s = completes s ((x.stored i.1.2 t).setSp (s.below i.1.1)) := by
  intro i hstack
  have hkeep : Accessed s i.2 := .itemOf s _ _
  have hbelow : i.2.below i.1.1 = s.below i.1.1 := by rw [State.below, hkeep.segs, hkeep.sp, State.below]
  rw [← hbelow] at hstack ⊢
  refine run_unlocked hlock ?_
  rw [op_bind_ok (selItem_run _ _ s)]
  exact pushItems_one hstack

/-- A selector as an item of the operand size. -/
theorem itemOf_operandSize (s : State) (sel : BitVec 16) : s.itemOf s.ow.bytes sel =
    ((s.ow.bytes, if s.os32 then ((Config.undefDword s.free).extractLsb' 16 16 ++ sel : BitVec 32).toNat
      else sel.toNat), if s.os32 then s.drew else s) := by
  cases h : s.os32 <;> simp [State.itemOf, State.ow, h, Width.ofSize, Width.bytes]

/-! ## POP -/

/-- POP of an r/m operand: the destination is found with the stack pointer already moved up, and the stack is read
after both checks (40_data_movement.md R331, D34). -/
theorem popRM_ok {rm : RM} {p : Place} (hstack : prepare .ss s.sp s.ow.bytes false s = .ok x t)
    (hloc : locate s.ow rm true (t.setSp (s.above s.ow.bytes)) = .ok p u) (hlock : s.pfx.lock = false) :
    exec (.pop (.rmOp rm)) s = completes s (p.put s.ow (BitVec.ofNat _ (x.value u)) (x.seen u)) := by
  refine run_unlocked hlock ((op_bind_ok hstack).trans ((op_bind_ok hloc).trans ?_))
  rw [op_bind_ok (readRef_run _ _), writePlace_run]

theorem Accessed.level (h : Accessed s t) : t.level = s.level := by unfold State.level; rw [h.pe, h.cpl]

theorem Accessed.iopl (h : Accessed s t) : t.iopl = s.iopl := by unfold State.iopl; rw [h.eflags]

theorem shadowSs_run (k : Sreg) (s : State) : shadowSs k s = .ok () (s.shadowed k) := by
  unfold shadowSs State.shadowed
  rw [op_ite]
  split <;> rfl

/-- POP of a segment register other than CS (48_flag_segment.md R589, R592). -/
theorem popSreg_ok {k : Sreg} (hstack : prepare .ss s.sp s.ow.bytes false s = .ok x t) (hk : k ≠ .cs)
    (hload : loadSeg k (BitVec.ofNat 16 (x.value t)) ((x.seen t).setSp (s.above s.ow.bytes)) = .ok () u)
    (hlock : s.pfx.lock = false) : exec (.popSreg k) s = completes s (u.shadowed k) := by
  have hop : (do let v ← pop s.ow.bytes; loadSeg k (BitVec.ofNat 16 v); shadowSs k : Op Unit) s
      = .ok () (u.shadowed k) := by
    rw [op_bind_ok (pop_ok hstack), op_bind_ok hload, shadowSs_run]
  cases k with
  | cs => exact absurd rfl hk
  | es | ss | ds | fs | gs => exact run_unlocked hlock hop

/-- POPF: which flags the level may write is not changed by the pop (48_flag_segment.md R582). -/
theorem popf_ok (hstack : prepare .ss s.sp s.ow.bytes false s = .ok x t) (hiopl : s.v86 = false ∨ s.iopl = 3)
    (hlock : s.pfx.lock = false) : exec .popf s = completes s { (x.seen t).setSp (s.above s.ow.bytes) with
      eflags := loadFlags s.eflags (flagMask s.level s.iopl) (BitVec.ofNat 32 (x.value t)) } := by
  have hkeep : Accessed s (x.seen t) := (prepare_ok hstack).accessed.trans (.seen x t)
  have hlevel : ((x.seen t).setSp (s.above s.ow.bytes)).level = s.level := hkeep.level
  have hfield : ((x.seen t).setSp (s.above s.ow.bytes)).iopl = s.iopl := hkeep.iopl
  refine run_unlocked hlock ?_
  rw [op_bind_ok (requireIopl3_ok hiopl), op_bind_ok (pop_ok hstack), op_modify, hlevel, hfield, State.setSp_eflags,
    hkeep.eflags]

/-- Settles O29: the reads and writes are prepared by the hypotheses; what is prepared first leaves the registers that
the rest of the instruction uses. -/
theorem stackResult : Obligations.StackResult := by
  refine ⟨fun s t x hlock => ⟨fun hstack => ?_, fun rm p u hloc hstack => pushRM_ok hloc hstack hlock,
    fun k hstack => ?_⟩, fun s t x hlock hstack => ?_⟩
  · have pushed (v : Nat) : run false (pushItems [(s.ow.bytes, v)]) s =
        completes s ((x.stored v t).setSp (s.below s.ow.bytes)) := run_unlocked hlock (pushItems_one hstack)
    exact ⟨fun r => pushed _, fun i => pushed _, fun i => pushed _, fun hiopl =>
      run_unlocked hlock ((op_bind_ok (requireIopl3_ok hiopl)).trans (pushItems_one hstack))⟩
  · have h := pushSreg_ok (k := k) (x := x) (t := t) hlock
    rw [itemOf_operandSize] at h
    exact h hstack
  · exact ⟨fun r => run_unlocked hlock (op_bind_ok (pop_ok hstack)), fun rm p u hloc => popRM_ok hstack hloc hlock,
      fun hiopl => popf_ok hstack hiopl hlock, fun k u hk hload => popSreg_ok hstack hk hload hlock⟩

/-! ## Several items at once -/

theorem op_bind_bind_pure_eq_ok {α β γ : Type} {p : Op α} {q : Op β} {f : α → β → γ} {c : γ}
    (h : (do let a ← p; let b ← q; return f a b) s = .ok c t) : ∃ a b, c = f a b := by
  obtain ⟨a, _, -, h⟩ := op_bind_eq_ok h
  obtain ⟨b, _, -, h⟩ := op_bind_eq_ok h
  cases h
  exact ⟨a, b, rfl⟩

/-- What is prepared is the n bytes at the linear address asked for, whichever page is checked first. -/
theorem probe_extent {lin : Dword} {w user : Bool} (h : probe lin n w user s = .ok x t) : x.lin = lin ∧ x.n = n := by
  unfold probe at h
  simp only [op_ite, op_get_bind, fresh_bind] at h
  split at h
  · obtain ⟨lo, _, -, h⟩ := op_bind_eq_ok h
    cases h
    exact ⟨rfl, rfl⟩
  · split at h
    · obtain ⟨lo, hi, rfl⟩ := op_bind_bind_pure_eq_ok h
      exact ⟨rfl, rfl⟩
    · split at h
      · obtain ⟨hi, lo, rfl⟩ := op_bind_bind_pure_eq_ok h
        exact ⟨rfl, rfl⟩
      · obtain ⟨lo, hi, rfl⟩ := op_bind_bind_pure_eq_ok h
        exact ⟨rfl, rfl⟩

theorem prepareVia_extent {r : SegReg} {stack w user : Bool} {code : BitVec 16} {off : Dword}
    (h : prepareVia r stack code off n w user s = .ok x t) : x.lin = r.base + off ∧ x.n = n := by
  obtain ⟨_, _, -, hprobe⟩ := op_bind_eq_ok h
  exact probe_extent hprobe

/-- Moves of a stack offset add up, modulo the stack-address size. -/
theorem spAdd_spAdd (big : Bool) (sp a b : Dword) : spAdd big (spAdd big sp a) b = spAdd big sp (a + b) := by
  cases big
  · refine BitVec.eq_of_toNat_eq ?_
    have hlow (v : Dword) : (v &&& 0xFFFF).toNat = v.toNat % 2 ^ 16 := by
      rw [BitVec.toNat_and]
      exact Nat.and_two_pow_sub_one_eq_mod _ 16
    simp only [spAdd, Bool.false_eq_true, if_false, hlow, BitVec.toNat_add]
    omega
  · exact BitVec.add_assoc sp a b

/-- The bytes the first i items take. -/
def depth (items : List (Nat × Nat)) (i : Nat) : Nat := ((items.take i).map Prod.fst).sum

/-- Below the first item come the others. -/
theorem spAdd_depth_cons (big : Bool) (sp : Dword) (it : Nat × Nat) (rest : List (Nat × Nat)) (i : Nat) :
    spAdd big (spAdd big sp (0 - BitVec.ofNat 32 it.1)) (0 - BitVec.ofNat 32 (depth rest i)) =
      spAdd big sp (0 - BitVec.ofNat 32 (depth (it :: rest) (i + 1))) := by
  have hsum : depth (it :: rest) (i + 1) = it.1 + depth rest i := by simp [depth]
  rw [spAdd_spAdd, hsum, BitVec.ofNat_add]
  congr 1
  ring

theorem preparePushes_cons {ss : SegReg} {code : BitVec 16} {user : Bool} {sp spEnd : Dword} {it : Nat × Nat}
    {rest : List (Nat × Nat)} {l : List (Ref × Nat)}
    (h : preparePushes ss code user sp (it :: rest) s = .ok (l, spEnd) t) :
    ∃ x u l', prepareVia ss true code (spAdd ss.attr.db sp (0 - BitVec.ofNat 32 it.1)) it.1 true user s = .ok x u ∧
      preparePushes ss code user (spAdd ss.attr.db sp (0 - BitVec.ofNat 32 it.1)) rest u = .ok (l', spEnd) t ∧
      l = (x, it.2) :: l' := by
  obtain ⟨x, u, hx, h⟩ := op_bind_eq_ok h
  obtain ⟨⟨l', _⟩, _, hrest, h⟩ := op_bind_eq_ok h
  cases h
  exact ⟨x, u, l', hx, hrest, rfl⟩

section
variable {ss : SegReg} {code : BitVec 16} {user : Bool}

/-- The values prepared are those of the items. -/
theorem preparePushes_values : ∀ {items : List (Nat × Nat)} {sp spEnd : Dword} {l : List (Ref × Nat)} {s t : State},
    preparePushes ss code user sp items s = .ok (l, spEnd) t → l.map Prod.snd = items.map Prod.snd
  | [], _, _, _, _, _, h => by cases h; rfl
  | it :: rest, _, _, _, _, _, h => by
    obtain ⟨x, u, l', -, hrest, rfl⟩ := preparePushes_cons h
    rw [List.map_cons, List.map_cons, preparePushes_values hrest]

/-- The stack pointer ends below the last item. -/
theorem preparePushes_end : ∀ {items : List (Nat × Nat)} {sp spEnd : Dword} {l : List (Ref × Nat)} {s t : State},
    items ≠ [] → preparePushes ss code user sp items s = .ok (l, spEnd) t →
    spEnd = spAdd ss.attr.db sp (0 - BitVec.ofNat 32 (depth items items.length))
  | [], _, _, _, _, _, hne, _ => absurd rfl hne
  | [it], sp, _, _, _, _, _, h => by
    obtain ⟨x, u, l', -, hrest, -⟩ := preparePushes_cons h
    cases hrest
    simp [depth]
  | it :: it' :: rest, sp, _, _, _, _, _, h => by
    obtain ⟨x, u, l', -, hrest, -⟩ := preparePushes_cons h
    rw [preparePushes_end (List.cons_ne_nil _ _) hrest]
    exact spAdd_depth_cons _ sp it (it' :: rest) _

/-- Each item lies right below the one before it. -/
theorem preparePushes_extent : ∀ {items : List (Nat × Nat)} {sp spEnd : Dword} {l : List (Ref × Nat)} {s t : State},
    preparePushes ss code user sp items s = .ok (l, spEnd) t → ∀ i (h : i < l.length),
    l[i].1.lin = ss.base + spAdd ss.attr.db sp (0 - BitVec.ofNat 32 (depth items (i + 1))) ∧
    ∀ h' : i < items.length, l[i].1.n = items[i].1
  | [], _, _, _, _, _, h, i, hi => by cases h; cases hi
  | it :: rest, sp, _, _, _, _, h, i, hi => by
    obtain ⟨x, u, l', hx, hrest, rfl⟩ := preparePushes_cons h
    obtain ⟨hlin, hn⟩ := prepareVia_extent hx
    cases i with
    | zero => simpa [depth] using ⟨hlin, hn⟩
    | succ i =>
      obtain ⟨hlin', hn'⟩ := preparePushes_extent hrest i (Nat.lt_of_succ_lt_succ hi)
      exact ⟨hlin'.trans (by rw [spAdd_depth_cons]), fun h' => hn' (Nat.lt_of_succ_lt_succ h')⟩

end

/-- Each read of a return lies at its distance above the stack pointer. -/
theorem prepareStack_extent {sp : Dword} : ∀ {ks : List Nat} {s t : State} {l : List Ref},
    prepareStack sp n ks s = .ok l t → l.length = ks.length ∧ ∀ i (h : i < l.length) (h' : i < ks.length),
      l[i].lin = s.segs.ss.base + spAdd s.segs.ss.attr.db sp (BitVec.ofNat 32 ks[i]) ∧ l[i].n = n
  | [], _, _, _, h => by cases h; exact ⟨rfl, fun i hi => absurd hi (Nat.not_lt_zero i)⟩
  | k :: ks, s, _, _, h => by
    rw [prepareStack, op_get_bind] at h
    obtain ⟨x, u, hx, h⟩ := op_bind_eq_ok h
    obtain ⟨l, _, hrest, h⟩ := op_bind_eq_ok h
    cases h
    have hsegs : u.segs = s.segs := (prepare_ok hx).accessed.segs
    obtain ⟨hlen, hall⟩ := prepareStack_extent hrest
    refine ⟨congrArg (· + 1) hlen, fun i hi hi' => ?_⟩
    cases i with
    | zero => exact prepareVia_extent hx
    | succ i =>
      rw [← hsegs]
      exact hall i (Nat.lt_of_succ_lt_succ hi) (Nat.lt_of_succ_lt_succ hi')

/-- Settles O30: preparing the items of a push, or the reads of a return, one after another (`preparePushes_extent`,
`prepareStack_extent`) fixes where each lies; PUSHA and POPA then store and load what is prepared. -/
theorem pushAllPopAll : Obligations.PushAllPopAll := by
  refine ⟨⟨fun s t l sp hlock hstack => run_unlocked hlock (pushItems_ok hstack),
    fun s t l hlock hstack => run_unlocked hlock ((op_bind_ok hstack).trans (op_bind_ok (readRefs_run l t)))⟩,
    fun ss code user sp spEnd items s t l hne hpush => ?_, fun sp n ks s t l hstack => ?_⟩
  · have hkeep := (preparePushes_ok hpush).accessed
    exact ⟨preparePushes_values hpush, (preparePushes_ok hpush).mem, hkeep.regs, preparePushes_end hne hpush,
      preparePushes_extent hpush⟩
  · obtain ⟨hlen, hall⟩ := prepareStack_extent hstack
    have hprep := prepareStack_ok hstack
    exact ⟨stackReads_ok hstack, hlen, hprep.mem, hprep.accessed.regs, hall⟩

end Sys2Proof.Machine
end

section
namespace Sys2Proof.Machine
variable {s t u : State} {port : BitVec 16} {n : Nat} {k : Width} {x : Ref}

/-! # Ports -/

/-! ## The permission map -/

/-- The n bits of a word from bit m on. -/
theorem guard_getLsbD (m n : Nat) {i : Nat} (hi : i < 16) :
    (BitVec.ofNat 16 (2 ^ n - 1) <<< m).getLsbD i = decide (m ≤ i ∧ i < m + n) := by
  rw [Bool.eq_iff_iff]
  simp only [BitVec.getLsbD_shiftLeft, BitVec.getLsbD_ofNat, Nat.testBit_two_pow_sub_one, Bool.and_eq_true,
    decide_eq_true_eq, Bool.not_eq_true', decide_eq_false_iff_not]
  omega

/-- The bits of the map that guard n ports are as many, from the port's own on (R363). -/
theorem mapAllows_iff (bits : BitVec 16) (hn : n ≤ 4) :
    mapAllows bits port n = true ↔ ∀ j, j < n → bits.getLsbD (port.toNat % 8 + j) = false := by
  rw [mapAllows, beq_iff_eq]
  constructor
  · intro hzero j hj
    have hand := congrArg (·.getLsbD (port.toNat % 8 + j)) hzero
    simpa [guard_getLsbD _ n (show port.toNat % 8 + j < 16 by omega), hj] using hand
  · intro hclear
    refine BitVec.eq_of_getLsbD_eq fun i hi => ?_
    rw [BitVec.getLsbD_and, guard_getLsbD _ n hi, BitVec.getLsbD_zero, Bool.and_eq_false_iff, decide_eq_false_iff_not]
    refine or_iff_not_imp_right.2 fun hin => ?_
    obtain ⟨hlow, hhigh⟩ := not_not.1 hin
    simpa [Nat.add_sub_cancel' hlow] using hclear (i - port.toNat % 8) (by omega)

/-- A word the processor reads for itself with paging off (20_memory.md R102). -/
theorem linRead_word (hpg : s.pg = false) (lin : Dword) :
    linRead lin 2 s = .ok (s.phys (lin + 1) ++ s.phys lin).toNat (s.bus lin 2) := by
  have hpa (i : Nat) (hi : i < 2) : (Ref.flat lin 2).pa i = lin + BitVec.ofNat 32 i := Ref.flat_pa lin (by decide) hi
  rw [linRead_unpaged hpg lin (by decide), toNat_append_byte]
  simp [Ref.load, hpa]

theorem bitmapCheck_refused (h : s.tr.attr.e = false ∨ s.tr.limit.toNat < 0x67) :
    bitmapCheck port n s = .error (.exc ⟨13, some 0⟩) s := by
  have hshort : (!s.tr.isTss32 || decide (s.tr.limit.toNat < 0x67)) = true := by simpa [SegReg.isTss32] using h
  rw [bitmapCheck, op_get_bind, if_pos hshort, raiseGP_run]

/-- The two words a permission check reads: the map's base, then the bits of the ports (R363). -/
theorem bitmapCheck_unpaged (he : s.tr.attr.e = true) (hlimit : 0x67 ≤ s.tr.limit.toNat) (hpg : s.pg = false)
    (hn : n ≤ 4) :
    let u := s.bus (s.tr.base + 0x66) 2
    let byteOff := (s.phys (s.tr.base + 0x67) ++ s.phys (s.tr.base + 0x66)).toNat + port.toNat / 8
    let place := s.tr.base + BitVec.ofNat 32 byteOff
    let map := u.phys (place + 1) ++ u.phys place
    bitmapCheck port n s =
      if s.tr.limit.toNat < byteOff + 1 then .error (.exc ⟨13, some 0⟩) u
      else if ∀ j, j < n → map.getLsbD (port.toNat % 8 + j) = false then .ok () (u.bus place 2)
      else .error (.exc ⟨13, some 0⟩) (u.bus place 2) := by
  intro u byteOff place map
  have hlong : ¬ (!s.tr.isTss32 || decide (s.tr.limit.toNat < 0x67)) = true := by
    simpa [SegReg.isTss32, he] using hlimit
  have hbase : linRead (s.tr.base + 0x66) 2 s =
      .ok (s.phys (s.tr.base + 0x67) ++ s.phys (s.tr.base + 0x66)).toNat u := by
    rw [linRead_word hpg, BitVec.add_assoc]
    rfl
  have hmap : linRead place 2 u = .ok map.toNat (u.bus place 2) := linRead_word (s := u) hpg place
  rw [bitmapCheck, op_get_bind, if_neg hlong, op_bind_ok hbase, op_ite]
  refine if_congr Iff.rfl rfl ?_
  rw [op_bind_ok hmap, BitVec.ofNat_toNat, BitVec.setWidth_eq, op_ite]
  exact if_congr (mapAllows_iff map hn) rfl rfl

/-! ## The check -/

theorem ioCheck_real (hpe : s.pe = false) : ioCheck port n s = .ok () s := by
  rw [ioCheck, op_get_bind, hpe]
  rfl

theorem ioCheck_privileged (hprot : s.prot = true) (hcpl : s.cpl.toNat ≤ s.iopl.toNat) :
    ioCheck port n s = .ok () s := by
  obtain ⟨hpe, hvm⟩ : s.pe = true ∧ s.vm = false := by simpa [State.prot] using hprot
  rw [ioCheck, op_get_bind, hpe, hvm, Bool.not_true, if_neg Bool.false_ne_true, if_neg Bool.false_ne_true,
    if_pos hcpl, op_pure]

/-- In virtual-8086 mode, and above IOPL, the map decides (R361). -/
theorem ioCheck_mapped (hpe : s.pe = true) (h : s.vm = true ∨ s.iopl.toNat < s.cpl.toNat) :
    ioCheck port n s = bitmapCheck port n s := by
  rw [ioCheck, op_get_bind, hpe, Bool.not_true, if_neg Bool.false_ne_true]
  by_cases hvm : s.vm = true
  · rw [if_pos hvm]
  · rw [if_neg hvm, if_neg (Nat.not_le.2 (h.resolve_left hvm))]

/-- Settles O33: mode and level decide whether the map is asked; the map's two words, read in order, decide the rest. -/
theorem ioPermission : Obligations.IoPermission := by
  intro s port n _ hn limit refused
  exact ⟨ioCheck_real, ioCheck_privileged,
    fun hpe hlevel hshort => (ioCheck_mapped hpe hlevel).trans (bitmapCheck_refused hshort),
    fun hpe hlevel he hlimit hpg => (ioCheck_mapped hpe hlevel).trans (bitmapCheck_unpaged he hlimit hpg hn)⟩

/-! ## What a check and a prepared element leave as they were -/

theorem Keeps.bitmapCheck (port : BitVec 16) (n : Nat) : Keeps (Machine.bitmapCheck port n) :=
  .bind .get fun _ => .ite (.raise _ _) (.bind (.linRead _ _) fun _ => .ite (.raise _ _)
    (.bind (.linRead _ _) fun _ => .ite (.pure _) (.raise _ _)))

theorem Keeps.ioCheck (port : BitVec 16) (n : Nat) : Keeps (Machine.ioCheck port n) :=
  .bind .get fun _ => .ite (.pure _) (.ite (.bitmapCheck _ _) (.ite (.pure _) (.bitmapCheck _ _)))

theorem Accessed.index (h : Accessed s t) (r : Reg) : t.index r = s.index r := by
  unfold State.index State.aw State.as32 State.reg
  rw [h.segs, h.pfx, h.regs]

theorem Accessed.segFor (h : Accessed s t) (dflt : Sreg) : t.segFor dflt = s.segFor dflt := by
  unfold State.segFor
  rw [h.pfx]

/-- The source element is where it was before an access. -/
theorem prepareSource_ok (hkeep : Accessed s t) (h : prepare (s.segFor .ds) (s.index .esi) k.bytes false t = .ok x u) :
    prepareSource k t = .ok x u := by
  rw [prepareSource, op_get_bind, hkeep.segFor, hkeep.index, h]

/-- The destination element is where it was before an access. -/
theorem prepareDest_ok {write : Bool} (hkeep : Accessed s t)
    (h : prepare .es (s.index .edi) k.bytes write t = .ok x u) : prepareDest k write t = .ok x u := by
  rw [prepareDest, op_get_bind, hkeep.index, h]

/-! ## Input and output -/

@[simp] theorem ioRead_run (k : Width) (port : BitVec 16) (s : State) :
    ioRead k port s = .ok (s.portRead k port).1 (s.portRead k port).2 := rfl

@[simp] theorem ioWrite_run (k : Width) (port : BitVec 16) (v : Val k) (s : State) :
    ioWrite k port v s = .ok () (s.portWrite k port v) := rfl

@[simp] theorem readElem_run (k : Width) (x : Ref) (s : State) :
    readElem k x s = .ok (BitVec.ofNat k.bits (x.value s)) (x.seen s) := by
  rw [readElem, op_bind_ok (readRef_run x s), op_pure]

/-- An element of INS: the port is read behind both checks (R367, R368). -/
theorem insElem_ok (hport : ioCheck (s.reg .w .edx) k.bytes s = .ok () t)
    (hdst : prepare .es (s.index .edi) k.bytes true t = .ok x u) :
    let r := u.portRead k (s.reg .w .edx)
    insElem k s = .ok () ((x.stored r.1.toNat r.2).advance k.bytes .edi) := by
  intro r
  have hkeep : Accessed s t := Keeps.ioCheck _ _ _ _ _ hport
  rw [insElem, op_bind_ok (getReg_run _ _ _), op_bind_ok hport, op_bind_ok (prepareDest_ok hkeep hdst)]
  exact (op_bind_ok (ioRead_run _ _ _)).trans (op_bind_ok (writeRef_run _ _ _))

/-- An element of OUTS: the element is read behind both checks, then the port is written (R369, D35). -/
theorem outsElem_ok (hport : ioCheck (s.reg .w .edx) k.bytes s = .ok () t)
    (hsrc : prepare (s.segFor .ds) (s.index .esi) k.bytes false t = .ok x u) :
    outsElem k s = .ok () (((x.seen u).portWrite k (s.reg .w .edx) (BitVec.ofNat _ (x.value u))).advance
      k.bytes .esi) := by
  have hkeep : Accessed s t := Keeps.ioCheck _ _ _ _ _ hport
  rw [outsElem, op_bind_ok (getReg_run _ _ _), op_bind_ok hport, op_bind_ok (prepareSource_ok hkeep hsrc),
    op_bind_ok (readElem_run _ _ _)]
  exact op_bind_ok (ioWrite_run _ _ _ _)

/-- Without a repeat prefix a string instruction is one element (46_string.md R490, R510). -/
theorem runEnd_element {compares : Bool} {elem : Op Unit} (hlock : s.pfx.lock = false) (hrep : s.pfx.rep = none)
    (h : elem s = .ok () t) : runEnd false (stringStep compares elem) s = completes s t := by
  refine runEnd_done hlock ?_
  rw [stringStep, op_get_bind, hrep]
  exact op_bind_ok h

/-- Settles O34: the port's check and the element's leave the registers that say which port and where the element is. -/
theorem portResult : Obligations.PortResult := by
  constructor
  · intro f s t hlock k port hport
    exact ⟨run_unlocked hlock ((op_bind_ok hport).trans (op_bind_ok (ioRead_run k port t))),
      run_unlocked hlock (op_bind_ok hport)⟩
  · intro s t1 t2 x hlock hrep port k i j hform hport
    have hin (hdst : prepare .es (s.index .edi) k.bytes true t1 = .ok x t2) := insElem_ok hport hdst
    have hout (hsrc : prepare (s.segFor .ds) (s.index .esi) k.bytes false t1 = .ok x t2) := outsElem_ok hport hsrc
    obtain ⟨rfl, rfl, rfl⟩ | ⟨rfl, rfl, rfl⟩ := hform
    all_goals exact ⟨runEnd_element hlock hrep ∘ hin, runEnd_element hlock hrep ∘ hout⟩

end Sys2Proof.Machine
end

section
namespace Sys2Proof.Machine
variable {s t u : State} {p : Place} {k : Width} {rm : RM}

/-! # Addition and subtraction -/

/-! ## Reading, changing and writing back -/

theorem updateRM_operand {a v : Val k} {f : Val k → Op (Val k)} (h : s.operand k rm true p a t)
    (hf : f a t = .ok v u) : updateRM k rm f s = .ok () (p.put k v u) := by
  obtain ⟨t', hloc, rfl, rfl⟩ := h
  exact updateRM_ok hloc hf

/-- In every form the operation gets destination and source, and its result goes to the destination (R381). -/
theorem aluUpdate_ok {op : (k : Width) → Val k → Val k → Op (Val k)} {f : AluForm} {a b v : Val (f.width s)}
    (hreads : f.reads s true p a b t) (hop : op (f.width s) a b t = .ok v u) :
    aluUpdate s op f s = .ok () (p.put (f.width s) v u) := by
  cases f with
  | rmReg | rmImm8 | rmImm8Alias | rmImm | rmSext =>
    obtain ⟨ha, hb⟩ := hreads
    exact updateRM_operand ha (hb ▸ hop)
  | regRm =>
    obtain ⟨rfl, ha, _, hb⟩ := hreads
    exact (op_bind_ok (readRM_operand hb)).trans (op_bind_ok (ha ▸ hop))
  | alImm | axImm =>
    obtain ⟨rfl, ha, hb, rfl⟩ := hreads
    exact op_bind_ok (ha ▸ hb ▸ hop)

/-- In every form the operation gets destination and source; nothing is stored (R381, R386). -/
theorem aluCompare_ok {op : (k : Width) → Val k → Val k → Op Unit} {f : AluForm} {a b : Val (f.width s)}
    (hreads : f.reads s false p a b t) (hop : op (f.width s) a b t = .ok () u) :
    aluCompare s op f s = .ok () u := by
  cases f with
  | rmReg | rmImm8 | rmImm8Alias | rmImm | rmSext =>
    obtain ⟨ha, hb⟩ := hreads
    exact (op_bind_ok (readRM_operand ha)).trans (hb ▸ hop)
  | regRm =>
    obtain ⟨-, ha, _, hb⟩ := hreads
    exact (op_bind_ok (readRM_operand hb)).trans (ha ▸ hop)
  | alImm | axImm =>
    obtain ⟨-, ha, hb, rfl⟩ := hreads
    rw [ha, hb] at hop
    exact hop

theorem incUpdate_ok {op : (k : Width) → Val k → Op (Val k)} {f : IncForm} {a v : Val (f.width s)}
    (ha : s.operand (f.width s) f.rm true p a t) (hop : op (f.width s) a t = .ok v u) :
    incUpdate s op f s = .ok () (p.put (f.width s) v u) := by
  cases f with
  | reg | rmOp => exact updateRM_operand ha hop

/-! ## The instructions -/

@[simp] theorem addOp_run (c : Bool) (k : Width) (a b : Val k) (s : State) :
    addOp c k a b s = .ok (a + b + BitVec.ofNat k.bits (carryNat c)) (s.setStatus (addStatus a b c)) := rfl

@[simp] theorem subOp_run (c : Bool) (k : Width) (a b : Val k) (s : State) :
    subOp c k a b s = .ok (a - b - BitVec.ofNat k.bits (carryNat c)) (s.setStatus (subStatus a b c)) := rfl

theorem addOp_noCarry (k : Width) (a b : Val k) (s : State) :
    addOp false k a b s = .ok (a + b) (s.setStatus (addStatus a b false)) := by
  rw [addOp_run]
  exact congrArg (EStateM.Result.ok · _) (BitVec.add_zero _)

theorem subOp_noBorrow (k : Width) (a b : Val k) (s : State) :
    subOp false k a b s = .ok (a - b) (s.setStatus (subStatus a b false)) := by
  rw [subOp_run]
  exact congrArg (EStateM.Result.ok · _) (BitVec.sub_zero _)

/-- Settles O14: the eight forms read, compute and write back alike (`aluUpdate_ok`, `aluCompare_ok`); without a carry
in, the third summand is 0. -/
theorem addSubResult : Obligations.AddSubResult := by
  refine ⟨fun f s t p a b hlock hreads => ?_, fun f s t p a b hlock hreads =>
    run_unlocked hlock (aluCompare_ok hreads rfl)⟩
  have stored {op : (k : Width) → Val k → Val k → Op (Val k)} {v : Val (f.width s)} {u : State}
      (hop : op (f.width s) a b t = .ok v u) :
      run f.lockable (aluUpdate s op f) s = completes s (p.put _ v u) := run_ok hlock (aluUpdate_ok hreads hop)
  exact ⟨stored (addOp_noCarry _ a b t), stored (addOp_run _ _ a b t), stored (subOp_noBorrow _ a b t),
    stored (subOp_run _ _ a b t)⟩

/-- Settles O17: each reads an r/m operand, changes it and writes it back (`updateRM_operand`). -/
theorem incDecNegNot : Obligations.IncDecNegNot := by
  refine ⟨fun f s t p a hlock ha => ⟨run_ok hlock (incUpdate_ok ha rfl), run_ok hlock (incUpdate_ok ha rfl)⟩,
    fun wide rm s t p a hlock ha => ?_⟩
  have hwrites : s.pfx.lock = true → (!rm.isReg) = true := fun h => by rw [hlock h, Bool.not_false]
  exact ⟨run_ok hwrites (updateRM_operand ha rfl), run_ok hwrites (updateRM_operand ha rfl)⟩

end Sys2Proof.Machine
end

section
namespace Sys2Proof.Machine

/-! # Multiplication -/

/-- Settles O18: reading the r/m factor leaves the accumulator, the other factor of the one-operand forms. -/
theorem multiplyResult : Obligations.MultiplyResult := by
  refine ⟨fun wide rm s t p b hlock hb => ?_, fun r rm s t p b i i8 hlock hb => ?_⟩
  · dsimp only
    rw [← (accessed_operand hb).reg]
    exact ⟨run_unlocked hlock ((op_bind_ok (readRM_operand hb)).trans (op_bind_ok (getAcc_run _ t))),
      run_unlocked hlock ((op_bind_ok (readRM_operand hb)).trans (op_bind_ok (getAcc_run _ t)))⟩
  · have product {f : Val s.ow → Op Unit} {u : State} (hf : f b t = .ok () u) :
        run false (readRM s.ow rm >>= f) s = completes s u :=
      run_unlocked hlock ((op_bind_ok (readRM_operand hb)).trans hf)
    exact ⟨product rfl, product rfl, product rfl⟩

end Sys2Proof.Machine
end

section
namespace Sys2Proof.Machine

/-! # Division -/

/-- What a divide error leaves: the status flags it drew, or those from before the instruction, by the parameter of
assumption log 53. -/
theorem undone_divideError (s t : State) (f : Status) :
    s.undone (t.drew.setStatus f) ⟨0, none⟩ =
      if s.cfg.divideErrorKeepsFlags then (s.rollback t).drew else ((s.rollback t).drew).setStatus f := by
  have hstatus : (t.drew.setStatus f).status = f := statusOf_withStatus _ f
  rw [State.undone, hstatus]
  cases s.cfg.divideErrorKeepsFlags <;> rfl

/-- A meaning that ends in a divide error. -/
theorem run_divideError {op : Op Unit} {s t : State} {f : Status} (hlock : s.pfx.lock = false)
    (h : op s = .error (.exc ⟨0, none⟩) (t.drew.setStatus f)) :
    run false op s = deliver (faultEvent ⟨0, none⟩ s.eip)
      (if s.cfg.divideErrorKeepsFlags then (s.rollback t).drew else ((s.rollback t).drew).setStatus f) := by
  rw [run_exc (lock_free hlock) h, undone_divideError]

theorem fitsSigned_iff (n : Nat) (v : Int) : fitsSigned n v = true ↔ -2 ^ (n - 1) ≤ v ∧ v < 2 ^ (n - 1) := by
  simp [fitsSigned]

/-- Settles O19: the tests of divisor and quotient, made one after the other, are the one condition of the statement. -/
theorem divideResult : Obligations.DivideResult := by
  intro wide rm s t p d hlock hd k un sn divided error
  have hread : readRM k rm s = .ok d t := readRM_operand hd
  have failed {op : Op Unit} (h : op s = divideError t) : run false op s = error := run_divideError hlock h
  have done {op : Op Unit} {q r : Val k} (h : op s = setQuotient k q r t) : run false op s = divided q r :=
    run_unlocked hlock h
  constructor
  · by_cases hzero : d.toNat = 0
    · rw [if_pos (.inl hzero)]
      exact failed ((op_bind_ok hread).trans (by rw [if_pos hzero]))
    · by_cases hbig : 2 ^ k.bits ≤ un / d.toNat
      · rw [if_pos (.inr hbig)]
        exact failed ((op_bind_ok hread).trans (by rw [if_neg hzero, if_pos hbig]))
      · rw [if_neg (not_or.2 ⟨hzero, hbig⟩)]
        exact done ((op_bind_ok hread).trans (by rw [if_neg hzero, if_neg hbig]))
  · by_cases hzero : d.toInt = 0
    · rw [if_neg fun h => h.1 hzero]
      exact failed ((op_bind_ok hread).trans (by rw [if_pos hzero]))
    · by_cases hfits : fitsSigned k.bits (sn.tdiv d.toInt) = true
      · rw [if_pos ⟨hzero, (fitsSigned_iff _ _).1 hfits⟩]
        exact done ((op_bind_ok hread).trans (by rw [if_neg hzero, if_pos hfits]))
      · rw [if_neg fun h => hfits ((fitsSigned_iff _ _).2 h.2)]
        exact failed ((op_bind_ok hread).trans (by rw [if_neg hzero, if_neg hfits]))

end Sys2Proof.Machine
end

section
namespace Sys2Proof.Machine
variable {s : State}

/-! # Decimal and ASCII adjustment -/

/-! ## AL and AH -/

theorem Regs.set_get_self (g : Regs) (r : Reg) : g.set r (g.get r) = g := by cases r <;> rfl

/-- Putting back the byte that is there changes nothing. -/
theorem putByteAt_self (high : Bool) (x : Dword) :
    putByteAt high x (x.extractLsb' (if high then 8 else 0) 8) = x := by
  refine BitVec.eq_of_getLsbD_eq fun i hi => ?_
  rw [putByteAt_getLsbD _ _ _ hi]
  refine ite_eq_right_iff.2 fun ⟨hlow, hhigh⟩ => ?_
  have hin : i - (if high then 8 else 0) < 8 := by
    cases high <;> simp only [Bool.false_eq_true, if_true, if_false] at hlow hhigh ⊢ <;> omega
  rw [BitVec.getLsbD_extractLsb', Nat.add_sub_cancel' hlow, decide_eq_true hin, Bool.true_and]

/-- The two low bytes may be put in either order. -/
theorem putByteAt_comm (x : Dword) (l h : BitVec 8) :
    putByteAt false (putByteAt true x h) l = putByteAt true (putByteAt false x l) h := by
  refine BitVec.eq_of_getLsbD_eq fun i hi => ?_
  simp only [putByteAt_getLsbD _ _ _ hi, Bool.false_eq_true, if_true, if_false]
  by_cases h8 : i < 8
  · have : ¬ 8 ≤ i := by omega
    simp [h8, this]
  · simp [h8]

theorem Regs.write_read_byte (g : Regs) (r : Reg) : g.write .b r (g.read .b r) = g := by
  show g.set r.byteHome (putByteAt r.byteHigh (g.get r.byteHome) _) = g
  rw [Regs.read, putByteAt_self, g.set_get_self]

theorem State.setReg_reg_byte (s : State) (r : Reg) : s.setReg .b r (s.reg .b r) = s := by
  rw [State.setReg, State.reg, s.regs.write_read_byte]

theorem State.setAh_setAl (s : State) (l h : Val .b) :
    (s.setReg .b .esp h).setReg .b .eax l = (s.setReg .b .eax l).setReg .b .esp h :=
  congrArg (fun x => { s with regs := { s.regs with eax := x } }) (putByteAt_comm s.regs.eax l h)

/-- Writing AL leaves AH: AH written back changes nothing. -/
theorem State.setAl_setAh_self (s : State) (l : Val .b) :
    (s.setReg .b .eax l).setReg .b .esp (s.reg .b .esp) = s.setReg .b .eax l := by
  rw [← s.setAh_setAl, s.setReg_reg_byte]

/-! ## What an adjustment decides and leaves -/

/-- AL, a number of 8 bits. -/
def State.al (s : State) : BitVec 8 := s.reg .b .eax

/-- AH, a number of 8 bits. -/
def State.ah (s : State) : BitVec 8 := s.reg .b .esp

/-- The digit in the low half of AL is adjusted (R396 to R399). -/
def State.lowAdjusts (s : State) : Bool := adjusts s.al s.status.af

/-- The digit in the upper half of AL is adjusted (R396, R397). -/
def State.highAdjusts (s : State) : Bool := decide (0x99 < s.al.toNat) || s.status.cf

/-- AL and AH written, a free value used for the flags. -/
def State.adjusted (s : State) (l h : BitVec 8) (f : Status) : State :=
  ((s.drew.setReg .b .eax l).setReg .b .esp h).setStatus f

/-- An adjustment of AL alone. -/
theorem State.adjusted_ah (s : State) (l : BitVec 8) (f : Status) :
    s.adjusted l s.ah f = (s.drew.setReg .b .eax l).setStatus f :=
  congrArg (·.setStatus f) (s.drew.setAl_setAh_self l)

/-! ## The instructions -/

/-- DAA and DAS, once the digits are adjusted (R396, R397). -/
theorem run_decimalAdjust {f : BitVec 8 → BitVec 8 → BitVec 8} {x : BitVec 8} (hlock : s.pfx.lock = false)
    (hx : x = if s.highAdjusts then f (if s.lowAdjusts then f s.al 6 else s.al) 0x60
      else if s.lowAdjusts then f s.al 6 else s.al) :
    run false (decimalAdjust s f) s = completes s (s.adjusted x s.ah
      ({ undefAt s.free with af := s.lowAdjusts, cf := s.highAdjusts }.ofResult x)) := by
  subst hx
  rw [State.adjusted_ah]
  exact run_unlocked hlock rfl

/-- What AAA and AAS write: AL, AH where the digit was adjusted, the flags (R398, R399). -/
def asciiAdjust (adj : Bool) (l h : BitVec 8) : Op Unit := do
  setAcc .b l
  if adj then setAh h
  let u ← undefStatus
  setStatus { u with af := adj, cf := adj }

theorem asciiAdjust_run (adj : Bool) (l h : BitVec 8) (s : State) : asciiAdjust adj l h s =
    .ok () (s.adjusted l (if adj then h else s.ah) { undefAt s.free with af := adj, cf := adj }) := by
  cases adj
  · exact congrArg (EStateM.Result.ok ()) (s.adjusted_ah l _).symm
  · rfl

theorem execDaa_eq (hlock : s.pfx.lock = false) :
    let x := s.al + (if s.lowAdjusts then 6 else 0) + (if s.highAdjusts then 0x60 else 0)
    execDaa s = completes s (s.adjusted x s.ah
      ({ undefAt s.free with af := s.lowAdjusts, cf := s.highAdjusts }.ofResult x)) :=
  run_decimalAdjust hlock (by cases s.lowAdjusts <;> cases s.highAdjusts <;> simp)

theorem execDas_eq (hlock : s.pfx.lock = false) :
    let x := s.al - (if s.lowAdjusts then 6 else 0) - (if s.highAdjusts then 0x60 else 0)
    execDas s = completes s (s.adjusted x s.ah
      ({ undefAt s.free with af := s.lowAdjusts, cf := s.highAdjusts }.ofResult x)) :=
  run_decimalAdjust hlock (by cases s.lowAdjusts <;> cases s.highAdjusts <;> simp)

theorem execAaa_eq (hlock : s.pfx.lock = false) : execAaa s =
    completes s (s.adjusted ((s.al + if s.lowAdjusts then 6 else 0) &&& 0x0F) (s.ah + if s.lowAdjusts then 1 else 0)
      { undefAt s.free with af := s.lowAdjusts, cf := s.lowAdjusts }) := by
  have hrun := asciiAdjust_run s.lowAdjusts (if s.lowAdjusts then (s.al + 6) &&& 0x0F else s.al &&& 0x0F) (s.ah + 1) s
  refine (run_unlocked hlock ((op_bind_ok (getReg_run .b .esp s)).trans hrun)).trans ?_
  cases s.lowAdjusts <;> simp

theorem execAas_eq (hlock : s.pfx.lock = false) : execAas s =
    completes s (s.adjusted (if s.lowAdjusts then (s.al - 6) &&& 0x0F else
        if s.cfg.aasKeepsAl then s.al else s.al &&& 0x0F) (s.ah - if s.lowAdjusts then 1 else 0)
      { undefAt s.free with af := s.lowAdjusts, cf := s.lowAdjusts }) := by
  have hrun := asciiAdjust_run s.lowAdjusts
    (if s.lowAdjusts then (s.al - 6) &&& 0x0F else if s.cfg.aasKeepsAl then s.al else s.al &&& 0x0F) (s.ah - 1) s
  refine (run_unlocked hlock ((op_bind_ok (getReg_run .b .esp s)).trans hrun)).trans ?_
  cases s.lowAdjusts <;> simp

theorem execAad_eq (i : BitVec 8) (hlock : s.pfx.lock = false) : execAad i s =
    completes s (s.adjusted (s.al + i * s.ah) 0 ((undefAt s.free).ofResult (s.al + i * s.ah))) :=
  run_unlocked hlock rfl

theorem execAam_eq {i : BitVec 8} (hi : i ≠ 0) (hlock : s.pfx.lock = false) : execAam i s =
    completes s (s.adjusted (s.al % i) (s.al / i) ((undefAt s.free).ofResult (s.al % i))) := by
  have horder := congrArg (State.setStatus · ((undefAt s.free).ofResult (s.al % i)))
    (s.drew.setAh_setAl (s.al % i) (s.al / i))
  refine run_unlocked hlock ((op_bind_ok (undefStatus_run s)).trans ?_)
  rw [if_neg hi]
  exact congrArg (EStateM.Result.ok ()) horder

/-- AAM by 0 (R400, D38). -/
theorem execAam_zero (hlock : s.pfx.lock = false) :
    let u := undefAt s.free
    execAam 0 s = deliver (faultEvent ⟨0, none⟩ s.eip) (if s.cfg.divideErrorKeepsFlags then s.drew
      else s.drew.setStatus { s.status with af := u.af, cf := u.cf, of := u.of }) :=
  run_divideError (t := s) hlock rfl

end Sys2Proof.Machine
namespace Sys2Proof.Laws
open Sys2Proof.Machine

/-- Settles O20, instruction by instruction: AL and AH are parts of one register that can be written in either order,
and AH written back as it was changes nothing (`State.adjusted_ah`). -/
theorem decimalAdjust : Obligations.DecimalAdjust := by
  refine ⟨fun s i hlock => ⟨?_, ?_, ?_, ?_, ?_, fun hi => ?_⟩, fun s hlock => ?_⟩
  · exact execDaa_eq hlock
  · exact execDas_eq hlock
  · exact execAaa_eq hlock
  · exact execAas_eq hlock
  · exact execAad_eq i hlock
  · exact execAam_eq hi hlock
  · let u := undefAt s.free
    exact ⟨{ s.status with af := u.af, cf := u.cf, of := u.of }, rfl, rfl, rfl, execAam_zero hlock⟩

end Sys2Proof.Laws
end

section
namespace Sys2Proof.Machine
variable {s t : State} {p : Place} {k : Width} {rm : RM}

/-! # Logic -/

@[simp] theorem logicOp_run (f : {n : Nat} → BitVec n → BitVec n → BitVec n) (k : Width) (a b : Val k) (s : State) :
    logicOp f k a b s = .ok (f a b) (s.logic (f a b)) := op_bind_ok (setLogic_run _ s)

/-- AND, OR and XOR differ in the operation alone: its result is stored with its flags (R420). -/
theorem run_logicUpdate (op : {n : Nat} → BitVec n → BitVec n → BitVec n) {f : AluForm} {a b : Val (f.width s)}
    (hlock : s.pfx.lock = true → f.lockable = true) (hreads : f.reads s true p a b t) :
    run f.lockable (aluUpdate s (logicOp op) f) s = completes s (p.put _ (op a b) (t.logic (op a b))) :=
  run_ok hlock (aluUpdate_ok hreads (logicOp_run op _ a b t))

/-- TEST of an r/m operand with a second operand b: the flags of the AND, and no store (R425). -/
theorem run_testOperand {a : Val k} (b : Val k) (hlock : s.pfx.lock = false) (ha : s.operand k rm false p a t) :
    run false (readRM k rm >>= fun x => setLogic (x &&& b)) s = completes s (t.logic (a &&& b)) :=
  run_unlocked hlock ((op_bind_ok (readRM_operand ha)).trans (setLogic_run _ t))

/-- Settles O21: AND, OR and XOR share `run_logicUpdate`, the r/m forms of TEST `run_testOperand`; the accumulator forms
read no operand that could fault. -/
theorem logicResult : Obligations.LogicResult := by
  refine ⟨fun f s t p a b hlock hreads => ⟨?and, ?or, ?xor⟩,
    fun s t p rm r wide isAlias i i8 hlock =>
      ⟨fun a ha => ?rmReg, fun a ha => ?rmImm8, fun a ha => ?rmImm, ?alImm, ?axImm⟩⟩
  case and => exact run_logicUpdate (· &&& ·) hlock hreads
  case or => exact run_logicUpdate (· ||| ·) hlock hreads
  case xor => exact run_logicUpdate (· ^^^ ·) hlock hreads
  case rmReg => exact run_testOperand (s.reg (s.width wide) r) hlock ha
  case rmImm8 => exact run_testOperand (k := .b) i8 hlock ha
  case rmImm => exact run_testOperand (i.val s.ow) hlock ha
  case alImm | axImm => exact run_unlocked hlock (setLogic_run _ s)

end Sys2Proof.Machine
end

section
namespace Sys2Proof.Machine
variable {n m : Nat}

/-! # Shifts and rotates, bit by bit -/

/-! ## Repeated steps -/

/-- The last step of several. -/
theorem shiftBy_succ (step : ShiftStep) (c : Nat) (p : BitVec n × Bool) :
    shiftBy step (c + 1) p = step (shiftBy step c p).1 (shiftBy step c p).2 := by
  induction c generalizing p with
  | zero => rfl
  | succ c ih => exact ih _

/-- Where one step is an operation of count 1 on a view of operand and CF, and counts add up, c steps are the operation
of count c. -/
theorem view_shiftBy {step : ShiftStep} {view : BitVec n × Bool → BitVec m} {whole : BitVec m → Nat → BitVec m}
    (zero : ∀ v, whole v 0 = v) (add : ∀ v c d, whole v (c + d) = whole (whole v c) d)
    (one : ∀ p, view (step p.1 p.2) = whole (view p) 1) (c : Nat) (p : BitVec n × Bool) :
    view (shiftBy step c p) = whole (view p) c := by
  induction c with
  | zero => exact (zero _).symm
  | succ c ih => rw [shiftBy_succ, one, ih, add]

/-! ## The bits of one step -/

theorem getLsbD_lowBit (b : Bool) (i : Nat) : (lowBit n b).getLsbD i = (decide (i < n) && decide (i = 0) && b) := by
  cases i <;> simp [lowBit]

/-- A bit comes in at the low end. -/
theorem getLsbD_shiftInLow (x : BitVec n) (b : Bool) {i : Nat} (hi : i < n) :
    (x <<< 1 ||| lowBit n b).getLsbD i = if i = 0 then b else x.getLsbD (i - 1) := by
  rw [BitVec.getLsbD_or, BitVec.getLsbD_shiftLeft, getLsbD_lowBit]
  cases i <;> simp [hi]

/-- A bit comes in at the high end. -/
theorem getLsbD_shiftInHigh (x : BitVec n) (b : Bool) {i : Nat} (hi : i < n) :
    (x >>> 1 ||| highBit n b).getLsbD i = if i + 1 = n then b else x.getLsbD (i + 1) := by
  rw [BitVec.getLsbD_or, BitVec.getLsbD_ushiftRight, highBit, BitVec.getLsbD_shiftLeft, getLsbD_lowBit, Nat.add_comm 1]
  by_cases hlast : i + 1 = n
  · subst hlast
    simp
  · have : i < n - 1 := by omega
    simp [this, hlast]

/-! ## Whole rotations -/

/-- A rotation to the right brings bit i + c, counted around, to place i. -/
theorem getLsbD_rotateRight_mod (x : BitVec n) (c : Nat) {i : Nat} (hi : i < n) :
    (x.rotateRight c).getLsbD i = x.getLsbD ((c + i) % n) := by
  have hc : c % n < n := Nat.mod_lt c (by omega)
  rw [BitVec.getLsbD_rotateRight, ← Nat.mod_add_mod]
  by_cases hin : i < n - c % n
  · rw [decide_eq_true hin, cond_true, Nat.mod_eq_of_lt (show c % n + i < n by omega)]
  · rw [decide_eq_false hin, cond_false, decide_eq_true hi, Bool.true_and,
      Nat.mod_eq_sub_mod (show n ≤ c % n + i by omega), Nat.mod_eq_of_lt (show c % n + i - n < n by omega)]
    exact congrArg x.getLsbD (by omega)

theorem rotateRight_add (x : BitVec n) (c d : Nat) : x.rotateRight (c + d) = (x.rotateRight c).rotateRight d := by
  refine BitVec.eq_of_getLsbD_eq fun i hi => ?_
  rw [getLsbD_rotateRight_mod _ _ hi, getLsbD_rotateRight_mod _ _ hi,
    getLsbD_rotateRight_mod _ _ (Nat.mod_lt _ (by omega)), Nat.add_mod_mod, Nat.add_assoc]

theorem rotateLeft_add (x : BitVec n) (c d : Nat) : x.rotateLeft (c + d) = (x.rotateLeft c).rotateLeft d := by
  refine BitVec.eq_of_getMsbD_eq fun i hi => ?_
  have hlt : (d + i) % n < n := Nat.mod_lt _ (by omega)
  simp only [BitVec.getMsbD_rotateLeft, hi, hlt, decide_true, Bool.true_and, Nat.add_mod_mod, Nat.add_assoc]

theorem rotateLeft_zero (x : BitVec n) : x.rotateLeft 0 = x :=
  BitVec.eq_of_getMsbD_eq fun i hi => by simp [BitVec.getMsbD_rotateLeft, Nat.mod_eq_of_lt hi, hi]

theorem rotateRight_zero (x : BitVec n) : x.rotateRight 0 = x :=
  BitVec.eq_of_getLsbD_eq fun i hi => by rw [getLsbD_rotateRight_mod x 0 hi, Nat.zero_add, Nat.mod_eq_of_lt hi]

theorem getLsbD_rotateLeft_one (hn : 1 < n) (x : BitVec n) {i : Nat} (hi : i < n) :
    (x.rotateLeft 1).getLsbD i = if i = 0 then x.msb else x.getLsbD (i - 1) := by
  rw [BitVec.getLsbD_rotateLeft, Nat.mod_eq_of_lt hn, BitVec.msb_eq_getLsbD_last]
  cases i <;> simp [hi]

theorem getLsbD_rotateRight_one (x : BitVec n) {i : Nat} (hi : i < n) :
    (x.rotateRight 1).getLsbD i = if i + 1 = n then x.getLsbD 0 else x.getLsbD (i + 1) := by
  rw [getLsbD_rotateRight_mod x 1 hi, Nat.add_comm]
  split
  · next hlast => rw [hlast, Nat.mod_self]
  · next hlast => rw [Nat.mod_eq_of_lt (by omega)]

/-! ## One step as a whole -/

theorem rolStep_fst (hn : 1 < n) (p : BitVec n × Bool) : (rolStep p.1 p.2).1 = p.1.rotateLeft 1 :=
  BitVec.eq_of_getLsbD_eq fun _ hi => (getLsbD_shiftInLow _ _ hi).trans (getLsbD_rotateLeft_one hn _ hi).symm

theorem rorStep_fst (p : BitVec n × Bool) : (rorStep p.1 p.2).1 = p.1.rotateRight 1 :=
  BitVec.eq_of_getLsbD_eq fun _ hi => (getLsbD_shiftInHigh _ _ hi).trans (getLsbD_rotateRight_one _ hi).symm

/-- The bit rotated out at the top is the new lowest bit. -/
theorem rolStep_carry (hn : 0 < n) (x : BitVec n) (cf : Bool) : (rolStep x cf).2 = (rolStep x cf).1.getLsbD 0 :=
  (getLsbD_shiftInLow x x.msb hn).symm

/-- The bit rotated out at the bottom is the new sign bit. -/
theorem rorStep_carry (hn : 0 < n) (x : BitVec n) (cf : Bool) : (rorStep x cf).2 = (rorStep x cf).1.msb := by
  rw [BitVec.msb_eq_getLsbD_last, rorStep, getLsbD_shiftInHigh _ _ (by omega), if_pos (by omega)]

theorem sarStep_fst (p : BitVec n × Bool) : (sarStep p.1 p.2).1 = p.1.sshiftRight 1 := by
  refine BitVec.eq_of_getLsbD_eq fun i hi => (getLsbD_shiftInHigh _ _ hi).trans ?_
  rw [BitVec.getLsbD_sshiftRight, decide_eq_false (Nat.not_le.2 hi), Nat.add_comm 1]
  by_cases hlast : i + 1 = n
  · simp [hlast]
  · simp [hlast, show i + 1 < n by omega]

/-- CF and the operand as one word, CF above the most significant bit. -/
def carryWord (p : BitVec n × Bool) : BitVec (1 + n) := BitVec.ofBool p.2 ++ p.1

theorem getLsbD_carryWord (p : BitVec n × Bool) {i : Nat} (hi : i ≤ n) :
    (carryWord p).getLsbD i = if i = n then p.2 else p.1.getLsbD i := by
  rw [carryWord, BitVec.getLsbD_append]
  by_cases htop : i = n
  · simp [htop]
  · simp [htop, show i < n by omega]

theorem msb_carryWord (p : BitVec n × Bool) : (carryWord p).msb = p.2 := by
  rw [carryWord, BitVec.msb_append]
  simp

/-- RCL by one rotates CF and the operand as one word (R445). -/
theorem carryWord_rclStep (hn : 1 < n) (p : BitVec n × Bool) :
    carryWord (rclStep p.1 p.2) = (carryWord p).rotateLeft 1 := by
  refine BitVec.eq_of_getLsbD_eq fun i hi => ?_
  rw [getLsbD_rotateLeft_one (by omega) _ hi, msb_carryWord, getLsbD_carryWord _ (by omega),
    getLsbD_carryWord _ (by omega), if_neg (show ¬ i - 1 = n by omega)]
  by_cases htop : i = n
  · rw [if_pos htop, if_neg (by omega), htop]
    exact BitVec.msb_eq_getLsbD_last p.1
  · rw [if_neg htop]
    exact getLsbD_shiftInLow p.1 p.2 (by omega)

/-- RCR by one rotates CF and the operand as one word (R446). -/
theorem carryWord_rcrStep (hn : 1 < n) (p : BitVec n × Bool) :
    carryWord (rcrStep p.1 p.2) = (carryWord p).rotateRight 1 := by
  refine BitVec.eq_of_getLsbD_eq fun i hi => ?_
  rw [getLsbD_rotateRight_one _ hi, getLsbD_carryWord _ (by omega), getLsbD_carryWord _ (by omega),
    if_neg (show ¬ 0 = n by omega)]
  by_cases htop : i = n
  · rw [if_pos htop, if_pos (by omega)]
    rfl
  · rw [if_neg htop, if_neg (by omega), getLsbD_carryWord _ (by omega)]
    exact getLsbD_shiftInHigh p.1 p.2 (by omega)

/-! ## Several steps as a whole -/

theorem shiftBy_rolStep (hn : 1 < n) (c : Nat) (p : BitVec n × Bool) :
    (shiftBy rolStep c p).1 = p.1.rotateLeft c :=
  view_shiftBy (view := Prod.fst) rotateLeft_zero rotateLeft_add (rolStep_fst hn) c p

theorem shiftBy_rorStep (c : Nat) (p : BitVec n × Bool) : (shiftBy rorStep c p).1 = p.1.rotateRight c :=
  view_shiftBy (view := Prod.fst) rotateRight_zero rotateRight_add rorStep_fst c p

theorem shiftBy_rclStep (hn : 1 < n) (c : Nat) (p : BitVec n × Bool) :
    carryWord (shiftBy rclStep c p) = (carryWord p).rotateLeft c :=
  view_shiftBy rotateLeft_zero rotateLeft_add (carryWord_rclStep hn) c p

theorem shiftBy_rcrStep (hn : 1 < n) (c : Nat) (p : BitVec n × Bool) :
    carryWord (shiftBy rcrStep c p) = (carryWord p).rotateRight c :=
  view_shiftBy rotateRight_zero rotateRight_add (carryWord_rcrStep hn) c p

theorem shiftBy_shlStep (c : Nat) (p : BitVec n × Bool) : (shiftBy shlStep c p).1 = p.1 <<< c :=
  view_shiftBy (view := Prod.fst) (whole := (· <<< ·)) BitVec.shiftLeft_zero BitVec.shiftLeft_add
    (fun _ => rfl) c p

theorem shiftBy_shrStep (c : Nat) (p : BitVec n × Bool) : (shiftBy shrStep c p).1 = p.1 >>> c :=
  view_shiftBy (view := Prod.fst) (whole := (· >>> ·)) BitVec.ushiftRight_zero BitVec.shiftRight_add
    (fun _ => rfl) c p

theorem shiftBy_sarStep (c : Nat) (p : BitVec n × Bool) : (shiftBy sarStep c p).1 = p.1.sshiftRight c :=
  view_shiftBy (view := Prod.fst) (fun _ => BitVec.sshiftRight_zero) (fun _ _ _ => BitVec.sshiftRight_add)
    sarStep_fst c p

/-! ## CF of the last step -/

theorem shiftBy_shlStep_carry {c : Nat} (h0 : 0 < c) (hc : c ≤ n) (p : BitVec n × Bool) :
    (shiftBy shlStep c p).2 = p.1.getLsbD (n - c) := by
  obtain ⟨d, rfl⟩ := Nat.exists_eq_add_one.2 h0
  calc (shiftBy shlStep (d + 1) p).2 = (shiftBy shlStep d p).1.msb := by rw [shiftBy_succ]; rfl
    _ = p.1.getMsbD d := by rw [shiftBy_shlStep, BitVec.msb_shiftLeft]
    _ = p.1.getLsbD (n - (d + 1)) := by
      rw [BitVec.getMsbD_eq_getLsbD, decide_eq_true (by omega), Bool.true_and, Nat.sub_sub, Nat.add_comm]

theorem shiftBy_shrStep_carry {c : Nat} (h0 : 0 < c) (p : BitVec n × Bool) :
    (shiftBy shrStep c p).2 = p.1.getLsbD (c - 1) := by
  obtain ⟨d, rfl⟩ := Nat.exists_eq_add_one.2 h0
  calc (shiftBy shrStep (d + 1) p).2 = (shiftBy shrStep d p).1.getLsbD 0 := by rw [shiftBy_succ]; rfl
    _ = p.1.getLsbD d := by rw [shiftBy_shrStep, BitVec.getLsbD_ushiftRight, Nat.add_zero]

theorem shiftBy_sarStep_carry {c : Nat} (h0 : 0 < c) (hc : c ≤ n) (p : BitVec n × Bool) :
    (shiftBy sarStep c p).2 = p.1.getLsbD (c - 1) := by
  obtain ⟨d, rfl⟩ := Nat.exists_eq_add_one.2 h0
  calc (shiftBy sarStep (d + 1) p).2 = (shiftBy sarStep d p).1.getLsbD 0 := by rw [shiftBy_succ]; rfl
    _ = p.1.getLsbD d := by
      rw [shiftBy_sarStep, BitVec.getLsbD_sshiftRight, decide_eq_false (by omega), Nat.add_zero, if_pos (by omega),
        Bool.not_false, Bool.true_and]

theorem shiftBy_rolStep_carry (hn : 1 < n) {c : Nat} (h0 : 0 < c) (p : BitVec n × Bool) :
    (shiftBy rolStep c p).2 = (p.1.rotateLeft c).getLsbD 0 := by
  obtain ⟨d, rfl⟩ := Nat.exists_eq_add_one.2 h0
  rw [← shiftBy_rolStep hn, shiftBy_succ, rolStep_carry (by omega)]

theorem shiftBy_rorStep_carry (hn : 1 < n) {c : Nat} (h0 : 0 < c) (p : BitVec n × Bool) :
    (shiftBy rorStep c p).2 = (p.1.rotateRight c).msb := by
  obtain ⟨d, rfl⟩ := Nat.exists_eq_add_one.2 h0
  rw [← shiftBy_rorStep, shiftBy_succ, rorStep_carry (by omega)]

/-- Settles O22: each step is a shift or rotation by one of the operand, or of CF and the operand as one word, and
counts add up (`view_shiftBy`); counts of a rotation are taken modulo the width rotated. -/
theorem shiftsAsAWhole : Obligations.ShiftsAsAWhole := by
  intro n x cf c hn
  let p := (x, cf)
  rw [BitVec.rotateLeft_mod_eq_rotateLeft, BitVec.rotateRight_mod_eq_rotateRight, Nat.add_comm n 1,
    BitVec.rotateLeft_mod_eq_rotateLeft, BitVec.rotateRight_mod_eq_rotateRight]
  exact ⟨shiftBy_rolStep hn c p, shiftBy_rorStep c p, shiftBy_rclStep hn c p, shiftBy_rcrStep hn c p,
    shiftBy_shlStep c p, shiftBy_shrStep c p, shiftBy_sarStep c p, fun h0 hc => shiftBy_shlStep_carry h0 hc p,
    fun h0 => shiftBy_shrStep_carry h0 p, fun h0 hc => shiftBy_sarStep_carry h0 hc p,
    fun h0 => shiftBy_rolStep_carry hn h0 p, fun h0 => shiftBy_rorStep_carry hn h0 p⟩

end Sys2Proof.Machine
end

section
namespace Sys2Proof.Machine
variable {s t u : State} {p : Place} {k : Width} {rm : RM}

/-! # The shift and rotate instructions -/

/-- An operation with a count on an r/m operand: a count of 0 writes the operand back (R441, D39). -/
theorem run_counted {c : Nat} {a v : Val k} {f : Val k → Op (Val k)} (hlock : s.pfx.lock = false)
    (ha : s.operand k rm true p a t) (hf : c ≠ 0 → f a t = .ok v u) :
    run false (updateRM k rm fun x => if c = 0 then return x else f x) s =
      if c = 0 then completes s (p.put k a t) else completes s (p.put k v u) := by
  by_cases h0 : c = 0
  · rw [if_pos h0]
    exact run_unlocked hlock (updateRM_operand ha (by rw [if_pos h0, op_pure]))
  · rw [if_neg h0]
    exact run_unlocked hlock (updateRM_operand ha (by rw [if_neg h0, hf h0]))

/-- A rotate: the step repeated, CF from the last (R441, R442). -/
theorem run_rotate {wide : Bool} {a : Val (s.width wide)} (step : ShiftStep) (n : ShiftCount)
    (hlock : s.pfx.lock = false) (ha : s.operand (s.width wide) rm true p a t) :
    let c := shiftCount s n
    let r := shiftBy step c (a, s.status.cf)
    run false (rotate s wide rm n step) s =
      if c = 0 then completes s (p.put _ a t)
      else completes s (p.put _ r.1 (t.drew.setStatus
        { s.status with cf := r.2, of := if c = 1 then r.1.msb != r.2 else (undefAt t.free).of })) :=
  run_counted hlock ha fun _ => rfl

/-- A shift: the step repeated, CF from the last, OF of a single step as given (R441, R447). -/
theorem run_shift {wide : Bool} {a : Val (s.width wide)} (step : ShiftStep)
    (of : {n : Nat} → BitVec n → BitVec n → Bool → Bool) (n : ShiftCount)
    (hlock : s.pfx.lock = false) (ha : s.operand (s.width wide) rm true p a t) :
    let c := shiftCount s n
    let r := shiftBy step c (a, s.status.cf)
    run false (shift s wide rm n step of) s =
      if c = 0 then completes s (p.put _ a t)
      else completes s (p.put _ r.1 (t.drew.setStatus ({ undefAt t.free with
        cf := r.2, of := if c = 1 then of a r.1 r.2 else (undefAt t.free).of }.ofResult r.1))) :=
  run_counted hlock ha fun _ => rfl

/-- After one step of SHL, CF is the old sign bit: it differs from the new one where the sign changed (R447, conflict
C45). -/
theorem shlStep_signChange {n : Nat} (a : BitVec n) (cf d : Bool) (c : Nat) :
    let r := shiftBy shlStep c (a, cf)
    (if c = 1 then r.1.msb != r.2 else d) = if c = 1 then a.msb != (a <<< 1).msb else d := by
  intro r
  refine if_ctx_congr Iff.rfl (fun h1 => ?_) fun _ => rfl
  subst h1
  exact bne_comm

/-- Settles O23: rotates and shifts differ in the step alone (`run_rotate`, `run_shift`); the model's OF of SHL compares
with CF, the statement's with the old sign bit (`shlStep_signChange`). -/
theorem shiftRotateResult : Obligations.ShiftRotateResult := by
  refine ⟨fun wide rm n s t p a hlock ha => ⟨?rol, ?ror, ?rcl, ?rcr⟩,
    fun al wide rm n s t p a hlock ha => ⟨?shl, ?shr, ?sar⟩⟩
  case rol => exact run_rotate rolStep n hlock ha
  case ror => exact run_rotate rorStep n hlock ha
  case rcl => exact run_rotate rclStep n hlock ha
  case rcr => exact run_rotate rcrStep n hlock ha
  case shl =>
    dsimp only
    rw [← shlStep_signChange a s.status.cf]
    exact run_shift shlStep (fun _ r cf => r.msb != cf) n hlock ha
  case shr => exact run_shift shrStep (fun x _ _ => x.msb) n hlock ha
  case sar => exact run_shift sarStep (fun _ _ _ => false) n hlock ha

/-! # Double shifts -/

/-- What SHLD keeps of two words: the first, and bits of the second below it (R451). -/
theorem extractUpper_shiftLeft {n c : Nat} (x y : BitVec n) (hc : c ≤ n) :
    ((x ++ y) <<< c).extractLsb' n n = x <<< c ||| y >>> (n - c) := by
  refine BitVec.eq_of_getLsbD_eq fun i hi => ?_
  rw [BitVec.getLsbD_extractLsb', BitVec.getLsbD_shiftLeft, BitVec.getLsbD_append, BitVec.getLsbD_or,
    BitVec.getLsbD_shiftLeft, BitVec.getLsbD_ushiftRight]
  have hcount : ¬ n + i < c := by omega
  by_cases hin : i < c
  · have hplace : n + i - c = n - c + i := by omega
    have hlow : n - c + i < n := by omega
    simp [hi, hin, hcount, hplace, hlow]
  · have hplace : n + i - c = n + (i - c) := by omega
    have hout : y.getLsbD (n - c + i) = false := BitVec.getLsbD_of_ge y _ (by omega)
    simp [hi, hin, hcount, hplace, hout]

/-- What SHRD keeps of two words: the second, and bits of the first above it (R452). -/
theorem extractLower_shiftRight {n c : Nat} (x y : BitVec n) (hc : c ≤ n) :
    ((y ++ x) >>> c).extractLsb' 0 n = x >>> c ||| y <<< (n - c) := by
  refine BitVec.eq_of_getLsbD_eq fun i hi => ?_
  rw [BitVec.getLsbD_extractLsb', BitVec.getLsbD_ushiftRight, BitVec.getLsbD_append, BitVec.getLsbD_or,
    BitVec.getLsbD_shiftLeft, BitVec.getLsbD_ushiftRight, Nat.zero_add]
  by_cases hin : i < n - c
  · have hlow : c + i < n := by omega
    simp [hi, hin, hlow]
  · have hplace : c + i - n = i - (n - c) := by omega
    have hout : x.getLsbD (c + i) = false := BitVec.getLsbD_of_ge x _ (by omega)
    have hhigh : ¬ c + i < n := by omega
    simp [hi, hin, hhigh, hplace, hout]

/-- A double shift whose result is x and cf for a count up to the width (R451, D41). -/
theorem run_doubleShift {a x : Val s.ow} {cf : Bool} {f : Val s.ow → Nat → Val s.ow × Bool} (n : DoubleCount)
    (hlock : s.pfx.lock = false) (ha : s.operand s.ow rm true p a t)
    (hf : doubleCount s n ≤ s.ow.bits → f a (doubleCount s n) = (x, cf)) :
    let c := doubleCount s n
    run false (doubleShift s rm n f) s =
      if c = 0 then completes s (p.put _ a t)
      else if c ≤ s.ow.bits then completes s (p.put _ x (t.drew.setStatus
        ({ undefAt t.free with cf := cf }.ofResult x)))
      else completes s (p.put s.ow ((Config.undefDword (t.free + 1)).setWidth s.ow.bits)
        (t.drew.drew.setStatus (undefAt t.free))) := by
  intro c
  by_cases hc : c ≤ s.ow.bits
  · rw [if_pos hc]
    exact run_counted hlock ha fun _ => by rw [op_bind_ok (undefStatus_run t), if_pos hc, hf hc]; rfl
  · rw [if_neg hc]
    exact run_counted hlock ha fun _ => by rw [op_bind_ok (undefStatus_run t), if_neg hc]; rfl

/-- Settles O24: the model shifts operand and register as one word and keeps a half of it; the half is operand and
register bits put side by side (`extractUpper_shiftLeft`, `extractLower_shiftRight`). -/
theorem doubleShiftResult : Obligations.DoubleShiftResult := by
  intro rm r n s t p a hlock ha c b w result
  constructor
  · exact run_doubleShift n hlock ha fun hc => congrArg (·, _) (extractUpper_shiftLeft a b hc)
  · exact run_doubleShift n hlock ha fun hc => congrArg (·, _) (extractLower_shiftRight a b hc)

end Sys2Proof.Machine
end

section
namespace Sys2Proof.Machine
variable {α β : Type} {s t u : State}

/-! # The system registers outside level 0

`Confined` is the frame of an operation that leaves the registers of the system alone, also where it stops. Only the
instructions reserved for level 0 write them, and outside level 0 those stop at their test. -/

/-- What only level 0 may change: the table registers, the breakpoint addresses, the test registers, CR0 but for TS, the
enable bits of the instruction cache and of SuperState V; and what no instruction changes: the event lines and the
parameters (61_protection_tasks.md R752, 49_system_misc.md R664). -/
structure SystemRegs where
  gdtr : TableReg
  idtr : TableReg
  tr6 : Dword
  tr7 : Dword
  dr0 : Dword
  dr1 : Dword
  dr2 : Dword
  dr3 : Dword
  cr0 : Dword
  icacheOn : Bool
  ssvOn : Bool
  lines : Lines
  cfg : Config.Params

def State.system (s : State) : SystemRegs :=
  { gdtr := s.gdtr, idtr := s.idtr, tr6 := s.tr6, tr7 := s.tr7, dr0 := s.dregs.dr0, dr1 := s.dregs.dr1,
    dr2 := s.dregs.dr2, dr3 := s.dregs.dr3, cr0 := s.cr0 &&& 0xFFFFFFF7, icacheOn := s.icache.enabled,
    ssvOn := s.ssv.enabled, lines := s.lines, cfg := s.cfg }

/-! ## States -/

theorem ICache.onStore_enabled (c : ICache) (pa : Dword) : (c.onStore pa).enabled = c.enabled := by
  unfold ICache.onStore
  dsimp only
  split <;> rfl

@[simp] theorem State.putByte_system (s : State) (pa : Dword) (v : Byte) : (s.putByte pa v).system = s.system := by
  unfold State.system
  rw [show (s.putByte pa v).icache.enabled = s.icache.enabled from ICache.onStore_enabled _ _]
  rfl

@[simp] theorem Ref.store_system (r : Ref) (v : Nat) : ∀ (n i : Nat) (s : State), (r.store v n i s).system = s.system
  | 0, _, _ => rfl
  | n + 1, i, s => (Ref.store_system r v n (i + 1) _).trans (s.putByte_system _ _)

theorem State.orPhys32_system (s : State) (pa bits : Dword) : (s.orPhys32 pa bits).system = s.system := by
  simp only [State.orPhys32, State.putPhys32]
  split
  · rfl
  · simp only [State.putByte_system]
    rfl

theorem State.enterTask_system (s : State) (sel : BitVec 16) (d : Desc) (reason : TaskReason) (i : TaskImage) :
    (s.enterTask sel d reason i).system = s.system := by
  unfold State.system
  rw [show (s.enterTask sel d reason i).cr0 &&& 0xFFFFFFF7 = s.cr0 &&& 0xFFFFFFF7 from set_and rfl]
  rfl

/-- What a fault leaves done changes no system register that the operation left alone. -/
theorem State.rollback_system (h : t.system = s.system) : (s.rollback t).system = s.system := by
  simp only [State.system, State.rollback, SystemRegs.mk.injEq] at h ⊢
  simp only [h, and_self]

theorem State.undone_system (h : t.system = s.system) (x : Exn) : (s.undone t x).system = s.system := by
  unfold State.undone
  split
  · exact rollback_system h
  · exact rollback_system h

/-! ## Operations that write no system register -/

/-- The operation leaves the system registers alone, whether it completes or stops. -/
def Confined (x : Op α) : Prop := ∀ s, (endState (x s)).system = s.system

namespace Confined

/-- An operation that always completes. -/
theorem of_ok {x : Op α} {f : State → α} {g : State → State} (h : ∀ s, x s = .ok (f s) (g s))
    (hg : ∀ s, (g s).system = s.system) : Confined x := fun s => by
  rw [h]
  exact hg s

theorem pure {a : α} : Confined (Pure.pure a : Op α) := fun _ => rfl

theorem get : Confined (MonadState.get : Op State) := fun _ => rfl

theorem update {f : State → State} (h : ∀ s, (f s).system = s.system) :
    Confined (modify f : Op Unit) := h

theorem raise {v : Byte} {c : Option (BitVec 16)} : Confined (Machine.raise v c : Op α) := fun _ => rfl

theorem stop {e : Stop} : Confined (throw e : Op α) := fun _ => rfl

theorem bind {x : Op α} {f : α → Op β} (hx : Confined x) (hf : ∀ {a}, Confined (f a)) : Confined (x >>= f) :=
  fun s => by
    have h := hx s
    rw [op_bind]
    cases hxs : x s with
    | ok a t =>
      rw [hxs] at h
      exact (hf t).trans h
    | error e t =>
      rw [hxs] at h
      exact h

theorem ite {c : Prop} [Decidable c] {x y : Op α} (hx : Confined x) (hy : Confined y) :
    Confined (if c then x else y) := by
  split <;> assumption

/-- What may come first, and the rest. -/
theorem first {c : Prop} [Decidable c] {x : Op Unit} {k : Unit → Op β} (hx : Confined x) (hk : Confined (k ())) :
    Confined (if c then x >>= k else k ()) := .ite (.bind hx hk) hk

/-- Either of two, and the rest. -/
theorem either {c : Prop} [Decidable c] {x y : Op α} {f : α → Op β} (hx : Confined x) (hy : Confined y)
    (hf : ∀ {a}, Confined (f a)) : Confined (if c then x >>= f else y >>= f) := .ite (.bind hx hf) (.bind hy hf)

/-! ### Memory -/

theorem fresh : Confined Machine.fresh := .of_ok fresh_run fun _ => rfl

theorem probeWalk {la fa w u} : Confined (Machine.probeWalk la fa w u) := by
  intro s
  unfold Machine.probeWalk
  cases s.walk la w u <;> rfl

theorem probePage {la fa w u} : Confined (Machine.probePage la fa w u) :=
  .bind .get <| .ite .pure <| by
    dsimp only
    split
    · exact .probeWalk
    · exact .bind .fresh <| .ite (.ite .pure .probeWalk) <| .bind (.update fun _ => rfl) .probeWalk
    · exact .stop

theorem probe {lin n w u} : Confined (Machine.probe lin n w u) :=
  .ite (.bind .probePage .pure) <| .bind .get <|
    .ite (.bind .probePage <| .bind .probePage .pure) <|
      .bind .fresh <| .ite (.bind .probePage <| .bind .probePage .pure) <| .bind .probePage <| .bind .probePage .pure

theorem touch {p w} : Confined (Machine.touch p w) :=
  .bind .get <| .ite (by
    cases p.fill with
    | none => exact (.update fun _ => rfl)
    | some _ =>
      exact .bind .fresh <| .bind (.update fun s => (State.orPhys32_system _ _ _).trans (s.orPhys32_system _ _)) <|
        .bind .get <| .bind (.update fun _ => rfl) (.update fun _ => rfl)) .pure

theorem touchRef {r w} : Confined (Machine.touchRef r w) :=
  .bind .touch <| by cases r.hi with
    | none => exact .pure
    | some p => exact .touch

theorem loadRef {r} : Confined (Machine.loadRef r) := .of_ok (fun _ => rfl) fun _ => rfl

theorem readRef {r} : Confined (Machine.readRef r) := .bind .touchRef <| .bind (.update fun _ => rfl) .loadRef

theorem writeRef {r v} : Confined (Machine.writeRef r v) := .bind .touchRef <| .update (Ref.store_system r v _ _)

theorem linRead {lin n} : Confined (Machine.linRead lin n) := .bind .probe <| .bind .touchRef .loadRef

theorem sysWrite {r v} : Confined (Machine.sysWrite r v) := .bind .touchRef <| .update (Ref.store_system r v _ _)

theorem linWrite {lin n v} : Confined (Machine.linWrite lin n v) := .bind .probe .sysWrite

/-! ### Segments -/

theorem checkVia {r k c off n w} : Confined (Machine.checkVia r k c off n w) :=
  .bind .get <| @fun s => by
    cases r.check s.prot off.toNat n w with
    | ok => exact .pure
    | nullSelector => exact .raise
    | violation => exact .ite .raise .raise

theorem prepareVia {r k c off n w u} : Confined (Machine.prepareVia r k c off n w u) := .bind .checkVia .probe

theorem prepare {k off n w} : Confined (Machine.prepare k off n w) := .bind .get .prepareVia

theorem checkWhole {k off n w} : Confined (Machine.checkWhole k off n w) := .bind .get .checkVia

theorem readRefs : ∀ {l : List Ref}, Confined (Machine.readRefs l)
  | [] => .pure
  | _ :: _ => .bind .readRef <| .bind readRefs .pure

theorem memRead {k off n} : Confined (Machine.memRead k off n) := .bind .prepare .readRef

theorem memWrite {k off n v} : Confined (Machine.memWrite k off n v) := .bind .prepare .writeRef

theorem descFetch {sel} : Confined (Machine.descFetch sel) :=
  .bind .get <| @fun s => by
    cases s.descAddr sel with
    | none => exact .pure
    | some lin => exact .bind .linRead <| .bind .linRead .pure

theorem descRead {lin} : Confined (Machine.descRead lin) := .bind .linRead .pure

theorem descOr {sel v c} : Confined (Machine.descOr sel (Machine.raise v c)) :=
  .bind .descFetch <| @fun d => by
    cases d with
    | none => exact .raise
    | some d => exact .pure

theorem descUpdate {d a b} : Confined (Machine.descUpdate d a b) := .bind .linRead .linWrite

theorem setAccessed {d} : Confined (Machine.setAccessed d) := .descUpdate

theorem checkData {level sel v c} : Confined (Machine.checkData level sel (Machine.raise v c)) :=
  .bind .descOr <| .ite .raise <| .ite .raise <| .ite .raise .pure

theorem checkStack {level sel v c} : Confined (Machine.checkStack level sel (Machine.raise v c)) :=
  .bind .descOr <| .ite .raise <| .ite .raise <| .ite .raise <| .ite .raise .pure

theorem loadDataProt {k sel} : Confined (Machine.loadDataProt k sel) :=
  .bind .get <| .ite (.update fun _ => rfl) <| .bind .checkData <| .bind .setAccessed (.update fun _ => rfl)

theorem loadStackProt {sel} : Confined (Machine.loadStackProt sel) :=
  .bind .get <| .ite .raise <| .bind .checkStack <| .bind .setAccessed (.update fun _ => rfl)

theorem loadSeg {k sel} : Confined (Machine.loadSeg k sel) :=
  .bind .get <| .ite (.update fun _ => rfl) <| .ite (.update fun _ => rfl) <| .ite .loadStackProt .loadDataProt

theorem loadLdtr {sel} : Confined (Machine.loadLdtr sel) :=
  .ite (.update fun _ => rfl) <| .ite .raise <| .bind .descOr <| .ite .raise <| .ite .raise (.update fun _ => rfl)

theorem loadTr {sel} : Confined (Machine.loadTr sel) :=
  .ite .raise <| .ite .raise <| .bind .descOr <| .ite .raise <| .ite .raise <| .bind .descUpdate (.update fun _ => rfl)

/-! ### The stack -/

theorem preparePushes {ss c u} : ∀ {items : List (Nat × Nat)} {sp}, Confined (Machine.preparePushes ss c u sp items)
  | [], _ => .pure
  | (_, _) :: _, _ => .bind .prepareVia <| .bind preparePushes .pure

theorem writeAll : ∀ {l : List (Ref × Nat)}, Confined (Machine.writeAll l)
  | [] => .pure
  | (_, _) :: _ => .bind .writeRef writeAll

theorem pushItems {items} : Confined (Machine.pushItems items) :=
  .bind .get <| .bind .preparePushes <| .bind .writeAll (.update fun _ => rfl)

theorem stackRead {sp k n} : Confined (Machine.stackRead sp k n) := .bind .get .memRead

theorem prepareStack {sp n} : ∀ {ks : List Nat}, Confined (Machine.prepareStack sp n ks)
  | [] => .pure
  | _ :: _ => .bind .get <| .bind .prepare <| .bind prepareStack .pure

theorem stackReads {sp n ks} : Confined (Machine.stackReads sp n ks) := .bind .prepareStack .readRefs

theorem pop {n} : Confined (Machine.pop n) := .bind .get <| .bind .memRead <| .bind (.update fun _ => rfl) .pure

theorem selItem {n sel} : Confined (Machine.selItem n sel) := .ite (.bind .fresh .pure) .pure

/-! ### Transfers and tasks -/

theorem commitCS {sel d level off} : Confined (Machine.commitCS sel d level off) :=
  .bind .setAccessed (.update fun _ => rfl)

theorem commitReal {sel off} : Confined (Machine.commitReal sel off) := .bind .loadSeg (.update fun _ => rfl)

theorem innerStack {level ex} : Confined (Machine.innerStack level ex) :=
  .bind .get <| .ite
    (.ite .raise <| .bind .linRead <| .bind .linRead .pure)
    (.ite .raise <| .bind .linRead <| .bind .linRead .pure)

theorem checkInner {level sel ex} : Confined (Machine.checkInner level sel ex) :=
  .ite .raise <| .bind .descOr <| .ite .raise <| .ite .raise .pure

theorem prepareSaves {base} : ∀ {l : List (Nat × Nat × Nat)}, Confined (Machine.prepareSaves base l)
  | [] => .pure
  | (_, _, _) :: _ => .bind .probe <| .bind prepareSaves .pure

theorem sysWriteAll : ∀ {l : List (Ref × Nat)}, Confined (Machine.sysWriteAll l)
  | [] => .pure
  | (_, _) :: _ => .bind .sysWrite sysWriteAll

theorem prepareReads {base} : ∀ {l : List (Nat × Nat)}, Confined (Machine.prepareReads base l)
  | [] => .pure
  | (_, _) :: _ => .bind .probe <| .bind prepareReads .pure

theorem readAll : ∀ {l : List Ref}, Confined (Machine.readAll l)
  | [] => .pure
  | _ :: _ => .bind .touchRef <| .bind .loadRef <| .bind readAll .pure

theorem prepareUpdate {wanted lin} : Confined (Machine.prepareUpdate wanted lin) := .ite (.bind .probe .pure) .pure

theorem makeUpdate {a b} : ∀ {r : Option Ref}, Confined (Machine.makeUpdate a b r)
  | none => .pure
  | some r => .bind .touchRef <| .bind .loadRef <| .update (Ref.store_system r _ _ _)

theorem committed {x : Op α} (hx : Confined x) : Confined (Machine.committed x) := fun s => by
  have h := hx s
  unfold Machine.committed
  cases hxs : x s with
  | ok a t => rwa [hxs] at h
  | error e t =>
    rw [hxs] at h
    cases e <;> exact h

theorem taskLoadLdtr {sel ex} : Confined (Machine.taskLoadLdtr sel ex) :=
  .ite .pure <| .ite .raise <| .bind .descOr <| .ite .raise (.update fun _ => rfl)

theorem taskLoadCs {sel ex} : Confined (Machine.taskLoadCs sel ex) :=
  .ite .raise <| .bind .descOr <| .ite .raise <| .ite .raise <| .ite .raise <| .ite .raise <|
    .bind .setAccessed (.update fun _ => rfl)

theorem taskLoadSs {sel ex} : Confined (Machine.taskLoadSs sel ex) :=
  .bind .get <| .ite .raise <| .bind .descOr <| .ite .raise <| .ite .raise <| .ite .raise <|
    .bind .setAccessed (.update fun _ => rfl)

theorem taskLoadData {k sel ex} : Confined (Machine.taskLoadData k sel ex) :=
  .bind .get <| .ite .pure <| .bind .descOr <| .ite .raise <| .ite .raise <| .ite .raise <|
    .bind .setAccessed (.update fun _ => rfl)

theorem taskPhaseC {tsel i ex} : Confined (Machine.taskPhaseC tsel i ex) :=
  .bind .taskLoadLdtr <| .bind .get <| .ite
    (.bind (.update fun _ => rfl) <| .bind .get <| .ite .raise .pure)
    (.bind .taskLoadCs <| .bind .taskLoadSs <| .bind .taskLoadData <| .bind .taskLoadData <| .bind .taskLoadData <|
      .bind .taskLoadData <| .bind .get <| .ite .raise .pure)

theorem taskSwitch {tsel d reason e fl ex} : Confined (Machine.taskSwitch tsel d reason e fl ex) := by
  unfold Machine.taskSwitch
  dsimp only
  exact .first .raise <| .first .raise <| .first .raise <| .first .raise <| .bind .get <| .first .raise <|
    .bind .prepareSaves <| .bind .prepareReads <| .either .prepareSaves .pure <|
    .bind .prepareUpdate <| .bind .prepareUpdate <| .bind .makeUpdate <| .bind .sysWriteAll <| .bind .readAll <|
    .bind (.of_ok (fun _ => rfl) fun _ => rfl) <| .bind .sysWriteAll <| .bind .makeUpdate <|
    .bind (.update fun s => s.enterTask_system _ _ _ _) <| .bind (.committed .taskPhaseC) <|
    .ite (.update fun _ => rfl) .pure

/-! ### Delivery -/

theorem realDeliver {e} : Confined (Machine.realDeliver e) :=
  .bind .get <| .ite .raise <| .bind .linRead <| .bind .pushItems <| .bind (.update fun _ => rfl) .commitReal

theorem frameItems {e s n} : Confined (Machine.frameItems e s n) := .bind .selItem .pure

theorem sameLevelDeliver {e sel d n off c} : Confined (Machine.sameLevelDeliver e sel d n off c) :=
  .bind .get <| .bind .frameItems <| .bind .preparePushes <| .first .raise <| .bind .setAccessed <| .bind .writeAll <|
    .bind (.update fun _ => rfl) <| .bind (.update fun _ => rfl) (.update fun _ => rfl)

theorem innerDeliver {e sel d n off c v} : Confined (Machine.innerDeliver e sel d n off c v) :=
  .bind .get <| .bind .innerStack <| .bind .checkInner <| .bind .selItem <| .bind .selItem <| .bind .selItem <|
    .bind .selItem <| .bind .selItem <| .bind .frameItems <| .bind .preparePushes <| .first .raise <|
    .bind .setAccessed <| .bind .setAccessed <| .bind .writeAll <| .bind (.update fun _ => rfl) <|
    .bind (.update fun _ => rfl) <| .bind (.update fun _ => rfl) <|
    .bind (.update fun _ => rfl) <| .ite (.update fun _ => rfl) .pure

theorem gateDeliver {e g} : Confined (Machine.gateDeliver e g) :=
  .bind .get <| .ite .raise <| .bind .descOr <| .ite .raise <| .ite .raise <| .ite .raise <|
    .ite (.ite .raise .innerDeliver) <| .ite .innerDeliver .sameLevelDeliver

theorem taskGateDeliver {e g} : Confined (Machine.taskGateDeliver e g) :=
  .bind .get <| .ite .raise <| .bind .descOr <| .ite .raise <| .bind .taskSwitch <| by
    cases e.code with
    | none => exact .pure
    | some c => exact .committed <| .bind .get <| .bind .preparePushes <| .bind .writeAll (.update fun _ => rfl)

theorem interrupt {e} : Confined (Machine.interrupt e) :=
  .bind .get <| .ite (.bind .realDeliver .pure) <| .ite .raise <| .bind .descRead <| .ite .raise <| .ite .raise <|
    .ite .raise <| .ite (.bind .taskGateDeliver .pure) (.bind .gateDeliver .pure)

theorem softInt {v} : Confined (Machine.softInt v) := .bind .get <| .bind .interrupt .pure

/-! ### Far transfers -/

theorem nearCheck {t} : Confined (Machine.nearCheck t) := .bind .get <| .ite .raise .pure

theorem memOperand : ∀ {rm : RM}, Confined (Machine.memOperand rm)
  | .reg _ => .raise
  | .mem _ => .bind .get .pure

theorem readParts {lo hi : Op Ref} (hl : Confined lo) (hh : Confined hi) : Confined (Machine.readParts lo hi) :=
  .bind hl <| .bind hh <| .bind .readRef <| .bind .readRef .pure

theorem farPointer {s} : ∀ {f : FarForm}, Confined (Machine.farPointer s f)
  | .ptr _ _ => .pure
  | .rmOp _ => .bind .memOperand <| .bind (.readParts .prepare .prepare) .pure

theorem directCodeCheck {sel d off} : Confined (Machine.directCodeCheck sel d off) :=
  .bind .get <| .ite .raise <| .ite .raise <| .ite .raise <| .ite .raise .pure

theorem callGateTarget {sel g isCall} : Confined (Machine.callGateTarget sel g isCall) :=
  .bind .get <| .ite .raise <| .ite .raise <| .ite .raise <| .bind .descOr <| .ite .raise <| .ite .raise <|
    .ite .raise <| .ite .raise .pure

theorem callSame {sel d off n} : Confined (Machine.callSame sel d off n) :=
  .bind .get <| .bind .selItem <| .bind .preparePushes <| .bind .setAccessed <| .bind .writeAll <|
    .bind (.update fun _ => rfl) (.update fun _ => rfl)

theorem callInner {g} : Confined (Machine.callInner g) :=
  .bind .get <| .bind .innerStack <| .bind .checkInner <| .bind .preparePushes <| .first .raise <| .bind .stackReads <|
    .bind .selItem <| .bind .selItem <| .bind .setAccessed <| .bind .setAccessed <| .bind .writeAll <|
    .bind (.update fun _ => rfl) <| .bind (.update fun _ => rfl) (.update fun _ => rfl)

theorem taskGateTransfer {sel g reason} : Confined (Machine.taskGateTransfer sel g reason) :=
  .bind .get <| .ite .raise <| .ite .raise <| .ite .raise <| .bind .descOr <| .ite .raise .taskSwitch

theorem tssTransfer {sel d reason} : Confined (Machine.tssTransfer sel d reason) :=
  .bind .get <| .ite .raise <| .ite .raise .taskSwitch

theorem farJmp {sel off} : Confined (Machine.farJmp sel off) :=
  .bind .get <| .ite (.bind .nearCheck <| .bind .commitReal .pure) <| .ite .raise <| .bind .descOr <|
    .ite (.bind .directCodeCheck <| .bind .commitCS .pure) <|
    .ite (.bind .callGateTarget <| .first .raise <| .bind .commitCS .pure) <|
    .ite (.bind .taskGateTransfer .pure) <| .ite (.bind .tssTransfer .pure) .raise

theorem farCall {sel off} : Confined (Machine.farCall sel off) :=
  .bind .get <| .ite (.bind .nearCheck <| .bind .selItem <| .bind .pushItems <| .bind .commitReal .pure) <|
    .ite .raise <| .bind .descOr <| .ite (.bind .directCodeCheck <| .bind .callSame .pure) <|
    .ite (.bind .callGateTarget <| .ite (.bind .callInner .pure) <| .first .raise <| .bind .callSame .pure) <|
    .ite (.bind .taskGateTransfer .pure) <| .ite (.bind .tssTransfer .pure) .raise

/-! ### Returns -/

theorem returnTarget {sel} : Confined (Machine.returnTarget sel) :=
  .bind .get <| .ite .raise <| .ite .raise <| .bind .descOr <| .ite .raise <| .ite .raise <| .ite .raise <|
    .ite .raise .pure

theorem checkOuter {level sel} : Confined (returnOuter.checkOuter level sel) :=
  .ite .raise <| .bind .descOr <| .ite .raise <| .ite .raise <| .ite .raise .pure

theorem returnOuter {sel d ip n base k} : Confined (Machine.returnOuter sel d ip n base k) :=
  .bind .get <| .bind .stackReads <| .ite .raise <| .bind .checkOuter <| .ite .raise <| .bind .commitCS <|
    .bind .setAccessed <| .bind (.update fun _ => rfl) (.update fun _ => rfl)

theorem farRet {k} : Confined (Machine.farRet k) :=
  .bind .get <| .bind .stackReads <| .ite (.bind .nearCheck <| .bind (.update fun _ => rfl) .commitReal) <|
    .bind .returnTarget <|
    .ite (.first .raise <| .bind (.update fun _ => rfl) .commitCS) .returnOuter

theorem requireIopl3 : Confined Machine.requireIopl3 := .bind .get <| .ite .raise .pure

theorem iretReal : Confined Machine.iretReal :=
  .bind .get <| .bind .stackReads <| .bind .nearCheck <| .bind (.update fun _ => rfl) <|
    .bind .commitReal (.update fun _ => rfl)

theorem iretToV86 {ip cs fl} : Confined (Machine.iretToV86 ip cs fl) :=
  .bind .get <| .bind .stackReads <| .first .raise (.update fun _ => rfl)

theorem iretProcedure : Confined Machine.iretProcedure :=
  .bind .get <| .bind .stackReads <| .ite .iretToV86 <| .bind .returnTarget <|
    .ite (.first .raise <| .bind (.update fun _ => rfl) <|
    .bind .commitCS (.update fun _ => rfl)) (.bind .returnOuter (.update fun _ => rfl))

theorem iretTask : Confined Machine.iretTask :=
  .bind .get <| .first .raise <| .bind .linRead <| .ite .raise <| .bind .descOr <| .ite .raise .taskSwitch

theorem interruptReturn : Confined Machine.interruptReturn :=
  .bind .get <| .bind .requireIopl3 <| .ite (.bind .iretReal <| .bind (.update fun _ => rfl) .pure) <|
    .either .iretTask .iretProcedure <| .bind (.update fun _ => rfl) .pure

/-! ### Operands -/

theorem getReg {k r} : Confined (Machine.getReg k r) := .of_ok (getReg_run k r) fun _ => rfl

theorem setReg {k r v} : Confined (Machine.setReg k r v) := .of_ok (setReg_run k r v) fun _ => rfl

theorem setStatus {f} : Confined (Machine.setStatus f) := .of_ok (setStatus_run f) fun _ => rfl

theorem undefStatus : Confined Machine.undefStatus := .of_ok undefStatus_run fun _ => rfl

theorem setFlagBit {n b} : Confined (Machine.setFlagBit n b) := .of_ok (setFlagBit_run n b) fun _ => rfl

theorem locate {k} : ∀ {rm : RM} {w}, Confined (Machine.locate k rm w)
  | .reg _, _ => .pure
  | .mem _, _ => .bind .get <| .bind .prepare .pure

theorem readPlace {k} : ∀ {p : Place}, Confined (Machine.readPlace k p)
  | .reg _ => .getReg
  | .mem _ => .bind .readRef .pure

theorem writePlace {k} : ∀ {p : Place} {v}, Confined (Machine.writePlace k p v)
  | .reg _, _ => .setReg
  | .mem _, _ => .writeRef

theorem readRM {k rm} : Confined (Machine.readRM k rm) := .bind .locate .readPlace

theorem writeRM {k rm v} : Confined (Machine.writeRM k rm v) := .bind .locate .writePlace

theorem updateRM {k rm} {f : Val k → Op (Val k)} (hf : ∀ {a}, Confined (f a)) : Confined (Machine.updateRM k rm f) :=
  .bind .locate <| .bind .readPlace <| .bind hf .writePlace

/-! ### Arithmetic and logic -/

theorem aluUpdate {s} {op : (k : Width) → Val k → Val k → Op (Val k)} (h : ∀ {k a b}, Confined (op k a b)) :
    ∀ {f : AluForm}, Confined (Machine.aluUpdate s op f)
  | .rmReg _ _ _ | .rmImm8 _ _ | .rmImm8Alias _ _ | .rmImm _ _ | .rmSext _ _ => .updateRM h
  | .regRm _ _ _ => .bind .readRM <| .bind h .setReg
  | .alImm _ | .axImm _ => .bind h .setReg

theorem aluCompare {s} {op : (k : Width) → Val k → Val k → Op Unit} (h : ∀ {k a b}, Confined (op k a b)) :
    ∀ {f : AluForm}, Confined (Machine.aluCompare s op f)
  | .rmReg _ _ _ | .regRm _ _ _ | .rmImm8 _ _ | .rmImm8Alias _ _ | .rmImm _ _ | .rmSext _ _ => .bind .readRM h
  | .alImm _ | .axImm _ => h

theorem addOp {c k a b} : Confined (Machine.addOp c k a b) := .bind .setStatus .pure

theorem subOp {c k a b} : Confined (Machine.subOp c k a b) := .bind .setStatus .pure

theorem setLogic {n : Nat} {r : BitVec n} : Confined (Machine.setLogic r) := .of_ok (setLogic_run r) fun _ => rfl

theorem logicOp {f : {n : Nat} → BitVec n → BitVec n → BitVec n} {k a b} : Confined (Machine.logicOp f k a b) :=
  .bind .setLogic .pure

theorem incUpdate {s} {op : (k : Width) → Val k → Op (Val k)} (h : ∀ {k a}, Confined (op k a)) :
    ∀ {f : IncForm}, Confined (Machine.incUpdate s op f)
  | .reg _ | .rmOp _ _ => .updateRM h

theorem setPair {k hi lo} : Confined (Machine.setPair k hi lo) := .of_ok (setPair_run k hi lo) fun _ => rfl

theorem mulStatus {lost} : Confined (Machine.mulStatus lost) := .of_ok (mulStatus_run lost) fun _ => rfl

theorem imulTo {k r x y} : Confined (Machine.imulTo k r x y) := .bind .setReg .mulStatus

theorem divideError : Confined (Machine.divideError : Op α) := .bind .undefStatus <| .bind .setStatus .raise

theorem setQuotient {k q r} : Confined (Machine.setQuotient k q r) := .of_ok (setQuotient_run k q r) fun _ => rfl

theorem decimalAdjust {s f} : Confined (Machine.decimalAdjust s f) :=
  .bind .undefStatus <| .bind .setReg .setStatus

theorem bitSelect {k w} : ∀ {f : BitForm}, Confined (Machine.bitSelect k w f)
  | .rmReg (.reg _) _ => .bind .getReg .pure
  | .rmReg (.mem _) _ => .bind .get <| .bind .prepare .pure
  | .rmImm _ _ => .bind .locate .pure

theorem bitStatus {b} : Confined (Machine.bitStatus b) := .of_ok (bitStatus_run b) fun _ => rfl

theorem bitUpdate {s} {f : {n : Nat} → BitVec n → BitVec n → BitVec n} {form} :
    Confined (Machine.bitUpdate s f form) :=
  .bind .bitSelect <| .bind .readPlace <| .bind .writePlace .bitStatus

theorem bitScan {k r rm} {scan : Val k → Nat} : Confined (Machine.bitScan k r rm scan) :=
  .bind .readRM <| .bind .undefStatus <| .bind .setStatus <| .ite .setReg .pure

theorem rotate {s wide rm c} {step : ShiftStep} : Confined (Machine.rotate s wide rm c step) :=
  .updateRM <| .ite .pure <| .bind .undefStatus <| .bind .setStatus .pure

theorem shift {s wide rm c} {step : ShiftStep} {of : {n : Nat} → BitVec n → BitVec n → Bool → Bool} :
    Confined (Machine.shift s wide rm c step of) :=
  .updateRM <| .ite .pure <| .bind .undefStatus <| .bind .setStatus .pure

theorem doubleShift {s rm c} {f : Val s.ow → Nat → Val s.ow × Bool} : Confined (Machine.doubleShift s rm c f) :=
  .updateRM <| .ite .pure <| .bind .undefStatus <| .ite (.bind .setStatus .pure) <|
    .bind .fresh <| .bind .setStatus .pure

/-! ### Control -/

theorem nearBranch {t} : Confined (Machine.nearBranch t) := .bind .nearCheck (.update fun _ => rfl)

theorem jumpIf {s c} : ∀ {f : JccForm}, Confined (Machine.jumpIf s c f)
  | .short _ | .near _ => .ite .nearBranch .pure

theorem loopIf {s c rel} : Confined (Machine.loopIf s c rel) := .bind .setReg <| .ite .nearBranch .pure

theorem callTo {s t} : Confined (Machine.callTo s t) := .bind .nearCheck <| .bind .pushItems (.update fun _ => rfl)

/-! ### Data movement and segments -/

theorem readMoff {k off} : Confined (Machine.readMoff k off) := .bind .get <| .bind .memRead .pure

theorem preparePops {n} : ∀ {k : Nat} {sp}, Confined (Machine.preparePops n k sp)
  | 0, _ => .pure
  | _ + 1, _ => .bind .get <| .bind .prepare <| .bind preparePops .pure

theorem requireIopl : Confined Machine.requireIopl := .bind .get <| .ite .raise .pure

theorem shadowSs {k} : Confined (Machine.shadowSs k) := .ite (.update fun _ => rfl) .pure

theorem storeSel {sel} : ∀ {rm : RM}, Confined (Machine.storeSel rm sel)
  | .reg _ => .bind .get .setReg
  | .mem _ => .bind .get .writeRM

theorem loadPointer {k r rm} : Confined (Machine.loadPointer k r rm) :=
  .bind .get <| .bind .memOperand <| .bind .checkWhole <| .bind (.readParts .prepare .prepare) <|
    .bind .loadSeg .setReg

/-! ### Input, output, strings -/

theorem bitmapCheck {port n} : Confined (Machine.bitmapCheck port n) :=
  .bind .get <| .ite .raise <| .bind .linRead <| .ite .raise <| .bind .linRead <| .ite .pure .raise

theorem ioCheck {port n} : Confined (Machine.ioCheck port n) :=
  .bind .get <| .ite .pure <| .ite .bitmapCheck <| .ite .pure .bitmapCheck

theorem ioRead {k port} : Confined (Machine.ioRead k port) := .bind .fresh <| .bind (.update fun _ => rfl) .pure

theorem prepareSource {k} : Confined (Machine.prepareSource k) := .bind .get .prepare

theorem prepareDest {k w} : Confined (Machine.prepareDest k w) := .bind .get .prepare

theorem readElem {k r} : Confined (Machine.readElem k r) := .bind .readRef .pure

theorem stringStep {compares} {elem : Op Unit} (h : Confined elem) : Confined (Machine.stringStep compares elem) :=
  .bind .get <| @fun s => by
    cases s.pfx.rep with
    | none => exact .bind h .pure
    | some _ =>
      exact .ite .pure <| .bind h <| .bind (.update fun _ => rfl) <| .bind .get <|
        .ite .pure <| .bind (.update fun _ => rfl) .pure

theorem movsElem {k} : Confined (Machine.movsElem k) :=
  .bind .prepareSource <| .bind .prepareDest <| .bind .readElem <| .bind .writeRef (.update fun _ => rfl)

theorem cmpsElem {k} : Confined (Machine.cmpsElem k) :=
  .bind .prepareSource <| .bind .prepareDest <| .bind .readElem <| .bind .readElem <|
    .bind .setStatus (.update fun _ => rfl)

theorem scasElem {k} : Confined (Machine.scasElem k) :=
  .bind .prepareDest <| .bind .readElem <| .bind .getReg <| .bind .setStatus (.update fun _ => rfl)

theorem lodsElem {k} : Confined (Machine.lodsElem k) :=
  .bind .prepareSource <| .bind .readElem <| .bind .setReg (.update fun _ => rfl)

theorem stosElem {k} : Confined (Machine.stosElem k) :=
  .bind .prepareDest <| .bind .getReg <| .bind .writeRef (.update fun _ => rfl)

theorem insElem {k} : Confined (Machine.insElem k) :=
  .bind .getReg <| .bind .ioCheck <| .bind .prepareDest <| .bind .ioRead <| .bind .writeRef (.update fun _ => rfl)

theorem outsElem {k} : Confined (Machine.outsElem k) :=
  .bind .getReg <| .bind .ioCheck <| .bind .prepareSource <| .bind .readElem <|
    .bind (.update fun _ => rfl) (.update fun _ => rfl)

/-! ### System instructions -/

theorem requireCpl0 : Confined Machine.requireCpl0 := .bind .get <| .ite .raise .pure

theorem requireProtected : Confined Machine.requireProtected := .bind .get <| .ite .raise .pure

theorem inspect {sel} : Confined (Machine.inspect sel) :=
  .ite .pure <| .bind .get <| @fun s => by
    cases s.descAddr sel with
    | none => exact .pure
    | some lin => exact .bind .descRead .pure

theorem visible {rm} {kind : Desc → Bool} : Confined (Machine.visible rm kind) :=
  .bind .requireProtected <| .bind .readRM <| .bind .get <| .bind .inspect .pure

theorem writeTable {os32 rm t} : Confined (Machine.writeTable os32 rm t) :=
  .bind .memOperand <| .bind .checkWhole <| .bind .prepare <| .bind .prepare <| .bind .fresh <|
    .bind .writeRef .writeRef

theorem flagsUndefined : Confined Machine.flagsUndefined := .of_ok flagsUndefined_run fun _ => rfl

theorem generalDetect : Confined Machine.generalDetect := .bind .get <| .ite (.bind (.update fun _ => rfl) .raise) .pure

theorem prepareDisplay {big n} : ∀ {k : Nat} {bp sp}, Confined (Machine.prepareDisplay big n k bp sp)
  | 0, _, _ => .pure
  | _ + 1, _, _ => .bind .prepare <| .bind .prepare <| .bind prepareDisplay .pure

theorem makeFrame : ∀ {l : List FrameStep}, Confined (Machine.makeFrame l)
  | [] => .pure
  | .copy _ _ :: _ => .bind .readRef <| .bind .writeRef makeFrame
  | .store _ _ :: _ => .bind .writeRef makeFrame

theorem scallOk {p} : ∀ {v : Option Dword}, Confined (Machine.scallOk p v)
  | none => .bind .setFlagBit .pure
  | some _ => .bind .setFlagBit .writePlace

theorem scallFail {p} : Confined (Machine.scallFail p) := .bind .setFlagBit .writePlace

/-- Outside level 0 SCALL's functions enable and disable nothing (49_system_misc.md R664). -/
theorem scallFunction (hs : s.level ≠ 0) {p modrm v} : Confined (Machine.scallFunction s p modrm v) := by
  have level_test {c : Bool} {x : Op Unit} :
      Confined (if decide (s.level ≠ 0) || c then Machine.scallFail p else x) := by
    simp only [hs, ne_eq, not_false_eq_true, decide_true, Bool.true_or, if_true]
    exact .scallFail
  refine .ite (.ite .scallFail (.update fun _ => rfl)) ?_
  split
  · exact .scallOk
  · rw [if_pos hs]; exact .scallFail
  · rw [if_pos hs]; exact .scallFail
  · exact level_test
  · exact level_test
  · exact .scallOk
  · exact .ite .scallFail <| .bind (.update fun _ => rfl) .scallOk
  · exact .scallFail

end Confined

/-! ## Outcomes -/

/-- A next state has the system registers of a state. -/
def KeepsSystem (s : State) (o : Host.Outcome State Fault Refusal) : Prop := ∀ t, o = .next t → t.system = s.system

theorem KeepsSystem.next (h : t.system = s.system) : KeepsSystem s (.next t) := fun _ e => by cases e; exact h
theorem KeepsSystem.fault (f : Fault) : KeepsSystem s (.fault f) := fun _ e => nomatch e
theorem KeepsSystem.refused (r : Refusal) : KeepsSystem s (.refused r) := fun _ e => nomatch e

theorem KeepsSystem.of_eq {o : Host.Outcome State Fault Refusal} (h : KeepsSystem u o) (hu : u.system = s.system) :
    KeepsSystem s o := fun t ht => (h t ht).trans hu

/-- Whatever an event's delivery raises, down to shutdown, leaves the system registers alone (60_exceptions.md
R699). -/
theorem deliverFrom_keepsSystem : ∀ (k : Nat) (taken : State → State) (e : Event) (s : State),
    (∀ t, (taken t).system = t.system) → KeepsSystem s (deliverFrom k taken e s)
  | 0, _, _, _, _ => .next rfl
  | k + 1, taken, e, s, htaken => by
    have follow (first : Event) (x : Exn) {t : State} (ht : t.system = s.system) :
        KeepsSystem s (match deliveryFault first x with
          | none => .next (t.shutDown first.ret)
          | some e' => deliverFrom k id e' t) := by
      cases deliveryFault first x with
      | none => exact .next ht
      | some e' => exact (deliverFrom_keepsSystem k id e' t fun _ => rfl).of_eq ht
    have hend := Confined.interrupt (e := e) s
    unfold deliverFrom
    split
    · exact .next rfl
    · cases hi : interrupt e s with
      | ok b t =>
        rw [hi] at hend
        exact .next ((htaken t).trans hend)
      | error x t =>
        rw [hi] at hend
        cases x with
        | exc x => exact follow e x (State.rollback_system hend)
        | late x => exact follow { e with ret := t.eip } x hend
        | fault f => exact .fault f
        | refuse r => exact .refused r

theorem deliver_keepsSystem (e : Event) (s : State) : KeepsSystem s (deliver e s) :=
  deliverFrom_keepsSystem 5 id e s fun _ => rfl

namespace KeepsSystem

theorem finish {r : EStateM.Result Stop State End} (h : (endState r).system = s.system) :
    KeepsSystem s (Machine.finish s r) := by
  cases r with
  | ok e t => cases e <;> exact .next h
  | error e t => cases e with
    | exc x => exact (deliver_keepsSystem _ _).of_eq (State.undone_system h x)
    | late x => exact (deliver_keepsSystem _ _).of_eq h
    | fault f => exact .fault f
    | refuse r => exact .refused r

theorem runEnd {l : Bool} {x : Op End} (hx : Confined x) : KeepsSystem s (Machine.runEnd l x s) :=
  .finish ((Confined.bind (.bind .get <| .ite .raise .pure) hx : Confined (do checkLock l; x)) s)

theorem run {l : Bool} {x : Op Unit} (hx : Confined x) : KeepsSystem s (Machine.run l x s) := .runEnd (.bind hx .pure)

/-- An operation that stops where the instruction began. -/
theorem run_stopped {l : Bool} {x : Op Unit} {e : Stop} (hx : x s = .error e s) :
    KeepsSystem s (Machine.run l x s) := by
  have hrest : (endState ((do x; return .done : Op End) s)).system = s.system := by rw [op_bind_error hx]; rfl
  refine .finish ?_
  unfold checkLock
  rw [op_bind, op_get_bind, op_ite]
  by_cases hlock : (s.pfx.lock && !l) = true
  · rw [if_pos hlock]; rfl
  · rw [if_neg hlock]; exact hrest

theorem mov {f : MovForm} : KeepsSystem s (execMov f s) := .run <| match f with
  | .rmReg _ _ _ | .rmImm8 _ _ | .rmImm _ _ => .writeRM
  | .regRm _ _ _ => .bind .readRM .setReg
  | .accMoff _ _ => .bind .readMoff .setReg
  | .moffAcc _ _ => .bind .get .memWrite
  | .regImm8 _ _ | .regImm _ _ => .setReg

theorem test {f : TestForm} : KeepsSystem s (execTest f s) := .run <| match f with
  | .rmReg _ _ _ | .rmImm8 _ _ _ | .rmImm _ _ _ => .bind .readRM .setLogic
  | .alImm _ | .axImm _ => .setLogic

theorem imul {f : ImulForm} : KeepsSystem s (execImul f s) := .run <| match f with
  | .one _ _ => .bind .readRM <| .bind .getReg <| .bind .setPair .mulStatus
  | .two _ _ | .three _ _ _ | .threeSext _ _ _ => .bind .readRM .imulTo

theorem push {f : PushForm} : KeepsSystem s (execPush f s) := .run <| match f with
  | .reg _ | .imm _ | .imm8 _ => .pushItems
  | .rmOp _ => .bind .locate <| .bind .preparePushes <| .bind .readPlace <| .bind .writeAll (.update fun _ => rfl)

theorem pop {f : PopForm} : KeepsSystem s (execPop f s) := .run <| match f with
  | .reg _ => .bind .pop .setReg
  | .rmOp _ => .bind .prepare <| .bind (.update fun _ => rfl) <| .bind .locate <| .bind .readRef .writePlace

theorem xchg : ∀ {f : XchgForm}, KeepsSystem s (execXchg f s)
  | .rmReg _ _ _ => .run <| .bind .locate <| .bind .readPlace <| .bind .getReg <| .bind .writePlace .setReg
  | .acc _ => .run <| .bind .getReg <| .bind .getReg <| .bind .setReg .setReg

theorem movToSreg {k : SregField} {rm : RM} : KeepsSystem s (execMovToSreg k rm s) := .run <| by
  split
  · exact .raise
  · exact .raise
  · exact .raise
  · exact .bind .readRM <| .bind .loadSeg .shadowSs

theorem movFromSreg {rm : RM} {k : SregField} : KeepsSystem s (execMovFromSreg rm k s) := .run <| by
  split
  · exact .raise
  · exact .raise
  · exact .storeSel

theorem popSreg {k : Sreg} : KeepsSystem s (execPopSreg k s) := .run <| by
  split
  · exact .raise
  · exact .bind .pop <| .bind .loadSeg .shadowSs

theorem jmpNear {f : JmpForm} : KeepsSystem s (execJmpNear f s) := .run <| match f with
  | .short _ | .near _ => .nearBranch
  | .rmOp _ => .bind .readRM .nearBranch

theorem callNear {f : CallForm} : KeepsSystem s (execCallNear f s) := .run <| match f with
  | .rel _ => .callTo
  | .rmOp _ => .bind .readRM .callTo

theorem lar {r : Reg} {rm : RM} : KeepsSystem s (execLar r rm s) := .run <| .bind .visible <| @fun o => by
  cases o with
  | none => exact .setFlagBit
  | some d => exact .bind .fresh <| .bind .setReg .setFlagBit

theorem lsl {r : Reg} {rm : RM} : KeepsSystem s (execLsl r rm s) := .run <| .bind .visible <| @fun o => by
  cases o with
  | none => exact .setFlagBit
  | some d => exact .bind .setReg .setFlagBit

theorem popa : KeepsSystem s (execPopa s) :=
  .run <| .bind .preparePops <| .bind .readRefs <| .bind .setReg <| .bind .setReg <| .bind .setReg <| .bind .setReg <|
    .bind .setReg <| .bind .setReg <| .bind .setReg (.update fun _ => rfl)

theorem enter {size : BitVec 16} {level : BitVec 8} : KeepsSystem s (execEnter size level s) :=
  have last {k : Width} {l : List FrameStep} {big : Bool} {bp sp : Dword} {v : Val k} : Confined (do
      makeFrame l
      if big then setReg .d .ebp bp
      setReg k .ebp v
      modify fun t => t.setSp sp) := .bind .makeFrame <| .first .setReg <| .bind .setReg (.update fun _ => rfl)
  .run <| .bind .prepare <| .bind .prepareDisplay <| .ite (.bind .pure last) <| .bind .prepare <| .bind .pure last

theorem specialMove_stops (hs : s.level ≠ 0) (mod : BitVec 2) (d : Bool) :
    ∃ e, Machine.specialMove mod d s = .error e s := by
  simp only [Machine.specialMove, op_ite, raiseUD_run, requireCpl0_gp hs]
  split
  · exact ⟨_, rfl⟩
  · split <;> exact ⟨_, rfl⟩

/-- A move of a control, debug or test register stops outside level 0 (49_system_misc.md R628). -/
theorem run_specialMove (hs : s.level ≠ 0) {mod : BitVec 2} {d : Bool} {f : Unit → Op Unit} :
    KeepsSystem s (Machine.run false (specialMove mod d >>= f) s) :=
  have ⟨_, h⟩ := specialMove_stops hs mod d
  .run_stopped (op_bind_error h)

/-- A load of a table register stops outside level 0 (R617). -/
theorem run_readTable (hs : s.level ≠ 0) {rm : RM} {f : TableReg → Op Unit} :
    KeepsSystem s (Machine.run false (readTable s.os32 rm >>= f) s) := by
  have h : ∃ e, readTable s.os32 rm s = .error e s := by
    cases rm with
    | reg r => exact ⟨_, rfl⟩
    | mem m => exact ⟨_, (op_bind_ok rfl).trans (op_bind_error (requireCpl0_gp hs))⟩
  obtain ⟨e, h⟩ := h
  exact .run_stopped (op_bind_error h)

end KeepsSystem

/-- Outside level 0 every instruction leaves the system registers alone. -/
theorem exec_keepsSystem (i : Instr) (hs : s.level ≠ 0) : KeepsSystem s (exec i s) := by
  cases i with
  | segEs | segCs | segSs | segDs | segFs | segGs | opsize | adrsize | lock | repne | rep => exact .next rfl
  | add f | adc f => exact .run (.aluUpdate .addOp)
  | sub f | sbb f => exact .run (.aluUpdate .subOp)
  | and_ f | or_ f | xor_ f => exact .run (.aluUpdate .logicOp)
  | cmp f => exact .run (.aluCompare .setStatus)
  | test f => exact .test
  | inc f | dec f => exact .run (.incUpdate <| .bind .setStatus .pure)
  | neg wide rm => exact .run (.updateRM <| .bind .setStatus .pure)
  | not_ wide rm => exact .run (.updateRM .pure)
  | mul wide rm => exact .run (.bind .readRM <| .bind .getReg <| .bind .setPair .mulStatus)
  | imul f => exact .imul
  | div wide rm => exact .run (.bind .readRM <| .ite .divideError <| .ite .divideError .setQuotient)
  | idiv wide rm => exact .run (.bind .readRM <| .ite .divideError <| .ite .setQuotient .divideError)
  | daa | das => exact .run .decimalAdjust
  | aaa | aas => exact .run (.bind .getReg <| .bind .setReg <| .first .setReg <| .bind .undefStatus .setStatus)
  | aam i => exact .run (.bind .undefStatus <| .ite (.bind .setStatus .raise) <| .bind .setReg <|
    .bind .setReg .setStatus)
  | aad i => exact .run (.bind .getReg <| .bind .setReg <| .bind .setReg <| .bind .undefStatus .setStatus)
  | rol wide rm c | ror wide rm c | rcl wide rm c | rcr wide rm c => exact .run .rotate
  | shl a wide rm c => exact .run .shift
  | shr wide rm c | sar wide rm c => exact .run .shift
  | shld rm r c | shrd rm r c => exact .run .doubleShift
  | bt f => exact .run (.bind .bitSelect <| .bind .readPlace .bitStatus)
  | bts f | btr f | btc f => exact .run .bitUpdate
  | bsf r rm | bsr r rm => exact .run .bitScan
  | mov f => exact .mov
  | movzx wide r rm | movsx wide r rm => exact .run (.bind .readRM .setReg)
  | movFromSreg rm k => exact .movFromSreg
  | movToSreg k rm => exact .movToSreg
  | movFromCr mod n r | movToCr mod n r | movFromDr mod n r | movToDr mod n r | movFromTr mod n r | movToTr mod n r =>
    exact .run_specialMove hs
  | push f => exact .push
  | pushSreg k => exact .run (.bind .selItem .pushItems)
  | pop f => exact .pop
  | popSreg k => exact .popSreg
  | pusha => exact .run .pushItems
  | popa => exact .popa
  | pushf => exact .run (.bind .requireIopl3 .pushItems)
  | popf => exact .run (.bind .requireIopl3 <| .bind .pop (.update fun _ => rfl))
  | xchg f => exact .xchg
  | nop => exact .run .pure
  | cbw | cwde | cwd | cdq => exact .run (.bind .getReg .setReg)
  | lea r rm => exact .run (.bind .memOperand .setReg)
  | les r rm | lds r rm | lss r rm | lfs r rm | lgs r rm => exact .run .loadPointer
  | in_ f => exact .run (.bind .ioCheck <| .bind .ioRead .setReg)
  | out f => exact .run (.bind .ioCheck (.update fun _ => rfl))
  | insb | insv => exact .runEnd (.stringStep .insElem)
  | outsb | outsv => exact .runEnd (.stringStep .outsElem)
  | movsb | movsv => exact .runEnd (.stringStep .movsElem)
  | cmpsb | cmpsv => exact .runEnd (.stringStep .cmpsElem)
  | stosb | stosv => exact .runEnd (.stringStep .stosElem)
  | lodsb | lodsv => exact .runEnd (.stringStep .lodsElem)
  | scasb | scasv => exact .runEnd (.stringStep .scasElem)
  | jo f | jno f | jb f | jnb f | jz f | jnz f | jbe f | jnbe f | js f | jns f | jp f | jnp f | jl f | jnl f | jle f
  | jnle f => exact .run .jumpIf
  | seto rm | setno rm | setb rm | setnb rm | setz rm | setnz rm | setbe rm | setnbe rm | sets rm | setns rm | setp rm
  | setnp rm | setl rm | setnl rm | setle rm | setnle rm => exact .run .writeRM
  | loop rel | loope rel | loopne rel => exact .run .loopIf
  | jcxz rel => exact .run (.ite .nearBranch .pure)
  | jmpNear f => exact .jmpNear
  | callNear f => exact .callNear
  | retNear n => exact .run (.bind .stackRead <| .bind .nearCheck <|
    .bind (.update fun _ => rfl) (.update fun _ => rfl))
  | jmpFar f => exact .runEnd (.bind .farPointer .farJmp)
  | callFar f => exact .runEnd (.bind .farPointer .farCall)
  | retFar n => exact .run .farRet
  | int3 => exact .runEnd .softInt
  | int n => exact .runEnd (.bind .requireIopl3 .softInt)
  | into => exact .runEnd (.ite .softInt .pure)
  | iret => exact .runEnd .interruptReturn
  | enter size level => exact .enter
  | leave => exact .run (.bind .memRead <| .bind (.update fun _ => rfl) .setReg)
  | bound r rm => exact .run (.bind .memOperand <| .bind (.readParts .prepare .prepare) <| .ite .raise .pure)
  | arpl rm r => exact .run (.bind .requireProtected <| .bind .locate <| .bind .readPlace <|
      .ite (.bind .writePlace .setFlagBit) .setFlagBit)
  | wait => exact .runEnd (.ite .raise <| .ite .raise <| .ite (.bind (.update fun _ => rfl) .pure) .pure)
  | sahf => exact .run (.bind .getReg (.update fun _ => rfl))
  | lahf => exact .run .setReg
  | xlatb => exact .run (.bind .memRead .setReg)
  | esc op ext rm => exact .run (.ite .raise <| .ite .raise <| .ite .raise .stop)
  | hlt => exact .run (.bind .requireCpl0 (.update fun _ => rfl))
  | cmc | clc | stc | cld | std => exact .run .setFlagBit
  | cli => exact .run (.bind .requireIopl .setFlagBit)
  | sti => exact .run (.bind .requireIopl <| .bind .setFlagBit <| .ite (.update fun _ => rfl) .pure)
  | sldt rm | str rm => exact .run (.bind .requireProtected .writeRM)
  | lldt rm => exact .run (.bind .requireProtected <| .bind .requireCpl0 <| .bind .readRM .loadLdtr)
  | ltr rm => exact .run (.bind .requireProtected <| .bind .requireCpl0 <| .bind .readRM .loadTr)
  | verr rm | verw rm => exact .run (.bind .visible .setFlagBit)
  | sgdt rm | sidt rm => exact .run .writeTable
  | lgdt rm | lidt rm => exact .run_readTable hs
  | smsw rm => exact .run .writeRM
  | lmsw rm | clts => exact .run_stopped (op_bind_error (requireCpl0_gp hs))
  | lar r rm => exact .lar
  | lsl r rm => exact .lsl
  | scall r rm => exact .run (.ite .raise <| .bind .locate <| .bind .readPlace <| .scallFunction hs)
  | ssvLow n | ssvHigh n | undefined u => exact .run .raise


/-- Settles O58: outside level 0 the operations of every instruction, and every delivery behind them, are `Confined`;
the instructions reserved for level 0 stop where they began. -/
theorem userKeepsSystemRegisters : Obligations.UserKeepsSystemRegisters := by
  intro i s t hpe hcpl ht
  have hlevel : s.level ≠ 0 := by
    unfold State.level
    rwa [if_pos hpe]
  have h := exec_keepsSystem i hlevel t ht
  simp only [State.system, SystemRegs.mk.injEq] at h
  exact h

end Sys2Proof.Machine
end

section
namespace Sys2Proof.Machine
variable {s t : State}

/-! # Bit tests and bit scans -/

/-- The index modulo the width is the index's remainder as a signed number: a width divides its power of two
(45_bit.md R471, R472). -/
theorem bitPos_eq (k : Width) (v : Val k) : bitPos k v = (v.toInt % k.bits).toNat := by
  have hlt : v.toNat < 2 ^ k.bits := v.isLt
  unfold bitPos
  rw [BitVec.toInt_eq_toNat_cond]
  by_cases hneg : 2 * v.toNat < 2 ^ k.bits
  · rw [if_pos hneg]
    rfl
  · rw [if_neg hneg]
    cases k <;> simp only [Width.bits] at hlt ⊢ <;> omega

/-- Counted up from a number on, the first bit that is 1 is found (R477). -/
theorem scanUp_eq {w i : Nat} {v : BitVec w} (hset : v.getLsbD i = true) (hclear : ∀ j, j < i → v.getLsbD j = false) :
    ∀ {n j : Nat}, j ≤ i → i < j + n → scanUp v n j = i
  | 0, _, _, _ => by omega
  | n + 1, j, hj, hn => by
    unfold scanUp
    rcases Nat.eq_or_lt_of_le hj with rfl | hlt
    · rw [if_pos hset]
    · rw [if_neg (by simp [hclear j hlt])]
      exact scanUp_eq hset hclear hlt (by omega)

/-- Counted down, the last bit that is 1 is found (R478). -/
theorem scanDown_eq {w i : Nat} {v : BitVec w} (hset : v.getLsbD i = true)
    (hclear : ∀ j, i < j → v.getLsbD j = false) : ∀ {n : Nat}, i < n → scanDown v n = i
  | n + 1, hn => by
    unfold scanDown
    rcases Nat.eq_or_lt_of_le (Nat.le_of_lt_succ hn) with rfl | hlt
    · rw [if_pos hset]
    · rw [if_neg (by simp [hclear n hlt])]
      exact scanDown_eq hset hclear hlt

/-- A bit test that writes: the unit read, changed and stored, then the flags (R474 to R476). -/
theorem bitUpdate_ok {f : {n : Nat} → BitVec n → BitVec n → BitVec n} {form : BitForm} {p : Place} {pos : Nat}
    (h : bitSelect s.ow true form s = .ok (p, pos) t) :
    let v := p.value s.ow t
    let u := p.put s.ow (f v (1 <<< pos)) (p.seen t)
    bitUpdate s f form s = .ok () (u.drew.setStatus { undefAt u.free with cf := v.getLsbD pos }) := by
  intro v u
  exact (op_bind_ok h).trans <| (op_bind_ok (readPlace_run _ _ _)).trans <|
    (op_bind_ok (writePlace_run _ _ _ _)).trans (bitStatus_run _ _)

section
variable {k : Width} {r : Reg} {rm : RM} {v : Val k} {scan : Val k → Nat}

/-- A source of 0 sets ZF and leaves the destination (R477). -/
theorem bitScan_zero (h : readRM k rm s = .ok v t) (hv : v = 0) :
    bitScan k r rm scan s = .ok () (t.drew.setStatus { undefAt t.free with zf := v == 0 }) := by
  rw [bitScan, op_bind_ok h, op_bind_ok (undefStatus_run t), op_bind_ok (setStatus_run _ _), op_ite,
    if_neg (not_not.mpr hv)]
  rfl

theorem bitScan_found (h : readRM k rm s = .ok v t) (hv : v ≠ 0) :
    bitScan k r rm scan s = .ok () ((t.drew.setStatus { undefAt t.free with zf := v == 0 }).setReg k r
      (BitVec.ofNat _ (scan v))) := by
  rw [bitScan, op_bind_ok h, op_bind_ok (undefStatus_run t), op_bind_ok (setStatus_run _ _), op_ite, if_pos hv]
  rfl

end

/-- Settles O25: a bit test is its place, its read and its flags; a scan stops at the one bit that nothing below, or
above, precedes. -/
theorem bitResult : Obligations.BitResult := by
  refine ⟨⟨⟨fun f s t p pos hlock hsel => ?_, fun f s t p pos hlock hsel => ?_⟩, fun s k w r i => rfl,
    fun s t k w m i r => ?_, fun s t k w rm i p hloc => op_bind_ok hloc⟩, fun r rm s t p v hlock hv => ?_⟩
  · exact run_unlocked hlock ((op_bind_ok hsel).trans <| (op_bind_ok (readPlace_run _ _ _)).trans (bitStatus_run _ _))
  · exact ⟨run_ok hlock (bitUpdate_ok (f := fun v m => v ||| m) hsel),
      run_ok hlock (bitUpdate_ok (f := fun v m => v &&& ~~~ m) hsel),
      run_ok hlock (bitUpdate_ok (f := fun v m => v ^^^ m) hsel)⟩
  · dsimp only
    intro hprep
    rw [← bitPos_eq k (s.reg k i)]
    exact op_bind_ok hprep
  · have hread := readRM_operand hv
    refine ⟨fun hzero => ⟨run_unlocked hlock (bitScan_zero hread hzero), run_unlocked hlock (bitScan_zero hread hzero)⟩,
      fun i hi hset => ?_⟩
    have hne : v ≠ 0 := fun h => by rw [h] at hset; exact absurd hset (by simp)
    refine ⟨fun hclear => ?_, fun hclear => ?_⟩
    · rw [← scanUp_eq (n := s.ow.bits) hset hclear (Nat.zero_le i) (by omega)]
      exact run_unlocked hlock (bitScan_found hread hne)
    · rw [← scanDown_eq hset hclear hi]
      exact run_unlocked hlock (bitScan_found hread hne)

end Sys2Proof.Machine
end

section
namespace Sys2Proof.Machine
variable {s t u : State} {k : Width} {x y : Ref}

/-! # String instructions -/

/-! ## Elements -/

/-- An element of MOVS: both operands are checked first (46_string.md R492). -/
theorem movsElem_ok (hsrc : prepare (s.segFor .ds) (s.index .esi) k.bytes false s = .ok x t)
    (hdst : prepare .es (s.index .edi) k.bytes true t = .ok y u) :
    movsElem k s = .ok () (((y.stored (BitVec.ofNat k.bits (x.value u)).toNat (x.seen u)).advance k.bytes
      .esi).advance k.bytes .edi) := by
  rw [movsElem, op_bind_ok (prepareSource_ok (.refl s) hsrc),
    op_bind_ok (prepareDest_ok (prepare_ok hsrc).accessed hdst), op_bind_ok (readElem_run _ _ _),
    op_bind_ok (writeRef_run _ _ _), op_modify]

/-- An element of CMPS (R493). -/
theorem cmpsElem_ok (hsrc : prepare (s.segFor .ds) (s.index .esi) k.bytes false s = .ok x t)
    (hdst : prepare .es (s.index .edi) k.bytes false t = .ok y u) :
    cmpsElem k s = .ok () ((((y.seen (x.seen u)).setStatus (subStatus (BitVec.ofNat k.bits (x.value u))
      (BitVec.ofNat k.bits (y.value (x.seen u))) false)).advance k.bytes .esi).advance k.bytes .edi) := by
  rw [cmpsElem, op_bind_ok (prepareSource_ok (.refl s) hsrc),
    op_bind_ok (prepareDest_ok (prepare_ok hsrc).accessed hdst), op_bind_ok (readElem_run _ _ _),
    op_bind_ok (readElem_run _ _ _), op_bind_ok (setStatus_run _ _), op_modify]

/-- An element of LODS (R495). -/
theorem lodsElem_ok (hsrc : prepare (s.segFor .ds) (s.index .esi) k.bytes false s = .ok x t) :
    lodsElem k s = .ok () (((x.seen t).setReg k .eax (BitVec.ofNat _ (x.value t))).advance k.bytes .esi) := by
  rw [lodsElem, op_bind_ok (prepareSource_ok (.refl s) hsrc), op_bind_ok (readElem_run _ _ _),
    op_bind_ok (setAcc_run _ _ _), op_modify]

/-- An element of STOS (R496). -/
theorem stosElem_ok (hdst : prepare .es (s.index .edi) k.bytes true s = .ok y t) :
    stosElem k s = .ok () ((y.stored (s.reg k .eax).toNat t).advance k.bytes .edi) := by
  rw [stosElem, op_bind_ok (prepareDest_ok (.refl s) hdst), op_bind_ok (getAcc_run _ _),
    op_bind_ok (writeRef_run _ _ _), op_modify, (prepare_ok hdst).accessed.reg]

/-- An element of SCAS (R494). -/
theorem scasElem_ok (hdst : prepare .es (s.index .edi) k.bytes false s = .ok y t) :
    scasElem k s = .ok () (((y.seen t).setStatus (subStatus (s.reg k .eax) (BitVec.ofNat _ (y.value t)) false)).advance
      k.bytes .edi) := by
  have hkeep : Accessed s (y.seen t) := (prepare_ok hdst).accessed.trans (.seen y t)
  rw [scasElem, op_bind_ok (prepareDest_ok (.refl s) hdst), op_bind_ok (readElem_run _ _ _),
    op_bind_ok (getAcc_run _ _), op_bind_ok (setStatus_run _ _), op_modify, hkeep.reg]

/-- Settles O35: without a repeat prefix each instruction is its one element. -/
theorem stringElement : Obligations.StringElement := by
  intro s t1 t2 x y hlock hrep k movs cmps stos lods scas hk acc v
  have element {compares : Bool} {elem : Op Unit} {u : State} (h : elem s = .ok () u) :
      runEnd false (stringStep compares elem) s = completes s u := runEnd_element hlock hrep h
  rcases hk with ⟨rfl, rfl, rfl, rfl, rfl, rfl⟩ | ⟨rfl, rfl, rfl, rfl, rfl, rfl⟩ <;>
    exact ⟨fun hsrc => ⟨fun hdst => element (movsElem_ok hsrc hdst), fun hdst => element (cmpsElem_ok hsrc hdst),
      element (lodsElem_ok hsrc)⟩, fun hdst => element (stosElem_ok hdst), fun hdst => element (scasElem_ok hdst)⟩

/-! ## Repetition -/

/-- A string instruction runs its element, once or repeated. -/
theorem exec_stringOf {i : Instr} {compares : Bool} {elem : Op Unit} (h : stringOf s i = some (compares, elem)) :
    exec i s = runEnd false (stringStep compares elem) s := by
  cases i <;> cases h <;> rfl

section
variable {compares whileEqual : Bool} {elem : Op Unit} (hrep : s.pfx.rep = some whileEqual)
include hrep

/-- With a count of 0 nothing happens (46_string.md R510). -/
theorem stringStep_finished (hzero : s.countZero = true) : stringStep compares elem s = .ok .done s := by
  rw [stringStep, op_get_bind, hrep]
  simp only [hzero, if_true, op_pure]

/-- One element and one off the count; then the test that says whether the instruction goes on (R510, R511). -/
theorem stringStep_element (hzero : s.countZero = false) (helem : elem s = .ok () t) :
    stringStep compares elem s =
      if t.countDown.countZero || (compares && t.countDown.status.zf != whileEqual) then .ok .done t.countDown
      else .ok .again { t.countDown with nextEip := t.countDown.eip } := by
  rw [stringStep, op_get_bind, hrep]
  simp only [hzero, Bool.false_eq_true, if_false]
  rw [op_bind_ok helem, op_modify_bind, op_get_bind, op_ite]
  rfl

end

/-- Settles O36: the step's test, as the element and the count leave it, decides between completing and going on. -/
theorem repeatStep : Obligations.RepeatStep := by
  intro i s t compares elem whileEqual hstring hlock hrep
  rw [exec_stringOf hstring]
  refine ⟨fun hzero => runEnd_done hlock (stringStep_finished hrep hzero), fun hzero helem => ?_⟩
  have hstep := stringStep_element (compares := compares) hrep hzero helem
  have htest : (t.countDown.countZero || (compares && t.countDown.status.zf != whileEqual)) = true ↔
      t.countDown.countZero = true ∨ compares = true ∧ t.countDown.status.zf ≠ whileEqual := by simp
  dsimp only
  split at hstep
  case isTrue h =>
    rw [if_pos (htest.mp h)]
    exact runEnd_done hlock hstep
  case isFalse h =>
    rw [if_neg (mt htest.mpr h)]
    exact runEnd_ok (lock_free hlock) hstep

end Sys2Proof.Machine
end

section
namespace Sys2Proof.Machine
variable {s t u : State} {target : Dword}

/-! # Near transfers -/

/-! ## Branches -/

/-- A near branch as an operation of an instruction: taken within the CS limit, else #GP(0) (47_control_transfer.md
R521). -/
theorem run_nearBranch {op : Op Unit} (hlock : s.pfx.lock = false) (h : op s = nearBranch target u)
    (hlimit : u.segs.cs.limit = s.segs.cs.limit) :
    run false op s = if target.toNat ≤ s.segs.cs.limit.toNat then completes s (u.jump target)
      else deliver (faultEvent ⟨13, some 0⟩ s.eip) (s.rollback u) := by
  rw [← hlimit]
  split
  · exact run_unlocked hlock (h.trans (nearBranch_ok ‹_›))
  · exact run_gp hlock (h.trans (nearBranch_gp (Nat.lt_of_not_le ‹_›)))

/-- A branch behind a change of registers that a fault undoes. -/
theorem run_branchIf {op : Op Unit} {c : Bool} (hlock : s.pfx.lock = false)
    (h : op s = (if c then nearBranch target else pure ()) u) (hlimit : u.segs.cs.limit = s.segs.cs.limit)
    (hundo : s.rollback u = s) :
    run false op s = if c = false then completes s u
      else if target.toNat ≤ s.segs.cs.limit.toNat then completes s (u.jump target) else faults s 13 (some 0) := by
  cases c with
  | false => exact run_unlocked hlock h
  | true =>
    rw [run_nearBranch hlock h hlimit, hundo]
    rfl

/-! ## Conditions -/

/-- (E)CX counted down and the jump that its value decides (R526). -/
theorem run_loopIf (hlock : s.pfx.lock = false) (c : Bool) (rel : BitVec 8) :
    run false (loopIf s c rel) s =
      if (s.reg s.aw .ecx != 1 && c) = false then completes s (s.setReg s.aw .ecx (s.reg s.aw .ecx - 1))
      else if (s.relTarget (relByte rel)).toNat ≤ s.segs.cs.limit.toNat
        then completes s ((s.setReg s.aw .ecx (s.reg s.aw .ecx - 1)).jump (s.relTarget (relByte rel)))
        else faults s 13 (some 0) := by
  refine run_branchIf hlock ?_ rfl rfl
  rw [loopIf, op_bind_ok (setReg_run _ _ _ _)]
  have htest : (s.reg s.aw .ecx - 1 ≠ 0 ∧ c = true) ↔ (s.reg s.aw .ecx != 1 && c) = true := by
    rw [Bool.and_eq_true, bne_iff_ne, sub_ne_zero]
  rw [if_congr htest rfl rfl]

/-- Settles O37: each instruction is `jumpIf`, `setByteIf` or `loopIf` at its condition, and the sixteen conditions are
those of `cond`. -/
theorem conditionResult : Obligations.ConditionResult := by
  refine ⟨⟨fun s short near hlock => ?_, fun s t rm p hlock hloc => ?_⟩, fun s rel hlock => ?_⟩
  · intro f lt jumps i c hmem
    have jcc {i : JccForm → Instr} (n : Nat) {c : Bool} (hi : ∀ g, exec (i g) s = run false (jumpIf s (cond f n) g) s)
        (hc : cond f n = c) : jumps i c (.short short) (short.signExtend 32) ∧ jumps i c (.near near) near.sext := by
      subst hc
      exact ⟨(hi _).trans (run_branchIf hlock rfl rfl rfl), (hi _).trans (run_branchIf hlock rfl rfl rfl)⟩
    simp only [List.mem_cons, List.not_mem_nil, or_false, Prod.mk.injEq] at hmem
    rcases hmem with ⟨rfl, rfl⟩ | ⟨rfl, rfl⟩ | ⟨rfl, rfl⟩ | ⟨rfl, rfl⟩ | ⟨rfl, rfl⟩ | ⟨rfl, rfl⟩ | ⟨rfl, rfl⟩ |
      ⟨rfl, rfl⟩ |
      ⟨rfl, rfl⟩ | ⟨rfl, rfl⟩ | ⟨rfl, rfl⟩ | ⟨rfl, rfl⟩ | ⟨rfl, rfl⟩ | ⟨rfl, rfl⟩ | ⟨rfl, rfl⟩ | ⟨rfl, rfl⟩
    exacts [jcc 0 (fun _ => rfl) rfl, jcc 1 (fun _ => rfl) rfl, jcc 2 (fun _ => rfl) rfl, jcc 3 (fun _ => rfl) rfl,
      jcc 4 (fun _ => rfl) rfl, jcc 5 (fun _ => rfl) rfl, jcc 6 (fun _ => rfl) rfl,
      jcc 7 (fun _ => rfl) (Bool.not_or _ _),
      jcc 8 (fun _ => rfl) rfl, jcc 9 (fun _ => rfl) rfl, jcc 10 (fun _ => rfl) rfl, jcc 11 (fun _ => rfl) rfl,
      jcc 12 (fun _ => rfl) rfl, jcc 13 (fun _ => rfl) rfl, jcc 14 (fun _ => rfl) rfl,
      jcc 15 (fun _ => rfl) (Bool.not_or _ _)]
  · intro f lt i c hmem
    have setcc {i : RM → Instr} (n : Nat) {c : Bool} (hi : exec (i rm) s = run false (setByteIf (cond f n) rm) s)
        (hc : cond f n = c) : exec (i rm) s = completes s (p.put .b (if c then 1 else 0) t) := by
      subst hc
      exact hi.trans (run_unlocked hlock (writeRM_ok hloc))
    simp only [List.mem_cons, List.not_mem_nil, or_false, Prod.mk.injEq] at hmem
    rcases hmem with ⟨rfl, rfl⟩ | ⟨rfl, rfl⟩ | ⟨rfl, rfl⟩ | ⟨rfl, rfl⟩ | ⟨rfl, rfl⟩ | ⟨rfl, rfl⟩ | ⟨rfl, rfl⟩ |
      ⟨rfl, rfl⟩ |
      ⟨rfl, rfl⟩ | ⟨rfl, rfl⟩ | ⟨rfl, rfl⟩ | ⟨rfl, rfl⟩ | ⟨rfl, rfl⟩ | ⟨rfl, rfl⟩ | ⟨rfl, rfl⟩ | ⟨rfl, rfl⟩
    exacts [setcc 0 rfl rfl, setcc 1 rfl rfl, setcc 2 rfl rfl, setcc 3 rfl rfl,
      setcc 4 rfl rfl, setcc 5 rfl rfl, setcc 6 rfl rfl, setcc 7 rfl (Bool.not_or _ _),
      setcc 8 rfl rfl, setcc 9 rfl rfl, setcc 10 rfl rfl, setcc 11 rfl rfl,
      setcc 12 rfl rfl, setcc 13 rfl rfl, setcc 14 rfl rfl, setcc 15 rfl (Bool.not_or _ _)]
  · exact ⟨(run_loopIf hlock true rel).trans (by rw [Bool.and_true]; rfl), run_loopIf hlock s.status.zf rel,
      run_loopIf hlock (!s.status.zf) rel, run_branchIf hlock (by simp only [op_ite, beq_iff_eq]; rfl) rfl rfl⟩

/-! ## Near JMP, CALL and RET -/

/-- A near call within the CS limit pushes the next EIP and jumps (R533). -/
theorem callTo_ok {x : Ref} (hkeep : Accessed s u) (hlimit : target.toNat ≤ s.segs.cs.limit.toNat)
    (hstack : prepare .ss (s.below s.ow.bytes) s.ow.bytes true u = .ok x t) :
    callTo s target u = .ok () (((x.stored (s.nextEip.toNat % 256 ^ s.ow.bytes) t).setSp (s.below s.ow.bytes)).jump
      target) := by
  have hbelow : u.below s.ow.bytes = s.below s.ow.bytes := by rw [State.below, hkeep.segs, hkeep.sp, State.below]
  rw [← hkeep.segs] at hlimit
  rw [← hbelow] at hstack ⊢
  rw [callTo, op_bind_ok (nearCheck_ok hlimit)]
  exact (op_bind_ok (pushItems_one hstack)).trans rfl

theorem callTo_gp (hkeep : Accessed s u) (hlimit : s.segs.cs.limit.toNat < target.toNat) :
    callTo s target u = .error (.exc ⟨13, some 0⟩) u := by
  rw [← hkeep.segs] at hlimit
  exact op_bind_error (nearCheck_gp hlimit)

/-- A near target in an operand of the operand size keeps its value as an offset. -/
theorem toNat_setWidth_offset {k : Width} (a : Val k) : (a.setWidth 32).toNat = a.toNat := by
  have hlt : a.toNat < 2 ^ k.bits := a.isLt
  have hle : 2 ^ k.bits ≤ 2 ^ 32 := Nat.pow_le_pow_right (by decide) (by cases k <;> decide)
  rw [BitVec.toNat_setWidth, Nat.mod_eq_of_lt (Nat.lt_of_lt_of_le hlt hle)]

/-- Settles O38: every target is tested against the CS limit before anything is pushed or released. -/
theorem nearTransfer : Obligations.NearTransfer := by
  intro s t x short rel rm p a k hlock
  dsimp only
  refine ⟨run_nearBranch hlock rfl rfl, run_nearBranch hlock rfl rfl,
    fun hlimit => run_gp hlock (callTo_gp (.refl s) hlimit),
    fun hlimit hstack => run_unlocked hlock (callTo_ok (.refl s) hlimit hstack), fun u ha => ?_, fun hstack => ?_⟩
  · have hread := readRM_operand ha
    have hkeep := accessed_operand ha
    rw [← toNat_setWidth_offset a]
    exact ⟨run_nearBranch hlock (op_bind_ok hread) (by rw [hkeep.segs]),
      fun hlimit => run_gp hlock ((op_bind_ok hread).trans (callTo_gp hkeep hlimit)),
      fun hlimit hstack => run_unlocked hlock ((op_bind_ok hread).trans (callTo_ok hkeep hlimit hstack))⟩
  · have hread := stackRead_ok (sp := s.sp) (k := 0) hstack
    have hlimit : (x.seen t).segs.cs.limit = s.segs.cs.limit := by
      rw [((prepare_ok hstack).accessed.trans (.seen x t)).segs]
    rw [← hlimit]
    split
    · exact run_unlocked hlock ((op_bind_ok hread).trans ((op_bind_ok (nearCheck_ok ‹_›)).trans rfl))
    · exact run_gp hlock ((op_bind_ok hread).trans (op_bind_error (nearCheck_gp (Nat.lt_of_not_le ‹_›))))

end Sys2Proof.Machine
end

section
namespace Sys2Proof.Machine
variable {s t u : State} {e : Event}

/-! # Delivery of an event, and interrupts in real mode -/

/-! ## What follows the entry to a handler -/

/-- The handler is entered (60_exceptions.md R700). -/
theorem deliverFrom_ok {k : Nat} {taken : State → State} {b : Bool} (hd : (e.isDouble && !s.pe) = false)
    (h : interrupt e s = .ok b t) : deliverFrom (k + 1) taken e s = .next (taken t).entered := by
  rw [deliverFrom, hd, h]
  rfl

/-- What a delivery raises is delivered in turn, from the state before it (R699). -/
theorem deliverFrom_exc {k : Nat} {taken : State → State} {x : Exn} (hd : (e.isDouble && !s.pe) = false)
    (h : interrupt e s = .error (.exc x) t) : deliverFrom (k + 1) taken e s =
      match deliveryFault e x with
      | none => .next ((s.rollback t).shutDown e.ret)
      | some e' => deliverFrom k id e' (s.rollback t) := by
  rw [deliverFrom, hd, h]
  rfl

/-- A double fault in real mode is shutdown (R699). -/
theorem deliverFrom_double {k : Nat} {taken : State → State} (hd : e.isDouble = true) (hpe : s.pe = false) :
    deliverFrom (k + 1) taken e s = .next (s.shutDown e.ret) := by
  rw [deliverFrom, hd, hpe]
  rfl

/-- A double fault that is raised while an event other than a double fault is delivered. -/
theorem deliveryFault_double (hd : e.isDouble = false) (c : Option (BitVec 16)) :
    deliveryFault e ⟨8, c⟩ = some ⟨8, .exception, e.ret, some 0, false⟩ := by
  have hne : ¬ (e.kind = .exception ∧ e.vector = 8) := by simpa [Event.isDouble] using hd
  rw [deliveryFault, if_neg hne]
  rfl

/-! ## Real mode -/

theorem prot_of_pe (hpe : s.pe = false) : s.prot = false := by rw [State.prot, hpe, Bool.false_and]

theorem commitReal_real {sel : BitVec 16} {off : Dword} (hpe : s.pe = false) :
    commitReal sel off s = .ok () ((s.setSeg .cs (s.segs.cs.loadReal sel)).jump off) := by
  rw [commitReal_run (prot_of_pe hpe), State.realCs, hpe]
  rfl

section
variable (hpe : s.pe = false)
include hpe

/-- The vector table's entry is read, FLAGS, CS and IP are pushed, and the entry is where execution goes (R701). -/
theorem interrupt_real {l : List (Ref × Nat)} {sp : Dword} (hpg : s.pg = false)
    (hfits : 4 * e.vector.toNat + 3 ≤ s.idtr.limit.toNat)
    (hframe : preparePushes s.segs.ss 0 s.user s.sp (s.realFrame e.ret) (s.atVector e.vector) = .ok (l, sp) t) :
    interrupt e s = .ok false (s.vectored ((storedAll l t).setSp sp) e.vector) := by
  have hkeep : Accessed s (storedAll l t) :=
    ((Accessed.bus s _ _).trans (preparePushes_ok hframe).accessed).trans (.storedAll l t)
  have hpushed : ((storedAll l t).setSp sp).pe = false := hkeep.pe.trans hpe
  have hreal : realDeliver e s = .ok () (s.vectored ((storedAll l t).setSp sp) e.vector) := by
    rw [realDeliver, op_get_bind, op_ite, if_neg (Nat.not_lt.mpr hfits),
      op_bind_ok (linRead_unpaged hpg _ (by decide)), Ref.flat_load_dword]
    refine (op_bind_ok (pushItems_ok hframe)).trans ((op_modify_bind _ _ _).trans ?_)
    exact commitReal_real hpushed
  rw [interrupt, op_get_bind, hpe]
  exact op_bind_ok hreal

theorem interrupt_beyond_vectors (hfits : ¬ 4 * e.vector.toNat + 3 ≤ s.idtr.limit.toNat) :
    interrupt e s = .error (.exc ⟨8, some 0⟩) s := by
  have hreal : realDeliver e s = .error (.exc ⟨8, some 0⟩) s := by
    rw [realDeliver, op_get_bind, op_ite, if_pos (Nat.lt_of_not_le hfits), raise_run]
  rw [interrupt, op_get_bind, hpe]
  exact op_bind_error hreal

/-- A vector beyond the table ends in shutdown, behind a double fault where it is not one already (R699, R701). -/
theorem deliver_beyond_vectors (hfits : ¬ 4 * e.vector.toNat + 3 ≤ s.idtr.limit.toNat) :
    deliver e s = .next (s.shutDown e.ret) := by
  unfold deliver
  cases hd : e.isDouble with
  | true => exact deliverFrom_double hd hpe
  | false =>
    rw [deliverFrom_exc (by rw [hd, Bool.false_and]) (interrupt_beyond_vectors hpe hfits), deliveryFault_double hd]
    exact deliverFrom_double rfl hpe

end

/-- A software interrupt that switches no task. -/
theorem softInt_ok {v : Byte} (h : interrupt ⟨v, .software, s.nextEip, none, false⟩ s = .ok false t) :
    softInt v s = .ok .done t := by
  rw [softInt, op_get_bind]
  exact op_bind_ok h

theorem softInt_exc {v : Byte} {x : Exn}
    (h : interrupt ⟨v, .software, s.nextEip, none, false⟩ s = .error (.exc x) t) :
    softInt v s = .error (.exc x) t := by
  rw [softInt, op_get_bind]
  exact op_bind_error h

theorem v86_of_pe (hpe : s.pe = false) : s.v86 = false := by rw [State.v86, hpe, Bool.false_and]

theorem run_ud {l : Bool} (hl : s.pfx.lock = true → l = true) : run l raiseUD s = faults s 6 none :=
  run_faults hl (by decide) rfl

/-- ESC without a coprocessor is #NM whatever EM and TS are (49_system_misc.md R655). -/
theorem esc_absent (hlock : s.pfx.lock = false) (h : s.cfg.coprocessorPresent = false) (op ext : BitVec 3) (rm : RM) :
    exec (.esc op ext rm) s = faults s 7 none :=
  run_faults (lock_free hlock) (by decide) (by simp only [op_ite, h, raiseNM_run, Bool.not_false, if_true, ite_self])

/-- Settles O41: delivery in real mode is `realDeliver`; INT n, INT 3 and INTO are that delivery inside an instruction,
an undefined opcode and ESC without a coprocessor that of a fault. -/
theorem realInterrupt : Obligations.RealInterrupt := by
  intro s t l sp hpe hpg fits frames pushed
  have entered (e : Event) (hd : e.isDouble = false) (hfits : fits e.vector) (hframe : frames e.vector e.ret) :
      deliver e s = .next (s.vectored pushed e.vector).entered :=
    deliverFrom_ok (by rw [hd, Bool.false_and]) (interrupt_real hpe hpg hfits hframe)
  have software (hlock : s.pfx.lock = false) (v : Byte) (hfits : fits v) (hframe : frames v s.nextEip) {x : Op End}
      (hx : x s = softInt v s) : runEnd false x s = completes s (s.vectored pushed v) :=
    runEnd_done hlock (hx.trans (softInt_ok (interrupt_real hpe hpg hfits hframe)))
  have hiopl := requireIopl3_ok (.inl (v86_of_pe hpe))
  refine ⟨entered, fun e hfits => deliver_beyond_vectors hpe hfits, fun v hlock hfits hframe => ⟨?_, ?_, ?_⟩,
    fun hlock hof => ?_, fun v hlock hfits => ?_, fun hframe hfits => ?_, fun hframe hfits hlock hcop op ext rm => ?_⟩
  · exact software hlock v hfits hframe (op_bind_ok hiopl)
  · rintro rfl
    exact software hlock 3 hfits hframe rfl
  · rintro rfl hof
    exact software hlock 4 hfits hframe (by rw [hof]; rfl)
  · exact runEnd_done hlock (by rw [hof]; rfl)
  · have hraise := softInt_exc (interrupt_beyond_vectors (e := ⟨v, .software, s.nextEip, none, false⟩) hpe hfits)
    refine (runEnd_faults (lock_free hlock) (by decide) ((op_bind_ok hiopl).trans hraise)).trans ?_
    exact deliverFrom_double (k := 4) rfl hpe
  · have hud : faults s 6 none = .next (s.vectored pushed 6).entered := entered _ rfl hfits hframe
    rw [← hud]
    exact ⟨fun n => run_ud fun _ => rfl, fun n => run_ud fun _ => rfl, fun u => run_ud fun _ => rfl⟩
  · rw [esc_absent hlock hcop]
    exact entered _ rfl hfits hframe

end Sys2Proof.Machine
end

section
namespace Sys2Proof.Machine
variable {s : State}

/-! # Halt, WAIT and the coprocessor -/

/-- A meaning that is refused. -/
theorem run_refused {x : Op Unit} {t : State} {r : Refusal} (hlock : s.pfx.lock = false)
    (h : x s = .error (.refuse r) t) : run false x s = .refused r := by
  have hc : checkLock false s = .ok () s := by rw [checkLock, op_get_bind, hlock]; rfl
  rw [run, runEnd, op_bind_ok hc, op_bind_error h]
  rfl

/-- Settles O60: the tests of WAIT and ESC, in their order. -/
theorem haltWaitEscape : Obligations.HaltWaitEscape := by
  refine fun s => ⟨fun hlock => ?_, fun n => run_ud fun _ => rfl, fun n => run_ud fun _ => rfl,
    fun u => run_ud fun _ => rfl⟩
  intro em ts mp
  refine ⟨fun hlevel => run_unlocked hlock ((op_bind_ok (requireCpl0_ok hlevel)).trans rfl), ?_, fun op ext rm => ?_⟩
  · have ended {x : Op End} {e : End} {t : State} : x s = .ok e t → runEnd false x s = .next (t.ended _ e) :=
      runEnd_ok (lock_free hlock)
    have hmp : (bit s.cr0 1 && bit s.cr0 3) = true ↔ mp ∧ ts := Bool.and_eq_true_iff
    have herror : (s.lines.error && !(bit s.cr0 2 && s.cfg.emMasksWait)) = true ↔
        s.lines.error = true ∧ ¬ (em ∧ s.cfg.emMasksWait = true) := by
      rw [Bool.and_eq_true_iff, Bool.not_eq_true', ← Bool.not_eq_true, Bool.and_eq_true_iff]
    show runEnd false _ s = _
    simp only [hmp, herror]
    split
    · exact runEnd_faults (lock_free hlock) (by decide) rfl
    · split
      · exact runEnd_faults (lock_free hlock) (by decide) rfl
      · split
        · exact ended (e := .waits) (t := { s with nextEip := s.eip }) rfl
        · exact ended (e := .done) rfl
  · have hem : (bit s.cr0 2 || bit s.cr0 3) = true ↔ em ∨ ts := Bool.or_eq_true_iff
    by_cases hnm : em ∨ ts
    · rw [if_pos (hnm.imp_right .inl)]
      exact run_faults (v := 7) (lock_free hlock) (by decide) (by rw [op_ite, if_pos (hem.mpr hnm), raiseNM_run])
    · cases hcop : s.cfg.coprocessorPresent with
      | false =>
        rw [if_pos (.inr (.inr rfl))]
        exact esc_absent hlock hcop op ext rm
      | true =>
        have hgo : ¬ (em ∨ ts ∨ true = false) := fun h => hnm (h.imp_right fun h => h.resolve_right (by decide))
        rw [if_neg hgo]
        show run false _ s = _
        rw [if_neg (mt hem.mp hnm), hcop]
        cases herror : s.lines.error with
        | true => exact run_faults (v := 16) (lock_free hlock) (by decide) rfl
        | false => exact run_refused hlock rfl

end Sys2Proof.Machine
end

section
namespace Sys2Proof.Machine
variable {s : State}

/-! # Flag instructions -/

theorem withBit_false (e : Dword) (n : Nat) : withBit e n false = e &&& ~~~ flagBit n true := by
  have hzero : flagBit n false = 0 := by simp [flagBit]
  rw [withBit, hzero]
  exact BitVec.or_zero

theorem withBit_true (e : Dword) (n : Nat) : withBit e n true = e ||| flagBit n true := by
  refine BitVec.eq_of_getLsbD_eq fun i hi => ?_
  simp only [withBit, BitVec.getLsbD_or, BitVec.getLsbD_and, BitVec.getLsbD_not, hi, decide_true, Bool.true_and]
  cases (flagBit n true).getLsbD i <;> simp

theorem withBit_getLsbD (e : Dword) (n : Nat) (b : Bool) {i : Nat} (hi : i < 32) :
    (withBit e n b).getLsbD i = if i = n then b else e.getLsbD i := by
  simp only [withBit, BitVec.getLsbD_or, BitVec.getLsbD_and, BitVec.getLsbD_not, flagBit_getLsbD _ _ hi, hi]
  split <;> simp_all

theorem loadFlags_getLsbD (e m v : Dword) {i : Nat} (hi : i < 32) :
    (loadFlags e m v).getLsbD i = if m.getLsbD i then v.getLsbD i else e.getLsbD i := by
  simp only [loadFlags, BitVec.getLsbD_or, BitVec.getLsbD_and, BitVec.getLsbD_not, hi]
  split <;> simp_all

/-- What `withStatus` puts at each bit. -/
theorem withStatus_getLsbD_cases (e : Dword) (f : Status) {i : Nat} (hi : i < 32) : (withStatus e f).getLsbD i =
    if i = 0 then f.cf else if i = 2 then f.pf else if i = 4 then f.af else if i = 6 then f.zf
    else if i = 7 then f.sf else if i = 11 then f.of else e.getLsbD i := by
  rw [withStatus_getLsbD e f hi, f.bits_getLsbD hi]
  split_ifs <;> simp_all

/-- Writing CF alone is writing bit 0. -/
theorem withBit_carry (e : Dword) (b : Bool) : withBit e 0 b = withStatus e { statusOf e with cf := b } := by
  refine BitVec.eq_of_getLsbD_eq fun i hi => ?_
  rw [withBit_getLsbD e 0 b hi, withStatus_getLsbD_cases _ _ hi]
  split_ifs <;> simp_all [statusOf, bit]

/-- SAHF's mask covers the status flags but OF (48_flag_segment.md R579). -/
theorem loadFlags_ah (e : Dword) (ah : BitVec 8) : loadFlags e 0xD5 (ah.setWidth 32) =
    withStatus e { statusOf e with sf := ah.getLsbD 7, zf := ah.getLsbD 6, af := ah.getLsbD 4, pf := ah.getLsbD 2,
                                   cf := ah.getLsbD 0 } := by
  have hmask : (0xD5 : Dword) = (⟨true, true, true, true, true, false⟩ : Status).bits := rfl
  refine BitVec.eq_of_getLsbD_eq fun i hi => ?_
  rw [loadFlags_getLsbD _ _ _ hi, hmask, Status.bits_getLsbD _ hi, withStatus_getLsbD_cases _ _ hi]
  split_ifs <;> simp_all [statusOf, bit]

/-- The bits of a byte whose stuck bits stand between the flags (10_state.md R36, R37). -/
theorem flagByte_getLsbD : ∀ (sf zf af pf cf : Bool) (i : Fin 8),
    (BitVec.ofBool sf ++ BitVec.ofBool zf ++ 0#1 ++ BitVec.ofBool af ++ 0#1 ++ BitVec.ofBool pf ++ 1#1 ++
      BitVec.ofBool cf : BitVec 8).getLsbD i = ![cf, true, pf, false, af, false, zf, sf] i := by decide

/-- The low byte of EFLAGS where its stuck bits 1, 3 and 5 are as they must be (R37). -/
theorem flags_low_byte {e : Dword} (h : e &&& 0x2A = 2) :
    let f := statusOf e
    let b := BitVec.ofBool
    e.extractLsb' 0 8 = b f.sf ++ b f.zf ++ 0#1 ++ b f.af ++ 0#1 ++ b f.pf ++ 1#1 ++ b f.cf := by
  have stuck (i : Nat) (hi : bit 0x2A i = true) : e.getLsbD i = (2 : Dword).getLsbD i := by
    rw [← h, BitVec.getLsbD_and, show (0x2A : Dword).getLsbD i = true from hi, Bool.and_true]
  have h1 := stuck 1 rfl
  have h3 := stuck 3 rfl
  have h5 := stuck 5 rfl
  refine BitVec.eq_of_getLsbD_eq fun i hi => ?_
  rw [BitVec.getLsbD_extractLsb']
  refine Eq.trans ?_ (flagByte_getLsbD _ _ _ _ _ ⟨i, hi⟩).symm
  rw [decide_eq_true hi, Bool.true_and, Nat.zero_add]
  interval_cases i
  exacts [rfl, h1, rfl, h3, rfl, h5, rfl, rfl]

/-- Settles O48: each flag is a bit, and an index register reads back as moved. -/
theorem flagInstructions : Obligations.FlagInstructions := by
  refine ⟨fun z rest => ⟨rfl, rfl, rfl, rfl, rfl, rfl, rfl⟩, fun s hlock => ?_,
    fun s f i => bit_withStatus s.eflags f, fun s n r => s.regs.read_write s.aw r _⟩
  intro f b ah
  have flag (n : Nat) (v : Bool) : run false (setFlagBit n v) s =
      completes s { s with eflags := withBit s.eflags n v } := run_unlocked hlock (setFlagBit_run n v s)
  have carry (v : Bool) : run false (setFlagBit 0 v) s = completes s (s.setStatus { f with cf := v }) := by
    rw [flag, withBit_carry]
    rfl
  refine ⟨carry false, carry true, carry (!f.cf), ?_, ?_, fun hstuck => ?_, ?_⟩
  · exact (flag 10 false).trans (by rw [withBit_false]; rfl)
  · exact (flag 10 true).trans (by rw [withBit_true]; rfl)
  · refine run_unlocked hlock ?_
    refine (setReg_run .b .esp _ s).trans ?_
    rw [flags_low_byte hstuck]
    rfl
  · refine run_unlocked hlock ((op_bind_ok (getReg_run .b .esp s)).trans ?_)
    exact congrArg (fun e => EStateM.Result.ok () { s with eflags := e }) (loadFlags_ah s.eflags ah)

end Sys2Proof.Machine
end

section
namespace Sys2Proof.Machine
variable {s : State}

/-! # The interrupt flag and the events at a boundary -/

/-! ## Breakpoint masks -/

/-- Only the four breakpoints count. -/
theorem maskOf_congr {f g : Nat → Bool} (h : ∀ i, i < 4 → f i = g i) : maskOf f = maskOf g := by
  refine BitVec.eq_of_getLsbD_eq fun i hi => ?_
  rw [maskOf_getLsbD f hi, maskOf_getLsbD g hi, h i hi]

/-- A mask is met where a breakpoint has both bits. -/
theorem and_maskOf_ne_zero (x : BitVec 4) (f : Nat → Bool) :
    (x &&& maskOf f != 0#4) = true ↔ ∃ i, i < 4 ∧ x.getLsbD i = true ∧ f i = true := by
  rw [bne_iff_ne]
  constructor
  · intro h
    by_contra hall
    refine h (BitVec.eq_of_getLsbD_eq fun i hi => ?_)
    rw [BitVec.getLsbD_and, maskOf_getLsbD f hi, BitVec.getLsbD_zero]
    exact Bool.eq_false_of_not_eq_true fun hb => hall ⟨i, hi, Bool.and_eq_true_iff.mp hb⟩
  · rintro ⟨i, hi, hx, hf⟩ h
    have hbit : (x &&& maskOf f).getLsbD i = true := by rw [BitVec.getLsbD_and, hx, maskOf_getLsbD f hi, hf]; rfl
    rw [h, BitVec.getLsbD_zero] at hbit
    exact absurd hbit (by decide)

/-- The address of a breakpoint by its number (62_debug_superstate.md R834). -/
theorem DebugRegs.addr_eq_getD (d : DebugRegs) {i : Nat} (hi : i < 4) :
    d.addr i = [d.dr0, d.dr1, d.dr2, d.dr3].getD i 0 := by
  interval_cases i <;> rfl

/-- An instruction breakpoint at CS:EIP: RW 00 and the whole address equal (R834). -/
def State.breaksAt (s : State) (i : Nat) : Bool :=
  decide (s.dregs.dr7.extractLsb' (16 + 4 * i) 2 = 0#2 ∧
    [s.dregs.dr0, s.dregs.dr1, s.dregs.dr2, s.dregs.dr3].getD i 0 = s.segs.cs.base + s.eip)

theorem State.codeHits_eq (s : State) : s.codeHits = maskOf s.breaksAt := by
  refine maskOf_congr fun i hi => ?_
  rw [s.dregs.addr_eq_getD hi, State.breaksAt, Bool.decide_and]
  rfl

/-! ## What is due -/

/-- A trap is due when a single step, a task switch with T, or a match of an enabled breakpoint is on record (R837). -/
theorem State.trapDue_iff (s : State) : s.trapDue = true ↔ s.pend.bs = true ∨ s.pend.bt = true ∨
    ∃ i, i < 4 ∧ s.pend.hits.getLsbD i = true ∧ s.dregs.enabled i = true := by
  rw [State.trapDue, Bool.or_eq_true_iff, Bool.or_eq_true_iff, and_maskOf_ne_zero, or_assoc]

theorem State.codeBreak_iff (s : State) : s.codeBreak = true ↔
    bit s.eflags 16 = false ∧ ∃ i, i < 4 ∧ s.breaksAt i = true ∧ s.dregs.enabled i = true := by
  rw [State.codeBreak, Bool.and_eq_true_iff, Bool.not_eq_true', and_maskOf_ne_zero, s.codeHits_eq]
  refine and_congr_right fun _ => exists_congr fun i => and_congr_right fun hi => ?_
  rw [maskOf_getLsbD _ hi]

/-- The order of the events (60_exceptions.md R698). -/
theorem State.due_eq (s : State) : s.due =
    if s.trapDue = true ∧ s.inhibit ≠ .ss ∧ s.run ≠ .shutdown then .trap
    else if s.codeBreak = true ∧ s.run = .running then .breakpoint
    else if s.lines.anmiPending = true ∧ s.cfg.part.hasAnmi = true ∧ s.ssv.enabled = true ∧ s.inhibit ≠ .ss ∧
      s.run ≠ .shutdown then .anmi
    else if s.lines.nmiPending = true ∧ s.nmiMasked = false ∧ s.inhibit ≠ .ss then .nmi
    else if s.lines.intr = true ∧ bit s.eflags 9 = true ∧ s.inhibit = .none then .intr
    else .nothing := by
  simp only [State.due, Bool.and_eq_true, bne_iff_ne, beq_iff_eq, Bool.not_eq_true', and_assoc]

/-- A step that is no RESET, outside SuperState V, takes the event due at the boundary, or goes on. -/
theorem step_eq_due (hreset : s.lines.reset = false) (hrun : s.run ≠ .superstate) :
    let b := s.boundary
    step s =
      if b.trapDue = true ∧ b.inhibit ≠ .ss ∧ b.run ≠ .shutdown then b.takeDue .trap
      else if b.codeBreak = true ∧ b.run = .running then b.takeDue .breakpoint
      else if b.lines.anmiPending = true ∧ b.cfg.part.hasAnmi = true ∧ b.ssv.enabled = true ∧ b.inhibit ≠ .ss ∧
        b.run ≠ .shutdown then b.takeDue .anmi
      else if b.lines.nmiPending = true ∧ b.nmiMasked = false ∧ b.inhibit ≠ .ss then b.takeDue .nmi
      else if b.lines.intr = true ∧ bit b.eflags 9 = true ∧ b.inhibit = .none then b.takeDue .intr
      else if b.run = .running then runInstr exec b else .next b := by
  intro b
  have hstep : step s = match b.due with
      | .nothing => if b.run = .running then runInstr exec b else .next b
      | d => b.takeDue d := by
    rw [step, stepWith, hreset, if_neg (by decide), if_neg hrun] <;> rfl
  rw [hstep, b.due_eq]
  split_ifs <;> rfl

/-! ## The boundary -/

theorem State.settle_pend (s : State) :
    s.settle.pend = if s.inhibit = .ss ∨ s.trapDue = true then s.pend else .none := by
  unfold State.settle
  by_cases hss : s.inhibit = .ss
  · rw [if_pos hss, if_pos (.inl hss)]
  · rw [if_neg hss]
    cases htrap : s.trapDue
    · rw [if_neg (by decide), if_neg (not_or.mpr ⟨hss, by decide⟩)]
    · rw [if_pos rfl, if_pos (.inr rfl)]

/-- The record of debug traps at a boundary: kept where a trap is due or SS holds it off (R837, 60_exceptions.md
R727). -/
theorem State.boundary_pend (s : State) :
    s.boundary.pend = if s.inhibit = .ss ∨ s.trapDue = true then s.pend else .none := by
  obtain ⟨hmasters, -, hpend⟩ := s.masters_frame
  have hflush : s.masters.sampleFlush.pend = s.masters.pend := by unfold State.sampleFlush; split <;> rfl
  have hcode := CodeRead.background s.masters.sampleFlush
  have hkeep := (hmasters.trans (.sampleFlush _)).trans hcode.accessed
  have hsame : s.masters.sampleFlush.background.pend = s.pend := ((codeRead_iff.1 hcode).2.trans hflush).trans hpend
  rw [State.boundary, State.settle_pend, hkeep.inhibit, hsame, State.trapDue, hsame, hkeep.dregs]
  rfl

/-- With no paging, no cache, no devices and no other bus master the boundary changes nothing but that record. -/
theorem State.boundary_plain (hpg : s.pg = false) (hc : s.caches = false) (hm : s.cfg.physMap = [])
    (hflush : s.lines.flush = false) (hstores : s.lines.stores = []) :
    s.boundary = { s with pend := s.boundary.pend } := by
  have hquiet : s.masters.sampleFlush.background = s := by
    rw [s.masters_none hstores, State.sampleFlush, hflush]
    simp [State.background, State.unwatched, hpg, hc, hm]
  have hsettle : s.boundary = s.settle := congrArg State.settle hquiet
  rw [hsettle]
  unfold State.settle
  split
  · rfl
  · split <;> rfl

/-! ## The instructions -/

/-- CLI and STI where the level may (48_flag_segment.md R575 to R577). -/
theorem cli_sti_ok (hlock : s.pfx.lock = false) (hmay : s.pe = false ∨ s.cpl.toNat ≤ s.iopl.toNat) :
    exec .cli s = completes s { s with eflags := s.eflags &&& 0xFFFFFDFF } ∧
    exec .sti s = completes s { s with
      eflags := s.eflags ||| 0x200, inhibit := if bit s.eflags 9 then s.inhibit else .sti } := by
  have hiopl := requireIopl_ok hmay
  have hclear : withBit s.eflags 9 false = s.eflags &&& 0xFFFFFDFF := (withBit_false _ _).trans rfl
  have hset : withBit s.eflags 9 true = s.eflags ||| 0x200 := (withBit_true _ _).trans rfl
  rw [← hclear, ← hset]
  refine ⟨run_unlocked hlock (op_bind_ok hiopl), run_unlocked hlock ((op_bind_ok hiopl).trans ?_)⟩
  rw [op_bind_ok (setFlagBit_run _ _ _)]
  cases bit s.eflags 9 <;> rfl

/-- The IOPL-sensitive instructions in virtual-8086 mode (R544, R581, R582). -/
theorem iopl3_refused (hlock : s.pfx.lock = false) (hpe : s.pe = true) (hvm : s.vm = true) (hiopl : s.iopl ≠ 3) :
    exec .pushf s = faults s 13 (some 0) ∧ exec .popf s = faults s 13 (some 0) ∧
    exec .iret s = faults s 13 (some 0) ∧ ∀ n, exec (.int n) s = faults s 13 (some 0) := by
  have hgp := requireIopl3_gp hpe hvm hiopl
  have hl := lock_free hlock (b := false)
  exact ⟨run_faults hl (by decide) (op_bind_error hgp), run_faults hl (by decide) (op_bind_error hgp),
    runEnd_faults hl (by decide) ((op_get_bind _ s).trans (op_bind_error hgp)),
    fun n => runEnd_faults hl (by decide) (op_bind_error hgp)⟩

/-- Settles O49: the two tests of IOPL, the order of `State.due`, and the record the boundary settles. -/
theorem interruptFlag : Obligations.InterruptFlag := by
  refine ⟨fun s hlock => ⟨cli_sti_ok hlock, fun hpe hlow => ?_, iopl3_refused hlock⟩, fun s hreset hrun => ?_,
    fun s => ⟨?_, State.boundary_plain⟩⟩
  · have hgp := requireIopl_gp hpe hlow
    exact ⟨run_faults (lock_free hlock) (by decide) (op_bind_error hgp),
      run_faults (lock_free hlock) (by decide) (op_bind_error hgp)⟩
  · intro b on trap here broken bits debug
    have htrap : b.trapDue = true ↔ trap := b.trapDue_iff
    have hbreak : b.codeBreak = true ∧ b.run = .running ↔ bit b.eflags 16 = false ∧ b.run = .running ∧ broken := by
      rw [b.codeBreak_iff, and_assoc, and_comm (b := b.run = .running)]
      rfl
    have hbits : bits here = b.codeHits := b.codeHits_eq.symm
    rw [hbits]
    exact (step_eq_due hreset hrun).trans (if_congr (and_congr_left' htrap) rfl (if_congr hbreak rfl rfl))
  · obtain ⟨-, hlines, -⟩ := s.masters_frame
    have hframe : s.boundary = _ := s.boundary_frame
    rw [hlines] at hframe
    rw [← s.boundary_pend]
    exact hframe

end Sys2Proof.Machine
end

section
namespace Sys2Proof.Machine
variable {s t u v : State} {d : Desc} {sel : BitVec 16} {ip : Dword}

/-! # Returns in protected mode -/

/-- The accessed bit is set, then CS loaded (R758). -/
theorem commitCS_ok {level : BitVec 2} (h : setAccessed d s = .ok () t) :
    commitCS sel d level ip s = .ok () (t.enterCS sel d level ip) :=
  op_bind_ok h

theorem Accessed.vm (h : Accessed s t) : t.vm = s.vm := by unfold State.vm; rw [h.eflags]

/-- The tests of the outer stack selector, all passed (R773). -/
theorem checkOuter_ok {level : BitVec 2} (hrpl : rpl sel = level) (hfetch : descFetch sel s = .ok (some d) t)
    (hw : d.isWritable = true) (hdpl : d.dpl = level) (hp : d.p = true) :
    returnOuter.checkOuter level sel s = .ok d t := by
  unfold returnOuter.checkOuter
  rw [op_ite, if_neg (not_not_intro hrpl), op_bind_ok (descOr_some hfetch)]
  simp [hw, hdpl, hp]

/-- A return to an outer level: the stack pointer and SS come from the stack (R773, R774). -/
theorem returnOuter_ok {n base nsp nss : Nat} {k : Dword} {ds : Desc} {u1 u2 u3 u4 : State}
    (hread : stackReads s.sp n [base, base + n] s = .ok [nsp, nss] u1) (hnull : isNull (BitVec.ofNat 16 nss) = false)
    (hcheck : returnOuter.checkOuter (rpl sel) (BitVec.ofNat 16 nss) u1 = .ok ds u2)
    (hoff : ip.toNat ≤ d.limit.toNat) (hd : setAccessed d u2 = .ok () u3)
    (hds : setAccessed ds (u3.enterCS sel d (rpl sel) ip) = .ok () u4) :
    returnOuter sel d ip n base k s = .ok () (State.invalidateOuter
      { u4.setSeg .ss (ds.toReg (BitVec.ofNat 16 nss)) with
        regs := { u4.regs with esp := outerEsp u4.regs.esp ds.attr.db n (BitVec.ofNat 32 nsp) k } } (rpl sel)) := by
  unfold returnOuter
  rw [op_get_bind, op_bind_ok hread]
  simp only [List.getD_cons_zero, List.getD_cons_succ, op_ite, hnull, Bool.false_eq_true, if_false]
  rw [op_bind_ok hcheck, op_ite, if_neg (Nat.not_lt.mpr hoff), op_bind_ok (commitCS_ok hd), op_bind_ok hds]
  rfl

theorem outerEsp_zero (old : Dword) (big : Bool) (n : Nat) (v : Dword) :
    outerEsp old big n v 0 = outerSp old big n v := by
  simp [outerEsp, outerSp]

/-! # IRET -/

/-! ## The flags -/

/-- Bits where two masks differ count for nothing where the values agree. -/
theorem loadFlags_mask_congr {e m m' v : Dword}
    (h : ∀ i, i < 32 → m.getLsbD i = m'.getLsbD i ∨ e.getLsbD i = v.getLsbD i) :
    loadFlags e m v = loadFlags e m' v := by
  refine BitVec.eq_of_getLsbD_eq fun i hi => ?_
  rw [loadFlags_getLsbD e m v hi, loadFlags_getLsbD e m' v hi]
  rcases h i hi with hm | hv
  · rw [hm]
  · rw [hv, ite_self, ite_self]

/-- The bits IRET writes outside a return to virtual-8086 mode (R545). -/
def iretMask (level iopl : BitVec 2) (os32 : Bool) : Dword := flagMask level iopl ||| if os32 then 0x10000 else 0

/-- Where VM cannot change, the flags a return restores. -/
theorem State.restoreFlags_eq {fl : Dword} {os32 : Bool} {level : BitVec 2}
    (h : os32 = true → level = 0 → s.pe = true → s.vm = bit fl 17) :
    s.restoreFlags fl os32 level = { s with eflags := loadFlags s.eflags (iretMask level s.iopl os32) fl } := by
  have hload : (s.restoreFlags fl os32 level).eflags = loadFlags s.eflags (iretMask level s.iopl os32) fl := by
    refine loadFlags_mask_congr fun i hi => ?_
    by_cases hvm : os32 = true ∧ level = 0 ∧ s.pe = true
    · obtain ⟨hos, hlevel, hpe⟩ := hvm
      by_cases h17 : i = 17
      · exact .inr (h17 ▸ h hos hlevel hpe)
      · left
        rw [iretMask, if_pos hos, if_pos ⟨hlevel, hpe⟩, if_pos hos, BitVec.getLsbD_or, BitVec.getLsbD_or]
        congr 1
        have hbits : ∀ j : Fin 32, j.val ≠ 17 → (0x30000 : Dword).getLsbD j = (0x10000 : Dword).getLsbD j := by decide
        exact hbits ⟨i, hi⟩ h17
    · left
      rw [iretMask]
      cases os32
      · rfl
      · rw [if_pos rfl, if_pos rfl, if_neg (fun hc => hvm ⟨rfl, hc.1, hc.2⟩)]
  rw [← hload]
  rfl

/-! ## The three kinds of return -/

/-- The frame popped: the stack pointer above three items. -/
theorem iretReal_ok {a b c : Nat} (hprot : s.prot = false)
    (hread : stackReads s.sp s.ow.bytes [0, s.ow.bytes, 2 * s.ow.bytes] s = .ok [a, b, c] t)
    (hip : (BitVec.ofNat 32 a).toNat ≤ s.segs.cs.limit.toNat) :
    iretReal s = .ok () (((t.setSp (s.above (3 * s.ow.bytes))).enterReal (BitVec.ofNat 16 b)
      (BitVec.ofNat 32 a)).restoreFlags (BitVec.ofNat 32 c) s.os32 s.level) := by
  have hacc := Keeps.stackReads _ _ _ _ _ _ hread
  rw [← hacc.segs] at hip
  simp only [iretReal, op_get_bind]
  rw [op_bind_ok hread]
  simp only [List.getD_cons_zero, List.getD_cons_succ]
  rw [op_bind_ok (nearCheck_ok hip), op_modify_bind]
  exact op_bind_ok (commitReal_run (hacc.prot.trans hprot))

theorem iretReal_gp {a b c : Nat}
    (hread : stackReads s.sp s.ow.bytes [0, s.ow.bytes, 2 * s.ow.bytes] s = .ok [a, b, c] t)
    (hip : s.segs.cs.limit.toNat < (BitVec.ofNat 32 a).toNat) : iretReal s = .error (.exc ⟨13, some 0⟩) t := by
  have hacc := Keeps.stackReads _ _ _ _ _ _ hread
  rw [← hacc.segs] at hip
  simp only [iretReal, op_get_bind]
  rw [op_bind_ok hread]
  exact op_bind_error (nearCheck_gp hip)

/-- IRET's transfer to a tested code segment: at the same level, or to an outer one (R775). -/
def State.iretTo (s : State) (cs : BitVec 16) (d : Desc) (ip : Dword) : Op Unit := do
  if rpl cs = s.cpl then
    if d.limit.toNat < ip.toNat then raiseGP 0
    modify fun t => t.setSp (s.above (3 * s.ow.bytes))
    commitCS cs d s.cpl ip
  else returnOuter cs d ip s.ow.bytes (3 * s.ow.bytes) 0

theorem State.iretTo_same {cs : BitVec 16} (h : rpl cs = s.cpl) (hip : ip.toNat ≤ d.limit.toNat)
    (hacc : setAccessed d (t.setSp (s.above (3 * s.ow.bytes))) = .ok () u) :
    s.iretTo cs d ip t = .ok () (u.enterCS cs d s.cpl ip) := by
  rw [State.iretTo, if_pos h, if_neg (Nat.not_lt.mpr hip)]
  exact commitCS_ok hacc

theorem State.iretTo_gp {cs : BitVec 16} (h : rpl cs = s.cpl) (hip : d.limit.toNat < ip.toNat) :
    s.iretTo cs d ip t = .error (.exc ⟨13, some 0⟩) t := by
  rw [State.iretTo, if_pos h, if_pos hip]
  rfl

theorem State.iretTo_outer {cs : BitVec 16} (h : rpl cs ≠ s.cpl) :
    s.iretTo cs d ip = returnOuter cs d ip s.ow.bytes (3 * s.ow.bytes) 0 := by
  rw [State.iretTo, if_neg h]

/-- A return to a procedure, its frame read: to virtual-8086 mode, or to the code segment CS names (R775). -/
theorem iretProcedure_run {a b c : Nat}
    (hread : stackReads s.sp s.ow.bytes [0, s.ow.bytes, 2 * s.ow.bytes] s = .ok [a, b, c] t) :
    iretProcedure s = if s.os32 = true ∧ bit (BitVec.ofNat 32 c) 17 = true ∧ s.cpl = 0 then iretToV86 a b c t
      else (do
        let d ← returnTarget (BitVec.ofNat 16 b)
        s.iretTo (BitVec.ofNat 16 b) d (BitVec.ofNat 32 a)
        modify fun t => t.restoreFlags (BitVec.ofNat 32 c) s.os32 s.cpl : Op Unit) t := by
  have hn : s.ow.bytes = 4 ↔ s.os32 = true := by
    cases h : s.os32 <;> simp [State.ow, h, Width.ofSize, Width.bytes]
  simp only [iretProcedure, op_get_bind]
  rw [op_bind_ok hread]
  simp only [List.getD_cons_zero, List.getD_cons_succ, hn]
  rw [op_ite]
  congr 1
  refine congrFun (congrArg _ (funext fun d => ?_)) t
  rw [State.iretTo]
  split
  · split <;> rfl
  · rfl

/-- A return to virtual-8086 mode (R776). -/
theorem iretToV86_run {a b c nsp nss es ds fs gs : Nat}
    (hread : stackReads s.sp 4 [12, 16, 20, 24, 28, 32] s = .ok [nsp, nss, es, ds, fs, gs] t) :
    let seg := fun v : Nat => SegReg.ofV86 (BitVec.ofNat 16 v)
    iretToV86 a b c s = if 0xFFFF < a then .error (.exc ⟨13, some 0⟩) t else .ok () (State.jump { t with
      segs := { es := seg es, cs := seg b, ss := seg nss, ds := seg ds, fs := seg fs, gs := seg gs }
      eflags := normFlags (BitVec.ofNat 32 c), cpl := 3
      regs := { t.regs with esp := BitVec.ofNat 32 nsp } } (BitVec.ofNat 32 a)) := by
  intro seg
  simp only [iretToV86, op_get_bind]
  rw [op_bind_ok hread]
  by_cases h : 0xFFFF < a
  · rw [if_pos h, if_pos h]; rfl
  · rw [if_neg h, if_neg h]; rfl

/-- A return to the previous task (R777). -/
theorem iretTask_run {x : Nat} (hlimit : 1 ≤ s.tr.limit.toNat) (hread : linRead s.tr.base 2 s = .ok x t) :
    let link := BitVec.ofNat 16 x
    iretTask s = if (selTI link || isNull link) = true then .error (.exc ⟨10, some (selCode link)⟩) t
      else (do
        let d ← descOr link (raiseTS (selCode link))
        if !d.isTssBusy then raiseTS (selCode link)
        else taskSwitch link d .iret s.nextEip s.eflags 0 : Op Unit) t := by
  intro link
  simp only [iretTask, op_get_bind]
  rw [if_neg (Nat.not_lt.mpr hlimit)]
  refine (op_bind_ok hread).trans ?_
  rw [op_ite]
  rfl

/-! ## The instruction -/

/-- Which kind of return IRET is (R543, R775, R777). -/
def State.iretKind (s : State) : Op Unit :=
  if s.prot then (if bit s.eflags 14 then iretTask else iretProcedure) else iretReal

theorem interruptReturn_run (h : s.v86 = false ∨ s.iopl = 3) : interruptReturn s = (do
    s.iretKind
    modify fun s => { s with nmiMasked := false }
    return endOf ((s.prot && bit s.eflags 14) || s.os32) : Op End) s := by
  simp only [interruptReturn, op_get_bind]
  rw [op_bind_ok (requireIopl3_ok h), State.iretKind]
  cases s.prot
  · rfl
  · cases bit s.eflags 14 <;> rfl

/-- An IRET that completes: NMI is recognised again (60_exceptions.md R722). -/
theorem exec_iret_ok (hlock : s.pfx.lock = false) (hiopl : s.v86 = false ∨ s.iopl = 3)
    (h : s.iretKind s = .ok () t) : exec .iret s = .next (State.complete { t with nmiMasked := false }
      ((s.prot && bit s.eflags 14) || s.os32) (bit s.eflags 8)) := by
  refine (runEnd_ok (lock_free hlock) ((interruptReturn_run hiopl).trans (op_bind_ok h))).trans ?_
  cases hk : (s.prot && bit s.eflags 14) || s.os32 <;> rfl

theorem exec_iret_exc (hlock : s.pfx.lock = false) (hiopl : s.v86 = false ∨ s.iopl = 3) {n : Byte} {c : BitVec 16}
    (hn : n ≠ 0) (h : s.iretKind s = .error (.exc ⟨n, some c⟩) t) :
    exec .iret s = deliver (faultEvent ⟨n, some c⟩ s.eip) (s.rollback t) := by
  refine (runEnd_exc (lock_free hlock) ((interruptReturn_run hiopl).trans (op_bind_error h))).trans ?_
  rw [State.undone, if_neg fun h0 => hn h0.1]

/-! ## What the stack holds -/

theorem readAllAt_lt {n : Nat} : ∀ (l : List Ref) (s : State), (∀ r ∈ l, r.n = n) → ∀ x ∈ (readAllAt l s).1, x < 256 ^ n
  | [], _, _, _, hx => nomatch hx
  | r :: l, s, hn, x, hx => by
    rcases List.mem_cons.mp hx with rfl | hx
    · rw [← hn r List.mem_cons_self]
      exact r.load_lt _ r.n 0
    · exact readAllAt_lt l _ (fun q hq => hn q (List.mem_cons_of_mem r hq)) x hx

/-- Items read off the stack have their size. -/
theorem stackReads_lt {sp : Dword} {n : Nat} {ks l : List Nat} (h : stackReads sp n ks s = .ok l t) :
    ∀ x ∈ l, x < 256 ^ n := by
  obtain ⟨refs, u, hprep, -⟩ := op_bind_eq_ok h
  obtain ⟨hlen, hall⟩ := prepareStack_extent hprep
  have hl : (readAllAt refs u).1 = l := by
    have hread := (stackReads_ok hprep).symm.trans h
    injection hread
  rw [← hl]
  refine readAllAt_lt refs u fun r hr => ?_
  obtain ⟨i, hi, rfl⟩ := List.mem_iff_getElem.mp hr
  exact (hall i hi (hlen ▸ hi)).2

/-! ## The statement's parts -/

section
variable {a b c : Nat} (hlock : s.pfx.lock = false)
  (hread : stackReads s.sp s.ow.bytes [0, s.ow.bytes, 2 * s.ow.bytes] s = .ok [a, b, c] t)
include hlock hread

/-- Outside protected mode (R543). -/
theorem iret_real (hmode : s.pe = false ∨ (s.vm = true ∧ s.cpl = 3 ∧ s.iopl = 3)) :
    (s.segs.cs.limit.toNat < (BitVec.ofNat 32 a).toNat →
      exec .iret s = deliver (faultEvent ⟨13, some 0⟩ s.eip) (s.rollback t)) ∧
    ((BitVec.ofNat 32 a).toNat ≤ s.segs.cs.limit.toNat → exec .iret s = .next (State.complete
      { ((t.setSp (s.above (3 * s.ow.bytes))).setSeg .cs (s.realCs (BitVec.ofNat 16 b))).jump (BitVec.ofNat 32 a) with
        eflags := loadFlags s.eflags (iretMask s.level s.iopl s.os32) (BitVec.ofNat 32 c), nmiMasked := false }
      s.os32 (bit s.eflags 8))) := by
  have hprot : s.prot = false := by
    rcases hmode with hpe | ⟨hvm, -⟩
    · simp [State.prot, hpe]
    · simp [State.prot, hvm]
  have hiopl : s.v86 = false ∨ s.iopl = 3 := by
    rcases hmode with hpe | ⟨-, -, hiopl⟩
    · exact .inl (by simp [State.v86, hpe])
    · exact .inr hiopl
  have hkind : s.iretKind = iretReal := by rw [State.iretKind, hprot]; rfl
  have hacc := Keeps.stackReads _ _ _ _ _ _ hread
  refine ⟨fun hip => exec_iret_exc hlock hiopl (by decide) ?_, fun hip => ?_⟩
  · rw [hkind]
    exact iretReal_gp hread hip
  · have hflags : s.os32 = true → s.level = 0 → s.pe = true → s.vm = bit (BitVec.ofNat 32 c) 17 := by
      intro _ hlevel hpe
      rcases hmode with hreal | ⟨-, hcpl, -⟩
      · rw [hreal] at hpe; cases hpe
      · rw [State.level, hpe, if_pos rfl, hcpl] at hlevel
        exact absurd hlevel (by decide)
    refine (exec_iret_ok hlock hiopl (by rw [hkind]; exact iretReal_ok hprot hread hip)).trans ?_
    have hload : ((t.setSp (s.above (3 * s.ow.bytes))).enterReal (BitVec.ofNat 16 b) (BitVec.ofNat 32 a)).restoreFlags
        (BitVec.ofNat 32 c) s.os32 s.level = _ :=
      State.restoreFlags_eq fun hos hlevel hpe => hacc.vm.trans (hflags hos hlevel (hacc.pe.symm.trans hpe))
    rw [hload, hprot, ← hacc.eflags, ← hacc.iopl, ← hacc.realCs]
    rfl

/-- To a procedure outside virtual-8086 mode: what is left is to restore the flags (R775). -/
theorem iret_procedure (hprot : s.prot = true) (hnt : bit s.eflags 14 = false)
    (hvm : s.os32 = true → s.cpl = 0 → bit (BitVec.ofNat 32 c) 17 = false)
    (htarget : returnTarget (BitVec.ofNat 16 b) t = .ok d u) :
    (∀ v, s.iretTo (BitVec.ofNat 16 b) d (BitVec.ofNat 32 a) u = .ok () v → v.eflags = s.eflags →
      exec .iret s = .next (State.complete { v with
        eflags := loadFlags s.eflags (iretMask s.level s.iopl s.os32) (BitVec.ofNat 32 c), nmiMasked := false }
        s.os32 (bit s.eflags 8))) ∧
    (s.iretTo (BitVec.ofNat 16 b) d (BitVec.ofNat 32 a) u = .error (.exc ⟨13, some 0⟩) u →
      exec .iret s = deliver (faultEvent ⟨13, some 0⟩ s.eip) (s.rollback u)) := by
  obtain ⟨hpe, hnvm⟩ : s.pe = true ∧ s.vm = false := by simpa [State.prot] using hprot
  have hlevel : s.level = s.cpl := by simp [State.level, hpe]
  have hiopl : s.v86 = false ∨ s.iopl = 3 := .inl (by simp [State.v86, hnvm])
  have hkind : s.iretKind = iretProcedure := by rw [State.iretKind, hprot, hnt]; rfl
  have hrun := (iretProcedure_run hread).trans
    ((if_neg fun ⟨hos, hbit, hcpl⟩ => Bool.false_ne_true ((hvm hos hcpl).symm.trans hbit)).trans (op_bind_ok htarget))
  refine ⟨fun v hto hflags => ?_, fun hgp => ?_⟩
  · have hload : v.restoreFlags (BitVec.ofNat 32 c) s.os32 s.cpl = _ := State.restoreFlags_eq fun hos hcpl _ => by
      rw [hvm hos hcpl, State.vm, hflags]
      exact hnvm
    have hdone := hrun.trans ((op_bind_ok hto).trans (congrArg (EStateM.Result.ok ()) hload))
    refine (exec_iret_ok hlock hiopl (hkind ▸ hdone)).trans ?_
    rw [hprot, hnt, hlevel, State.iopl, hflags]
    rfl
  · exact exec_iret_exc hlock hiopl (by decide) (hkind ▸ hrun.trans (op_bind_error hgp))

/-- To virtual-8086 mode, from level 0 with VM set in a 32-bit image (R776). -/
theorem iret_v86 {nsp nss es ds fs gs : Nat} (hprot : s.prot = true) (hnt : bit s.eflags 14 = false)
    (hos : s.os32 = true) (hcpl : s.cpl = 0) (hvm : bit (BitVec.ofNat 32 c) 17 = true)
    (hrest : stackReads s.sp 4 [12, 16, 20, 24, 28, 32] t = .ok [nsp, nss, es, ds, fs, gs] u) :
    (0xFFFF < (BitVec.ofNat 32 a).toNat →
      exec .iret s = deliver (faultEvent ⟨13, some 0⟩ s.eip) (s.rollback u)) ∧
    ((BitVec.ofNat 32 a).toNat ≤ 0xFFFF →
      let seg := fun v : Nat => SegReg.ofV86 (BitVec.ofNat 16 v)
      exec .iret s = .next (State.complete (State.jump { u with
        segs := { es := seg es, cs := seg b, ss := seg nss, ds := seg ds, fs := seg fs, gs := seg gs }
        eflags := normFlags (BitVec.ofNat 32 c), cpl := 3, nmiMasked := false
        regs := { u.regs with esp := BitVec.ofNat 32 nsp } } (BitVec.ofNat 32 a)) true (bit s.eflags 8))) := by
  have hiopl : s.v86 = false ∨ s.iopl = 3 := .inl (by simp_all [State.prot, State.v86])
  have hkind : s.iretKind = iretProcedure := by rw [State.iretKind, hprot, hnt]; rfl
  have hsp : t.sp = s.sp := (Keeps.stackReads _ _ _ _ _ _ hread).sp
  have hsize : s.ow.bytes = 4 := by simp [State.ow, hos, Width.ofSize, Width.bytes]
  have hlow : a < 256 ^ 4 := hsize ▸ stackReads_lt hread a List.mem_cons_self
  have ha : (BitVec.ofNat 32 a).toNat = a := by rw [BitVec.toNat_ofNat, Nat.mod_eq_of_lt (by norm_num at hlow; omega)]
  rw [← hsp] at hrest
  have hrun : s.iretKind s = iretToV86 a b c t := hkind ▸ (iretProcedure_run hread).trans (if_pos ⟨hos, hvm, hcpl⟩)
  have hto := hrun.trans (iretToV86_run hrest)
  rw [ha]
  refine ⟨fun hip => exec_iret_exc hlock hiopl (by decide) (hto.trans (if_pos hip)), fun hip => ?_⟩
  refine (exec_iret_ok hlock hiopl (hto.trans (if_neg (Nat.not_lt.mpr hip)))).trans ?_
  rw [hos, Bool.or_true]
  rfl

end

section
variable {x : Nat} (hlock : s.pfx.lock = false) (hprot : s.prot = true) (hnt : bit s.eflags 14 = true)
include hprot

theorem iopl_free_of_prot : s.v86 = false ∨ s.iopl = 3 := .inl (by simp_all [State.prot, State.v86])

include hnt

theorem iretKind_task : s.iretKind = iretTask := by rw [State.iretKind, hprot, hnt]; rfl

include hlock

/-- The link word must lie in the TSS (21_segmentation.md R182). -/
theorem iret_task_limit (h : s.tr.limit.toNat < 1) :
    exec .iret s = deliver (faultEvent ⟨10, some (selCode s.tr.sel)⟩ s.eip) (s.rollback s) := by
  refine exec_iret_exc hlock (iopl_free_of_prot hprot) (by decide) ?_
  rw [iretKind_task hprot hnt, iretTask, op_get_bind, if_pos h]
  rfl

variable (hlimit : 1 ≤ s.tr.limit.toNat) (hread : linRead s.tr.base 2 s = .ok x t)
include hlimit hread

theorem iret_task_refused (h : isNull (BitVec.ofNat 16 x) = true ∨ selTI (BitVec.ofNat 16 x) = true) :
    exec .iret s = deliver (faultEvent ⟨10, some (selCode (BitVec.ofNat 16 x))⟩ s.eip) (s.rollback t) := by
  refine exec_iret_exc hlock (iopl_free_of_prot hprot) (by decide) ?_
  rw [iretKind_task hprot hnt, iretTask_run hlimit hread, if_pos (by simpa [or_comm] using h)]

/-- The back-link names a descriptor of the GDT: it must be a busy TSS, to which the task switch goes (R777). -/
theorem iret_task (hnull : isNull (BitVec.ofNat 16 x) = false) (hti : selTI (BitVec.ofNat 16 x) = false) :
    let link := BitVec.ofNat 16 x
    let refused := exec .iret s = deliver (faultEvent ⟨10, some (selCode link)⟩ s.eip) (s.rollback u)
    (descFetch link t = .ok none u → refused) ∧
    (descFetch link t = .ok (some d) u → (d.isTssBusy = false → refused) ∧
      (∀ w, d.isTssBusy = true → taskSwitch link d .iret s.nextEip s.eflags 0 u = .ok () w →
        exec .iret s = .next (State.complete { w with nmiMasked := false } true (bit s.eflags 8)))) := by
  intro link refused
  have hiopl := iopl_free_of_prot hprot
  have hrun : s.iretKind s = _ := (congrFun (iretKind_task hprot hnt) s).trans
    ((iretTask_run hlimit hread).trans (if_neg (by simp [hnull, hti])))
  refine ⟨fun hnone => ?_, fun hsome => ⟨fun hbusy => ?_, fun w hbusy hswitch => ?_⟩⟩
  · exact exec_iret_exc hlock hiopl (by decide) (hrun.trans (op_bind_error (descOr_none hnone)))
  · refine exec_iret_exc hlock hiopl (by decide) (hrun.trans ((op_bind_ok (descOr_some hsome)).trans ?_))
    rw [hbusy]
    rfl
  · have hdone : s.iretKind s = .ok () w :=
      hrun.trans ((op_bind_ok (descOr_some hsome)).trans (by rw [hbusy]; exact hswitch))
    refine (exec_iret_ok hlock hiopl hdone).trans ?_
    rw [hprot, hnt]
    rfl

end

theorem Desc.isTssBusy_iff {d : Desc} : d.isTssBusy = true ↔ d.type = 3 ∨ d.type = 11 := by
  simp [Desc.isTssBusy]

end Sys2Proof.Machine

namespace Sys2Proof
open Machine

/-- Settles O46: the frame read decides between the kinds of return (`iret_real`, `iret_procedure`, `iret_v86`,
`iret_task`), each of which restores the flags last. -/
theorem interruptReturn : Obligations.InterruptReturn := by
  refine ⟨fun s t a b c hlock => ?_, fun s t u x d hlock hprot hnt => ?_⟩
  · intro n hread ip cs fl popped mask returned refused
    refine ⟨iret_real hlock hread, fun u v d hprot hnt hvm htarget => ?_,
      fun nsp nss es ds fs gs u hprot hnt hos hcpl hvm hrest => iret_v86 hlock hread hprot hnt hos hcpl hvm hrest⟩
    obtain ⟨hok, hgp⟩ := iret_procedure hlock hread hprot hnt hvm htarget
    have hu : Accessed s u := (Keeps.stackReads _ _ _ _ _ _ hread).trans (Keeps.returnTarget _ _ _ _ htarget)
    refine ⟨fun hsame hip => hgp (State.iretTo_gp hsame hip), fun hsame hip hacc => ?_, ?_⟩
    · have hv : v.eflags = s.eflags := (Keeps.setAccessed _ _ _ _ hacc).eflags.trans hu.eflags
      exact hok _ (State.iretTo_same hsame hip hacc) hv
    · intro nsp nss ds u1 u2 u3 u4 hlevel hstack level sel hnull hrpl hfetch hw hdpl hp hip hd hds
      have hbase : 3 * n + n = 4 * n := by omega
      have h3 : Accessed u u3 := ((Keeps.stackReads _ _ _ _ _ _ hstack).trans (Keeps.descFetch _ _ _ _ hfetch)).trans
        (Keeps.setAccessed _ _ _ _ hd)
      have h4 : u4.eflags = s.eflags := (Keeps.setAccessed _ _ _ _ hds).eflags.trans (hu.trans h3).eflags
      rw [← hu.sp, ← hbase] at hstack
      have hto := returnOuter_ok (k := 0) hstack hnull (checkOuter_ok hrpl hfetch hw hdpl hp) hip hd hds
      rw [outerEsp_zero, ← State.iretTo_outer hlevel] at hto
      exact hok _ hto h4
  · intro link refused
    refine ⟨iret_task_limit hlock hprot hnt, fun hlimit hread => ⟨iret_task_refused hlock hprot hnt hlimit hread,
      fun hnull hti => (iret_task (d := d) hlock hprot hnt hlimit hread hnull hti).1, fun hnull hti hfetch => ?_⟩⟩
    obtain ⟨hbad, hgood⟩ := (iret_task (d := d) hlock hprot hnt hlimit hread hnull hti).2 hfetch
    refine ⟨fun h3 h11 => hbad ?_, fun w hbusy => hgood w (Desc.isTssBusy_iff.mpr hbusy)⟩
    exact Bool.eq_false_of_not_eq_true fun hbusy => (Desc.isTssBusy_iff.mp hbusy).elim h3 h11

end Sys2Proof
end

section
namespace Sys2Proof.Machine
variable {s t u v w : State} {d g : Desc} {sel target : BitVec 16} {off : Dword} {level : BitVec 2}

/-! # Far transfers in protected mode -/

/-! ## The tests of a selector -/

/-- The levels from which a far JMP or CALL may enter a code segment directly (R758). -/
abbrev Desc.mayEnter (d : Desc) (level : BitVec 2) (sel : BitVec 16) : Prop :=
  if d.isConforming then d.dpl.toNat ≤ level.toNat else d.dpl = level ∧ (rpl sel).toNat ≤ level.toNat

/-- Privilege, presence, limit (R758, D73). -/
theorem directCodeCheck_run (sel : BitVec 16) (d : Desc) (off : Dword) (s : State) : directCodeCheck sel d off s =
    if d.mayEnter s.cpl sel then
      if d.p then if d.limit.toNat < off.toNat then .error (.exc ⟨13, some 0⟩) s else .ok () s
      else .error (.exc ⟨11, some (selCode sel)⟩) s
    else .error (.exc ⟨13, some (selCode sel)⟩) s := by
  simp only [directCodeCheck, op_get_bind, op_ite, raiseGP_run, raiseNP_run, op_pure, Desc.mayEnter]
  cases d.isConforming
  · by_cases hdpl : d.dpl = s.cpl <;> by_cases hrpl : (rpl sel).toNat ≤ s.cpl.toNat <;> cases d.p <;>
      simp [hdpl, hrpl, Nat.not_lt.mpr, Nat.lt_of_not_le]
  · by_cases hdpl : d.dpl.toNat ≤ s.cpl.toNat <;> cases d.p <;> simp [hdpl, Nat.not_lt.mpr, Nat.lt_of_not_le]

/-- The code segments a return to a selector may enter (R772). -/
abbrev Desc.mayReturn (d : Desc) (sel : BitVec 16) : Prop :=
  d.isCode = true ∧ if d.isConforming then d.dpl.toNat ≤ (rpl sel).toNat else d.dpl = rpl sel

theorem returnTarget_null (h : isNull sel = true) : returnTarget sel s = .error (.exc ⟨13, some 0⟩) s := by
  simp [returnTarget, h]

theorem returnTarget_inner (hnull : isNull sel = false) (h : (rpl sel).toNat < s.cpl.toNat) :
    returnTarget sel s = .error (.exc ⟨13, some (selCode sel)⟩) s := by
  simp [returnTarget, hnull, h]

theorem returnTarget_some (hnull : isNull sel = false) (h : s.cpl.toNat ≤ (rpl sel).toNat)
    (hfetch : descFetch sel s = .ok (some d) u) : returnTarget sel s =
      if d.mayReturn sel then if d.p then .ok d u else .error (.exc ⟨11, some (selCode sel)⟩) u
      else .error (.exc ⟨13, some (selCode sel)⟩) u := by
  simp only [returnTarget, op_get_bind, hnull, Bool.false_eq_true, if_false, Nat.not_lt.mpr h]
  rw [op_bind_ok (descOr_some hfetch)]
  simp only [op_ite, raiseGP_run, raiseNP_run, op_pure, Desc.mayReturn]
  cases d.isCode
  · simp
  · cases d.isConforming
    · by_cases hdpl : d.dpl = rpl sel <;> cases d.p <;> simp [hdpl]
    · by_cases hdpl : d.dpl.toNat ≤ (rpl sel).toNat <;> cases d.p <;> simp [hdpl, Nat.not_lt.mpr, Nat.lt_of_not_le]

/-- The inner stack's selector (R767, 60_exceptions.md R703). -/
abbrev Desc.mayStack (d : Desc) (sel : BitVec 16) (level : BitVec 2) : Prop :=
  rpl sel = level ∧ d.dpl = level ∧ d.isWritable = true

theorem checkInner_null {ex : BitVec 16} (h : isNull sel = true) :
    checkInner level sel ex s = .error (.exc ⟨10, some ex⟩) s := by
  simp [checkInner, h]

theorem checkInner_none {ex : BitVec 16} (hnull : isNull sel = false) (h : descFetch sel s = .ok none u) :
    checkInner level sel ex s = .error (.exc ⟨10, some (selCode sel + ex)⟩) u := by
  simp only [checkInner, op_ite, hnull, Bool.false_eq_true, if_false]
  exact op_bind_error (descOr_none h)

theorem checkInner_some {ex : BitVec 16} (hnull : isNull sel = false) (h : descFetch sel s = .ok (some d) u) :
    checkInner level sel ex s =
      if d.mayStack sel level then if d.p then .ok d u else .error (.exc ⟨12, some (selCode sel + ex)⟩) u
      else .error (.exc ⟨10, some (selCode sel + ex)⟩) u := by
  simp only [checkInner, op_ite, hnull, Bool.false_eq_true, if_false]
  rw [op_bind_ok (descOr_some h)]
  simp only [op_ite, raiseTS_run, raiseSS_run, op_pure, Desc.mayStack]
  by_cases hrpl : rpl sel = level <;> by_cases hdpl : d.dpl = level <;> cases d.isWritable <;> cases d.p <;>
    simp [hrpl, hdpl]

/-! ## Call gates -/

/-- The gate may be used from CPL and RPL (R759). -/
abbrev Desc.reaches (g : Desc) (level : BitVec 2) (sel : BitVec 16) : Prop :=
  level.toNat ≤ g.dpl.toNat ∧ (rpl sel).toNat ≤ g.dpl.toNat

/-- The code segments a gate may lead to (R759). -/
abbrev Desc.mayGate (d : Desc) (level : BitVec 2) (isCall : Bool) : Prop :=
  d.isCode = true ∧ d.dpl.toNat ≤ level.toNat ∧ (isCall = true ∨ d.isConforming = true ∨ d.dpl = level)

/-- The offset a gate holds. -/
def Desc.gateOff (g : Desc) : Dword :=
  (if bit g.hi 11 then g.hi.extractLsb' 16 16 else 0#16) ++ g.lo.extractLsb' 0 16

section
variable {isCall : Bool}

theorem callGateTarget_unreachable (h : ¬ g.reaches s.cpl sel) :
    callGateTarget sel g isCall s = .error (.exc ⟨13, some (selCode sel)⟩) s := by
  rw [callGateTarget, op_get_bind, if_pos ((lt_maxLevel_iff _ _ _).mpr h), raiseGP_run]

theorem callGateTarget_absent (h : g.reaches s.cpl sel) (hp : g.p = false) :
    callGateTarget sel g isCall s = .error (.exc ⟨11, some (selCode sel)⟩) s := by
  rw [callGateTarget, op_get_bind, if_neg fun hlt => (lt_maxLevel_iff _ _ _).mp hlt h, hp]
  rfl

/-- The gate passed, its code segment is looked up. -/
theorem callGateTarget_passed (h : g.reaches s.cpl sel) (hp : g.p = true) : callGateTarget sel g isCall s =
    (if isNull (g.lo.extractLsb' 16 16) then raiseGP 0
    else do
      let d ← descOr (g.lo.extractLsb' 16 16) (raiseGP (selCode (g.lo.extractLsb' 16 16)))
      if !d.isCode then raiseGP (selCode (g.lo.extractLsb' 16 16))
      else if s.cpl.toNat < d.dpl.toNat then raiseGP (selCode (g.lo.extractLsb' 16 16))
      else if !isCall && !d.isConforming && d.dpl != s.cpl then raiseGP (selCode (g.lo.extractLsb' 16 16))
      else if !d.p then raiseNP (selCode (g.lo.extractLsb' 16 16))
      else return ⟨if bit g.hi 11 then 4 else 2, g.lo.extractLsb' 16 16, d, g.gateOff,
        (g.hi.extractLsb' 0 5).toNat⟩ : Op GateTarget) s := by
  rw [callGateTarget, op_get_bind, if_neg fun hlt => (lt_maxLevel_iff _ _ _).mp hlt h, hp]
  rfl

theorem callGateTarget_some (h : g.reaches s.cpl sel) (hp : g.p = true) (htarget : g.lo.extractLsb' 16 16 = target)
    (hnull : isNull target = false) (hfetch : descFetch target s = .ok (some d) u) :
    callGateTarget sel g isCall s =
      if d.mayGate s.cpl isCall then
        if d.p then .ok ⟨if bit g.hi 11 then 4 else 2, target, d, g.gateOff, (g.hi.extractLsb' 0 5).toNat⟩ u
        else .error (.exc ⟨11, some (selCode target)⟩) u
      else .error (.exc ⟨13, some (selCode target)⟩) u := by
  rw [callGateTarget_passed h hp, htarget, op_ite, if_neg (by simp [hnull]), op_bind_ok (descOr_some hfetch)]
  simp only [op_ite, raiseGP_run, raiseNP_run, op_pure, Desc.mayGate]
  cases d.isCode
  · simp
  · by_cases hdpl : d.dpl.toNat ≤ s.cpl.toNat
    · by_cases heq : d.dpl = s.cpl <;> cases d.isConforming <;> cases isCall <;> cases d.p <;>
        simp [heq, Nat.not_lt.mpr hdpl]
    · simp [hdpl, Nat.lt_of_not_le hdpl]

end

/-! ## The inner stack -/

/-- Two bytes of memory loaded are the word there. -/
theorem Ref.flat_load_word (s : State) (lin : Dword) :
    BitVec.ofNat 16 ((Ref.flat lin 2).load s 2 0) = s.phys (lin + 1) ++ s.phys lin := by
  refine BitVec.eq_of_toNat_eq ?_
  have hpa (i : Nat) (hi : i < 2) : (Ref.flat lin 2).pa i = lin + BitVec.ofNat 32 i := Ref.flat_pa lin (by omega) hi
  have hlt : (Ref.flat lin 2).load s 2 0 < 2 ^ 16 := (Ref.flat lin 2).load_lt s 2 0
  rw [BitVec.toNat_ofNat, Nat.mod_eq_of_lt hlt, toNat_append_byte]
  simp [Ref.load, hpa]

/-- A word loaded, extended to a doubleword. -/
theorem Ref.flat_load_word_zext (s : State) (lin : Dword) :
    BitVec.ofNat 32 ((Ref.flat lin 2).load s 2 0) = 0#16 ++ s.phys (lin + 1) ++ s.phys lin := by
  refine BitVec.eq_of_toNat_eq ?_
  have hpa (i : Nat) (hi : i < 2) : (Ref.flat lin 2).pa i = lin + BitVec.ofNat 32 i := Ref.flat_pa lin (by omega) hi
  have hlt : (Ref.flat lin 2).load s 2 0 < 2 ^ 16 := (Ref.flat lin 2).load_lt s 2 0
  rw [BitVec.toNat_ofNat, Nat.mod_eq_of_lt (by omega)]
  refine Eq.trans ?_ (toNat_append_byte (0#16 ++ s.phys (lin + 1)) (s.phys lin)).symm
  rw [toNat_append_byte]
  simp [Ref.load, hpa]

theorem innerStack_wide {ex : BitVec 16} (hpg : s.pg = false) (h32 : s.tr.attr.e = true) :
    let k := level.toNat
    let at_ := fun i : Nat => s.tr.base + BitVec.ofNat 32 i
    let w := s.bus (at_ (4 + 8 * k)) 4
    innerStack level ex s = if s.tr.limit.toNat < 8 * k + 9 then .error (.exc ⟨10, some (selCode s.tr.sel + ex)⟩) s
      else .ok (w.phys (at_ (8 + 8 * k) + 1) ++ w.phys (at_ (8 + 8 * k)), s.phys32 (at_ (4 + 8 * k)))
        (w.bus (at_ (8 + 8 * k)) 2) := by
  intro k at_ w
  have hwpg : w.pg = false := hpg
  rw [innerStack, op_get_bind, SegReg.isTss32, if_pos h32, op_ite]
  refine if_congr Iff.rfl rfl ?_
  rw [op_bind_ok (linRead_unpaged hpg _ (by decide)), op_bind_ok (linRead_unpaged hwpg _ (by decide)), op_pure,
    Ref.flat_load_dword, Ref.flat_load_word]

theorem innerStack_narrow {ex : BitVec 16} (hpg : s.pg = false) (h16 : s.tr.attr.e = false) :
    let k := level.toNat
    let at_ := fun i : Nat => s.tr.base + BitVec.ofNat 32 i
    let w := s.bus (at_ (2 + 4 * k)) 2
    innerStack level ex s = if s.tr.limit.toNat < 4 * k + 5 then .error (.exc ⟨10, some (selCode s.tr.sel + ex)⟩) s
      else .ok (w.phys (at_ (4 + 4 * k) + 1) ++ w.phys (at_ (4 + 4 * k)),
        0#16 ++ s.phys (at_ (2 + 4 * k) + 1) ++ s.phys (at_ (2 + 4 * k))) (w.bus (at_ (4 + 4 * k)) 2) := by
  intro k at_ w
  have hwpg : w.pg = false := hpg
  rw [innerStack, op_get_bind, SegReg.isTss32, h16, if_neg Bool.false_ne_true, op_ite]
  refine if_congr Iff.rfl rfl ?_
  rw [op_bind_ok (linRead_unpaged hpg _ (by decide)), op_bind_ok (linRead_unpaged hwpg _ (by decide)), op_pure,
    Ref.flat_load_word_zext, Ref.flat_load_word]

/-! ## The kinds of target -/

/-- System descriptors are no code (21_segmentation.md R163). -/
theorem Desc.isCode_of_type {x : BitVec 5} (h : d.type = x) (hx : x.getLsbD 4 = false) : d.isCode = false := by
  have hbit : d.type.getLsbD 4 = bit d.hi 12 := by simp [Desc.type, bit]
  rw [Desc.isCode, ← hbit, h, hx, Bool.false_and]

theorem Desc.isTss_iff : d.isTss = true ↔ d.type ∈ [1#5, 3#5, 9#5, 11#5] := by
  simp [Desc.isTss, or_assoc]

theorem Desc.isCallGate_iff : d.isCallGate = true ↔ d.type = 4 ∨ d.type = 12 := by
  simp [Desc.isCallGate]

section
variable (hprot : s.prot = true)
include hprot

theorem farTransfer_null (hnull : isNull sel = true) : farJmp sel off s = .error (.exc ⟨13, some 0⟩) s ∧
    farCall sel off s = .error (.exc ⟨13, some 0⟩) s := by
  simp [farJmp, farCall, hprot, hnull]

variable (hnull : isNull sel = false)
include hnull

theorem farTransfer_none (h : descFetch sel s = .ok none u) :
    farJmp sel off s = .error (.exc ⟨13, some (selCode sel)⟩) u ∧
    farCall sel off s = .error (.exc ⟨13, some (selCode sel)⟩) u := by
  simp only [farJmp, farCall, op_get_bind, hprot, Bool.not_true, Bool.false_eq_true, if_false, hnull]
  exact ⟨op_bind_error (descOr_none h), op_bind_error (descOr_none h)⟩

variable (hfetch : descFetch sel s = .ok (some d) u)
include hfetch

theorem farTransfer_code (hcode : d.isCode = true) :
    farJmp sel off s = (do directCodeCheck sel d off; commitCS sel d s.cpl off; return .done : Op End) u ∧
    farCall sel off s = (do directCodeCheck sel d off; callSame sel d off s.ow.bytes; return .done : Op End) u := by
  simp only [farJmp, farCall, op_get_bind, hprot, Bool.not_true, Bool.false_eq_true, if_false, hnull]
  rw [op_bind_ok (descOr_some hfetch), op_bind_ok (descOr_some hfetch), if_pos hcode, if_pos hcode]
  exact ⟨rfl, rfl⟩

theorem farTransfer_gate (htype : d.type = 4 ∨ d.type = 12) :
    farJmp sel off s = (do
      let t ← callGateTarget sel d false
      if t.d.limit.toNat < t.off.toNat then raiseGP 0
      commitCS t.sel t.d s.cpl t.off
      return .done : Op End) u ∧
    farCall sel off s = (do
      let t ← callGateTarget sel d true
      if !t.d.isConforming && decide (t.d.dpl.toNat < s.cpl.toNat) then callInner t
      else
        if t.d.limit.toNat < t.off.toNat then raiseGP 0
        callSame t.sel t.d t.off t.n
      return .done : Op End) u := by
  have hcode : d.isCode = false := htype.elim (d.isCode_of_type · rfl) (d.isCode_of_type · rfl)
  have hgate : d.isCallGate = true := Desc.isCallGate_iff.mpr htype
  simp only [farJmp, farCall, op_get_bind, hprot, Bool.not_true, Bool.false_eq_true, if_false, hnull]
  rw [op_bind_ok (descOr_some hfetch), op_bind_ok (descOr_some hfetch), hcode, hgate]
  exact ⟨rfl, rfl⟩

theorem farTransfer_taskGate (htype : d.type = 5) :
    farJmp sel off s = (do taskGateTransfer sel d .jump; return .loaded : Op End) u ∧
    farCall sel off s = (do taskGateTransfer sel d .call; return .loaded : Op End) u := by
  have hcode : d.isCode = false := d.isCode_of_type htype rfl
  have hgate : d.isCallGate = false := by simp [Desc.isCallGate, htype]
  have htask : d.isTaskGate = true := by simp [Desc.isTaskGate, htype]
  simp only [farJmp, farCall, op_get_bind, hprot, Bool.not_true, Bool.false_eq_true, if_false, hnull]
  rw [op_bind_ok (descOr_some hfetch), op_bind_ok (descOr_some hfetch), hcode, hgate, htask]
  exact ⟨rfl, rfl⟩

theorem farTransfer_tss (htss : d.isTss = true) :
    farJmp sel off s = (do tssTransfer sel d .jump; return .loaded : Op End) u ∧
    farCall sel off s = (do tssTransfer sel d .call; return .loaded : Op End) u := by
  have htype := Desc.isTss_iff.mp htss
  simp only [List.mem_cons, List.not_mem_nil, or_false] at htype
  have hcode : d.isCode = false := by
    rcases htype with h | h | h | h <;> exact d.isCode_of_type h rfl
  have hgate : d.isCallGate = false ∧ d.isTaskGate = false := by
    rcases htype with h | h | h | h <;> simp [Desc.isCallGate, Desc.isTaskGate, h]
  simp only [farJmp, farCall, op_get_bind, hprot, Bool.not_true, Bool.false_eq_true, if_false, hnull]
  rw [op_bind_ok (descOr_some hfetch), op_bind_ok (descOr_some hfetch), hcode, hgate.1, hgate.2, htss]
  exact ⟨rfl, rfl⟩

theorem farTransfer_other (hcode : d.isCode = false) (htype : d.type ∉ [1#5, 3#5, 4#5, 5#5, 9#5, 11#5, 12#5]) :
    farJmp sel off s = .error (.exc ⟨13, some (selCode sel)⟩) u ∧
    farCall sel off s = .error (.exc ⟨13, some (selCode sel)⟩) u := by
  simp only [List.mem_cons, List.not_mem_nil, or_false, not_or] at htype
  have hno : d.isCallGate = false ∧ d.isTaskGate = false ∧ d.isTss = false := by
    simp [Desc.isCallGate, Desc.isTaskGate, Desc.isTss, htype]
  obtain ⟨hgate, htask, htss⟩ := hno
  simp only [farJmp, farCall, op_get_bind, hprot, Bool.not_true, Bool.false_eq_true, if_false, hnull]
  rw [op_bind_ok (descOr_some hfetch), op_bind_ok (descOr_some hfetch), hcode, hgate, htask, htss]
  exact ⟨rfl, rfl⟩

end

end Sys2Proof.Machine
end

section
namespace Sys2Proof.Machine
variable {s t u v w : State} {d g : Desc} {sel target : BitVec 16} {off ip : Dword} {f : FarForm} {i : Instr}
  {reason : TaskReason}

/-! # Far JMP, CALL and RET as instructions -/

/-- The transfer of a far JMP or CALL, by why it would switch tasks (R760, R765). -/
def farOp (reason : TaskReason) : BitVec 16 → Dword → Op End := if reason = .call then farCall else farJmp

/-- The two instructions, each with its reason (R790). -/
abbrev FarPair (f : FarForm) (i : Instr) (reason : TaskReason) : Prop :=
  (i, reason) ∈ [(Instr.jmpFar f, TaskReason.jump), (.callFar f, .call)]

theorem farPair_jmp : FarPair f (.jmpFar f) .jump := List.mem_cons_self
theorem farPair_call : FarPair f (.callFar f) .call := List.mem_cons_of_mem _ List.mem_cons_self

/-- A meaning whose task switch faults behind its commit: the exception is the new task's (R794). -/
theorem runEnd_late {x : Op End} {e : Exn} (hlock : s.pfx.lock = false) (h : x s = .error (.late e) t) :
    runEnd false x s = deliver (faultEvent e t.eip) t := by
  have hc : checkLock false s = .ok () s := by simp [checkLock, op_bind, hlock]
  unfold runEnd
  rw [op_bind_ok hc, h]
  rfl

section
variable (hi : FarPair f i reason) (hlock : s.pfx.lock = false) (hptr : farPointer s f s = .ok (sel, off) t)
include hi hlock hptr

theorem exec_far_ok {e : End} (h : farOp reason sel off t = .ok e u) :
    exec i s = .next (u.ended (bit s.eflags 8) e) := by
  simp only [FarPair, List.mem_cons, List.not_mem_nil, or_false, Prod.mk.injEq] at hi
  obtain ⟨rfl, rfl⟩ | ⟨rfl, rfl⟩ := hi <;> exact runEnd_ok (lock_free hlock) ((op_bind_ok hptr).trans h)

theorem exec_far_exc {x : Exn} (hx : x.vector ≠ 0) (h : farOp reason sel off t = .error (.exc x) u) :
    exec i s = deliver (faultEvent x s.eip) (s.rollback u) := by
  have hundone : s.undone u x = s.rollback u := if_neg fun h0 => hx h0.1
  simp only [FarPair, List.mem_cons, List.not_mem_nil, or_false, Prod.mk.injEq] at hi
  rw [← hundone]
  obtain ⟨rfl, rfl⟩ | ⟨rfl, rfl⟩ := hi <;> exact runEnd_exc (lock_free hlock) ((op_bind_ok hptr).trans h)

theorem exec_far_late {x : Exn} (h : farOp reason sel off t = .error (.late x) u) :
    exec i s = deliver (faultEvent x u.eip) u := by
  simp only [FarPair, List.mem_cons, List.not_mem_nil, or_false, Prod.mk.injEq] at hi
  obtain ⟨rfl, rfl⟩ | ⟨rfl, rfl⟩ := hi <;> exact runEnd_late hlock ((op_bind_ok hptr).trans h)

end

/-! ## To a code segment -/

/-- A call at one level: CS and the return address below the stack pointer, then CS loaded (R766). -/
theorem callSame_ok {n : Nat} {l : List (Ref × Nat)} {sp : Dword}
    (hpush : preparePushes s.segs.ss 0 s.user s.sp [(s.csItem n).1, item n s.nextEip] (s.csItem n).2 = .ok (l, sp) v)
    (hset : setAccessed d v = .ok () w) :
    callSame sel d off n s = .ok () (((storedAll l w).setSp sp).enterCS sel d s.cpl off) := by
  simp only [callSame, op_get_bind]
  rw [op_bind_ok (selItem_run n _ s), ← State.csItem, op_bind_ok hpush, op_bind_ok hset, op_bind_ok (writeAll_run l w)]
  rfl

section
variable (hprot : s.prot = true) (hnull : isNull sel = false) (hfetch : descFetch sel s = .ok (some d) u)
  (hcode : d.isCode = true)
include hprot hnull hfetch hcode

/-- A test of the segment that fails stops both. -/
theorem farOp_refused {e : Stop} (hcheck : directCodeCheck sel d off u = .error e u) (reason : TaskReason) :
    farOp reason sel off s = .error e u := by
  obtain ⟨hjmp, hcall⟩ := farTransfer_code (off := off) hprot hnull hfetch hcode
  unfold farOp
  split
  · rw [hcall, op_bind_error hcheck]
  · rw [hjmp, op_bind_error hcheck]

theorem farJmp_code (hcheck : directCodeCheck sel d off u = .ok () u) (hset : setAccessed d u = .ok () v) :
    farJmp sel off s = .ok .done (v.enterCS sel d s.cpl off) := by
  rw [(farTransfer_code hprot hnull hfetch hcode).1, op_bind_ok hcheck, op_bind_ok (commitCS_ok hset), op_pure]

theorem farCall_code {l : List (Ref × Nat)} {sp : Dword} (hcheck : directCodeCheck sel d off u = .ok () u)
    (hpush : preparePushes u.segs.ss 0 u.user u.sp [(u.csItem s.ow.bytes).1, item s.ow.bytes u.nextEip]
      (u.csItem s.ow.bytes).2 = .ok (l, sp) v) (hset : setAccessed d v = .ok () w) :
    farCall sel off s = .ok .done (((storedAll l w).setSp sp).enterCS sel d u.cpl off) := by
  rw [(farTransfer_code hprot hnull hfetch hcode).2, op_bind_ok hcheck, op_bind_ok (callSame_ok hpush hset), op_pure]

end

/-! ## Through a call gate -/

section
variable (hprot : s.prot = true) (hnull : isNull sel = false) (hfetch : descFetch sel s = .ok (some d) u)
  (htype : d.type = 4 ∨ d.type = 12) {x : GateTarget}
include hprot hnull hfetch htype

theorem farJmp_gate_gp (hgate : callGateTarget sel d false u = .ok x v) (hoff : x.d.limit.toNat < x.off.toNat) :
    farJmp sel off s = .error (.exc ⟨13, some 0⟩) v := by
  rw [(farTransfer_gate hprot hnull hfetch htype).1, op_bind_ok hgate, if_pos hoff]
  rfl

theorem farJmp_gate_ok (hgate : callGateTarget sel d false u = .ok x v) (hoff : x.off.toNat ≤ x.d.limit.toNat)
    (hset : setAccessed x.d v = .ok () w) : farJmp sel off s = .ok .done (w.enterCS x.sel x.d s.cpl x.off) := by
  rw [(farTransfer_gate hprot hnull hfetch htype).1, op_bind_ok hgate, if_neg (Nat.not_lt.mpr hoff)]
  exact (op_bind_ok (commitCS_ok hset)).trans rfl

variable (hgate : callGateTarget sel d true u = .ok x v)
include hgate

theorem farCall_gate (hsame : ¬ (x.d.isConforming = false ∧ x.d.dpl.toNat < s.cpl.toNat)) :
    farCall sel off s = (do
      if x.d.limit.toNat < x.off.toNat then raiseGP 0
      callSame x.sel x.d x.off x.n
      return .done : Op End) v := by
  rw [(farTransfer_gate hprot hnull hfetch htype).2, op_bind_ok hgate, if_neg (by simpa using hsame)]

theorem farCall_inner (hinner : x.d.isConforming = false ∧ x.d.dpl.toNat < s.cpl.toNat) :
    farCall sel off s = (do callInner x; return .done : Op End) v := by
  rw [(farTransfer_gate hprot hnull hfetch htype).2, op_bind_ok hgate, if_pos (by simpa using hinner)]

end

/-- A call to an inner level, its stack prepared: the offset is tested, then parameters are read and stored (R767). -/
theorem callInner_run {x : GateTarget} {u1 u2 u3 : State} {ssel : BitVec 16} {sp spEnd : Dword} {ds : Desc}
    {l : List (Ref × Nat)} (hstack : innerStack x.d.dpl 0 s = .ok (ssel, sp) u1)
    (hcheck : checkInner x.d.dpl ssel 0 u1 = .ok ds u2)
    (hpush : preparePushes (ds.toReg ssel) (selCode ssel) false sp (List.replicate (4 + x.count) (x.n, 0)) u2
      = .ok (l, spEnd) u3) :
    (x.d.limit.toNat < x.off.toNat → callInner x s = .error (.exc ⟨13, some 0⟩) u3) ∧
    (∀ (params : List Nat) (u4 u5 u6 : State), x.off.toNat ≤ x.d.limit.toNat →
      stackReads s.sp x.n ((List.range x.count).map fun i => i * x.n) u3 = .ok params u4 →
      let ss := u4.itemOf x.n s.segs.ss.sel
      let cs := ss.2.itemOf x.n s.segs.cs.sel
      let values := [ss.1.2, s.regs.esp.toNat % 256 ^ x.n] ++ params.reverse ++ [cs.1.2, s.nextEip.toNat % 256 ^ x.n]
      setAccessed ds cs.2 = .ok () u5 → setAccessed x.d u5 = .ok () u6 →
      let z := storedAll ((l.map Prod.fst).zip values) u6
      callInner x s = .ok () ((State.setSp { z.setSeg .ss (ds.toReg ssel) with
        regs := { z.regs with esp := sp } } spEnd).enterCS x.sel x.d x.d.dpl x.off)) := by
  constructor
  · intro hoff
    simp only [callInner, op_get_bind]
    rw [op_bind_ok hstack, op_bind_ok hcheck, op_bind_ok hpush, if_pos hoff]
    rfl
  · intro params u4 u5 u6 hoff hparams ss cs values hds hd z
    have hvalues : (([ss.1, item x.n s.regs.esp] ++ params.reverse.map (fun v => (x.n, v)) ++
        [cs.1, item x.n s.nextEip]).map Prod.snd) = values := by
      simp [values, item, Function.comp_def]
    simp only [callInner, op_get_bind]
    rw [op_bind_ok hstack, op_bind_ok hcheck, op_bind_ok hpush, if_neg (Nat.not_lt.mpr hoff)]
    refine (op_bind_ok hparams).trans ((op_bind_ok (selItem_run x.n _ u4)).trans
      ((op_bind_ok (selItem_run x.n _ ss.2)).trans ((op_bind_ok hds).trans ((op_bind_ok hd).trans ?_))))
    rw [hvalues]
    exact (op_bind_ok (writeAll_run _ u6)).trans rfl

/-! ## To a task -/

section
variable {w : State} {tss : Desc}

theorem tssTransfer_refused (h : selTI sel = true ∨ ¬ d.reaches s.cpl sel) :
    tssTransfer sel d reason s = .error (.exc ⟨13, some (selCode sel)⟩) s := by
  simp only [tssTransfer, op_get_bind, op_ite, raiseGP_run, lt_maxLevel_iff]
  rcases h with h | h
  · rw [if_pos h]
  · rw [if_pos h, ite_self]

theorem tssTransfer_run (hti : selTI sel = false) (h : d.reaches s.cpl sel) :
    tssTransfer sel d reason s = taskSwitch sel d reason s.nextEip s.eflags 0 s := by
  simp only [tssTransfer, op_get_bind, op_ite, lt_maxLevel_iff]
  rw [if_neg (by simp [hti]), if_neg (not_not_intro h)]

theorem taskGateTransfer_unreachable (h : ¬ d.reaches s.cpl sel) :
    taskGateTransfer sel d reason s = .error (.exc ⟨13, some (selCode sel)⟩) s := by
  rw [taskGateTransfer, op_get_bind, if_pos ((lt_maxLevel_iff _ _ _).mpr h), raiseGP_run]

theorem taskGateTransfer_absent (h : d.reaches s.cpl sel) (hp : d.p = false) :
    taskGateTransfer sel d reason s = .error (.exc ⟨11, some (selCode sel)⟩) s := by
  rw [taskGateTransfer, op_get_bind, if_neg fun hlt => (lt_maxLevel_iff _ _ _).mp hlt h, hp]
  rfl

/-- Privilege and presence passed, the selector in the gate must name a TSS of the GDT (R763). -/
theorem taskGateTransfer_passed (h : d.reaches s.cpl sel) (hp : d.p = true)
    (htarget : d.lo.extractLsb' 16 16 = target) : taskGateTransfer sel d reason s =
      (if selTI target || isNull target then raiseGP (selCode target)
      else do
        let x ← descOr target (raiseGP (selCode target))
        if !x.isTss then raiseGP (selCode target)
        else taskSwitch target x reason s.nextEip s.eflags 0 : Op Unit) s := by
  rw [taskGateTransfer, op_get_bind, if_neg fun hlt => (lt_maxLevel_iff _ _ _).mp hlt h, hp, htarget]
  rfl

variable (h : d.reaches s.cpl sel) (hp : d.p = true) (htarget : d.lo.extractLsb' 16 16 = target)
include h hp htarget

theorem taskGateTransfer_misplaced (hbad : ¬ (selTI target = false ∧ isNull target = false)) :
    taskGateTransfer sel d reason s = .error (.exc ⟨13, some (selCode target)⟩) s := by
  rw [taskGateTransfer_passed h hp htarget, if_pos, raiseGP_run]
  cases hti : selTI target
  · cases hnull : isNull target
    · exact absurd ⟨hti, hnull⟩ hbad
    · rfl
  · rfl

variable (hplaced : selTI target = false ∧ isNull target = false)
include hplaced

theorem taskGateTransfer_none (hfetch : descFetch target s = .ok none w) :
    taskGateTransfer sel d reason s = .error (.exc ⟨13, some (selCode target)⟩) w := by
  rw [taskGateTransfer_passed h hp htarget, if_neg (by simp [hplaced])]
  exact op_bind_error (descOr_none hfetch)

theorem taskGateTransfer_some (hfetch : descFetch target s = .ok (some tss) w) :
    taskGateTransfer sel d reason s = if tss.isTss then taskSwitch target tss reason s.nextEip s.eflags 0 w
      else .error (.exc ⟨13, some (selCode target)⟩) w := by
  rw [taskGateTransfer_passed h hp htarget, if_neg (by simp [hplaced])]
  refine (op_bind_ok (descOr_some hfetch)).trans ?_
  cases tss.isTss <;> rfl

end

/-! ## Far RET -/

section
variable {a b : Nat} {k : Dword} (hprot : s.prot = true)
  (hread : stackReads s.sp s.ow.bytes [0, s.ow.bytes] s = .ok [a, b] t)
  (htarget : returnTarget (BitVec.ofNat 16 b) t = .ok d u)
include hprot hread htarget

/-- A far RET, its target tested: at the same level, or to an outer one (R771 to R773). -/
theorem farRet_run : farRet k s = (if rpl (BitVec.ofNat 16 b) = s.cpl then do
      if d.limit.toNat < (BitVec.ofNat 32 a).toNat then raiseGP 0
      modify fun v => v.setSp (spAdd s.segs.ss.attr.db s.sp (BitVec.ofNat 32 (2 * s.ow.bytes) + k))
      commitCS (BitVec.ofNat 16 b) d s.cpl (BitVec.ofNat 32 a)
    else returnOuter (BitVec.ofNat 16 b) d (BitVec.ofNat 32 a) s.ow.bytes (2 * s.ow.bytes + k.toNat)
      k : Op Unit) u := by
  simp only [farRet, op_get_bind]
  rw [op_bind_ok hread]
  simp only [hprot, Bool.not_true, Bool.false_eq_true, if_false, List.getD_cons_zero, List.getD_cons_succ]
  rw [op_bind_ok htarget]

theorem farRet_same (hlevel : rpl (BitVec.ofNat 16 b) = s.cpl) (hip : (BitVec.ofNat 32 a).toNat ≤ d.limit.toNat)
    (hset : setAccessed d (u.setSp (spAdd s.segs.ss.attr.db s.sp (BitVec.ofNat 32 (2 * s.ow.bytes) + k))) = .ok () v) :
    farRet k s = .ok () (v.enterCS (BitVec.ofNat 16 b) d s.cpl (BitVec.ofNat 32 a)) := by
  rw [farRet_run hprot hread htarget, if_pos hlevel, if_neg (Nat.not_lt.mpr hip)]
  exact commitCS_ok hset

theorem farRet_same_gp (hlevel : rpl (BitVec.ofNat 16 b) = s.cpl) (hip : d.limit.toNat < (BitVec.ofNat 32 a).toNat) :
    farRet k s = .error (.exc ⟨13, some 0⟩) u := by
  rw [farRet_run hprot hread htarget, if_pos hlevel, if_pos hip]
  rfl

theorem farRet_outer (hlevel : rpl (BitVec.ofNat 16 b) ≠ s.cpl) : farRet k s =
    returnOuter (BitVec.ofNat 16 b) d (BitVec.ofNat 32 a) s.ow.bytes (2 * s.ow.bytes + k.toNat) k u := by
  rw [farRet_run hprot hread htarget, if_neg hlevel]

end

/-- The outer stack pointer and SS read, their tests come before anything changes (R773). -/
theorem returnOuter_run {n base nsp nss : Nat} {k : Dword}
    (hread : stackReads s.sp n [base, base + n] s = .ok [nsp, nss] u) : returnOuter sel d ip n base k s =
      (if isNull (BitVec.ofNat 16 nss) then raiseGP 0
      else do
        let ds ← returnOuter.checkOuter (rpl sel) (BitVec.ofNat 16 nss)
        if d.limit.toNat < ip.toNat then raiseGP 0
        else
          commitCS sel d (rpl sel) ip
          setAccessed ds
          modify fun s => { s.setSeg .ss (ds.toReg (BitVec.ofNat 16 nss)) with
            regs := { s.regs with esp := outerEsp s.regs.esp ds.attr.db n (BitVec.ofNat 32 nsp) k } }
          modify fun s => s.invalidateOuter (rpl sel) : Op Unit) u := by
  simp only [returnOuter, op_get_bind]
  rw [op_bind_ok hread]
  rfl

section
variable {level : BitVec 2}

theorem checkOuter_rpl (h : rpl sel ≠ level) :
    returnOuter.checkOuter level sel s = .error (.exc ⟨13, some (selCode sel)⟩) s := by
  rw [returnOuter.checkOuter, op_ite, if_pos h, raiseGP_run]

theorem checkOuter_none (h : rpl sel = level) (hfetch : descFetch sel s = .ok none u) :
    returnOuter.checkOuter level sel s = .error (.exc ⟨13, some (selCode sel)⟩) u := by
  rw [returnOuter.checkOuter, op_ite, if_neg (not_not_intro h)]
  exact op_bind_error (descOr_none hfetch)

theorem checkOuter_some (h : rpl sel = level) (hfetch : descFetch sel s = .ok (some d) u) :
    returnOuter.checkOuter level sel s =
      if d.isWritable = false ∨ d.dpl ≠ level then .error (.exc ⟨13, some (selCode sel)⟩) u
      else if d.p then .ok d u else .error (.exc ⟨12, some (selCode sel)⟩) u := by
  rw [returnOuter.checkOuter, op_ite, if_neg (not_not_intro h), op_bind_ok (descOr_some hfetch)]
  by_cases hdpl : d.dpl = level <;> cases d.isWritable <;> cases d.p <;> simp [hdpl]

end

/-- What an outer level may not keep becomes null (R774, D76). -/
theorem State.invalidateOuter_get (s : State) (level : BitVec 2) (k : Sreg) :
    (s.invalidateOuter level).segs.get k =
      if k = .cs ∨ k = .ss then s.segs.get k else (s.segs.get k).forOuter level := by
  cases k <;> rfl

theorem SegReg.forOuter_eq (r : SegReg) (level : BitVec 2) : r.forOuter level =
    if r.null = false ∧ ¬ (r.attr.e = true ∧ r.attr.c = true) ∧ r.attr.dpl.toNat < level.toNat
    then { r with sel := 0, null := true, attr := { r.attr with p := false } } else r := by
  unfold SegReg.forOuter SegReg.loadNull
  congr 1
  cases r.attr.e <;> simp [and_assoc]

end Sys2Proof.Machine
end

section
namespace Sys2Proof.Machine
variable {s t u v w : State} {d g : Desc} {sel target : BitVec 16} {off ip : Dword} {f : FarForm} {i : Instr}
  {reason : TaskReason}

/-! # Far transfers in protected mode: the statement -/

/-- The tests passed. -/
theorem directCodeCheck_ok (hptr : farPointer s f s = .ok (sel, off) t)
    (hfetch : descFetch sel t = .ok (some d) u) (hmay : d.mayEnter s.cpl sel) (hp : d.p = true)
    (hoff : off.toNat ≤ d.limit.toNat) : directCodeCheck sel d off u = .ok () u := by
  have hcpl : u.cpl = s.cpl :=
    (Keeps.descFetch _ _ _ _ hfetch).cpl.trans (Keeps.farPointer _ _ _ _ _ hptr).cpl
  rw [directCodeCheck_run, hcpl, if_pos hmay, if_pos hp, if_neg (Nat.not_lt.mpr hoff)]

section
variable (hlock : s.pfx.lock = false) (hptr : farPointer s f s = .ok (sel, off) t)
include hlock hptr

theorem exec_far_refused (hi : FarPair f i reason) {n : Byte} {c : BitVec 16} (hn : n ≠ 0)
    (h : farOp reason sel off t = .error (.exc ⟨n, some c⟩) u) :
    exec i s = deliver (faultEvent ⟨n, some c⟩ s.eip) (s.rollback u) := exec_far_exc hi hlock hptr hn h

/-- What stops the transfer of both stops both instructions. -/
theorem exec_far_both {n : Byte} {c : BitVec 16} (hn : n ≠ 0)
    (h : ∀ reason, farOp reason sel off t = .error (.exc ⟨n, some c⟩) u) :
    exec (.jmpFar f) s = deliver (faultEvent ⟨n, some c⟩ s.eip) (s.rollback u) ∧
    exec (.callFar f) s = deliver (faultEvent ⟨n, some c⟩ s.eip) (s.rollback u) :=
  ⟨exec_far_exc farPair_jmp hlock hptr hn (h _), exec_far_exc farPair_call hlock hptr hn (h _)⟩

/-- What a task switch answers is what the transfer answers (R763, R764). -/
theorem exec_far_task (hi : FarPair f i reason) {x : Op Unit} (hu : Accessed s u)
    (hop : farOp reason sel off t = (do x; return .loaded : Op End) u)
    (hx : x u = taskSwitch target g reason u.nextEip u.eflags 0 w) :
    (∀ z, taskSwitch target g reason s.nextEip s.eflags 0 w = .ok () z →
      exec i s = .next (z.complete true (bit s.eflags 8))) ∧
    (∀ e z, taskSwitch target g reason s.nextEip s.eflags 0 w = .error (.exc e) z → e.vector ≠ 0 →
      exec i s = deliver (faultEvent e s.eip) (s.rollback z)) ∧
    (∀ e z, taskSwitch target g reason s.nextEip s.eflags 0 w = .error (.late e) z →
      exec i s = deliver (faultEvent e z.eip) z) := by
  rw [hu.nextEip, hu.eflags] at hx
  refine ⟨fun z hz => ?_, fun e z hz he => ?_, fun e z hz => ?_⟩
  · exact exec_far_ok (e := .loaded) hi hlock hptr (hop.trans (op_bind_ok (hx.trans hz)))
  · exact exec_far_exc hi hlock hptr he (hop.trans (op_bind_error (hx.trans hz)))
  · exact exec_far_late hi hlock hptr (hop.trans (op_bind_error (hx.trans hz)))

variable (hprot : s.prot = true)
include hprot

/-- The tests of a direct far transfer, in their order (R758, R761). -/
theorem exec_far_tests (hnull : isNull sel = false) (hfetch : descFetch sel t = .ok (some d) u)
    (hcode : d.isCode = true) :
    let refused := fun (n : Byte) (c : BitVec 16) =>
      exec (.jmpFar f) s = deliver (faultEvent ⟨n, some c⟩ s.eip) (s.rollback u) ∧
      exec (.callFar f) s = deliver (faultEvent ⟨n, some c⟩ s.eip) (s.rollback u)
    (¬ d.mayEnter s.cpl sel → refused 13 (selCode sel)) ∧
    (d.mayEnter s.cpl sel → d.p = false → refused 11 (selCode sel)) ∧
    (d.mayEnter s.cpl sel → d.p = true → d.limit.toNat < off.toNat → refused 13 0) := by
  intro refused
  have ht := Keeps.farPointer _ _ _ _ _ hptr
  have hcpl : u.cpl = s.cpl := (Keeps.descFetch _ _ _ _ hfetch).cpl.trans ht.cpl
  have htprot := ht.prot.trans hprot
  have hcheck := directCodeCheck_run sel d off u
  rw [hcpl] at hcheck
  refine ⟨fun hno => ?_, fun hmay hp => ?_, fun hmay hp hoff => ?_⟩
  · rw [if_neg hno] at hcheck
    exact exec_far_both hlock hptr (by decide) (farOp_refused htprot hnull hfetch hcode hcheck)
  · rw [if_pos hmay, if_neg (by simp [hp])] at hcheck
    exact exec_far_both hlock hptr (by decide) (farOp_refused htprot hnull hfetch hcode hcheck)
  · rw [if_pos hmay, if_pos hp, if_pos hoff] at hcheck
    exact exec_far_both hlock hptr (by decide) (farOp_refused htprot hnull hfetch hcode hcheck)

/-- A far JMP to a code segment (R758). -/
theorem exec_jmpFar_code (hnull : isNull sel = false) (hfetch : descFetch sel t = .ok (some d) u)
    (hcode : d.isCode = true) (hmay : d.mayEnter s.cpl sel) (hp : d.p = true) (hoff : off.toNat ≤ d.limit.toNat)
    (hset : setAccessed d u = .ok () v) : exec (.jmpFar f) s = completes s (v.enterCS sel d s.cpl off) := by
  have ht := Keeps.farPointer _ _ _ _ _ hptr
  have hcheck := directCodeCheck_ok hptr hfetch hmay hp hoff
  rw [← ht.cpl]
  exact exec_far_ok farPair_jmp hlock hptr (farJmp_code (ht.prot.trans hprot) hnull hfetch hcode hcheck hset)

/-- A far CALL to a code segment (R766). -/
theorem exec_callFar_code {l : List (Ref × Nat)} {sp : Dword} (hnull : isNull sel = false)
    (hfetch : descFetch sel t = .ok (some d) u)
    (hcode : d.isCode = true) (hmay : d.mayEnter s.cpl sel) (hp : d.p = true) (hoff : off.toNat ≤ d.limit.toNat)
    (hpush : preparePushes s.segs.ss 0 s.user s.sp [(u.csItem s.ow.bytes).1, item s.ow.bytes s.nextEip]
      (u.csItem s.ow.bytes).2 = .ok (l, sp) v) (hset : setAccessed d v = .ok () w) :
    exec (.callFar f) s = completes s (((storedAll l w).setSp sp).enterCS sel d s.cpl off) := by
  have ht := Keeps.farPointer _ _ _ _ _ hptr
  have hu := ht.trans (Keeps.descFetch _ _ _ _ hfetch)
  have hcheck := directCodeCheck_ok hptr hfetch hmay hp hoff
  rw [← ht.ow, ← hu.segs, ← hu.user, ← hu.sp, ← hu.nextEip] at hpush
  rw [← hu.cpl]
  exact exec_far_ok farPair_call hlock hptr (farCall_code (ht.prot.trans hprot) hnull hfetch hcode hcheck hpush hset)

/-! ## Through a call gate -/

variable (hnull : isNull sel = false) (hfetch : descFetch sel t = .ok (some d) u) (htype : d.type = 4 ∨ d.type = 12)
  {x : GateTarget}
include hnull hfetch htype

theorem exec_jmpFar_gate (hgate : callGateTarget sel d false u = .ok x v) :
    (x.d.limit.toNat < x.off.toNat →
      exec (.jmpFar f) s = deliver (faultEvent ⟨13, some 0⟩ s.eip) (s.rollback v)) ∧
    (∀ w, x.off.toNat ≤ x.d.limit.toNat → setAccessed x.d v = .ok () w →
      exec (.jmpFar f) s = completes s (w.enterCS x.sel x.d s.cpl x.off)) := by
  have ht := Keeps.farPointer _ _ _ _ _ hptr
  have htprot := ht.prot.trans hprot
  refine ⟨fun hoff => ?_, fun w hoff hset => ?_⟩
  · exact exec_far_exc farPair_jmp hlock hptr (by decide) (farJmp_gate_gp htprot hnull hfetch htype hgate hoff)
  · rw [← ht.cpl]
    exact exec_far_ok farPair_jmp hlock hptr (farJmp_gate_ok htprot hnull hfetch htype hgate hoff hset)

variable (hgate : callGateTarget sel d true u = .ok x v)
include hgate

/-- A CALL through a gate at the same level (R766). -/
theorem exec_callFar_gate (hsame : ¬ (x.d.isConforming = false ∧ x.d.dpl.toNat < s.cpl.toNat)) :
    (x.d.limit.toNat < x.off.toNat →
      exec (.callFar f) s = deliver (faultEvent ⟨13, some 0⟩ s.eip) (s.rollback v)) ∧
    (∀ (w z : State) (l : List (Ref × Nat)) (sp : Dword), x.off.toNat ≤ x.d.limit.toNat →
      preparePushes s.segs.ss 0 s.user s.sp [(v.csItem x.n).1, item x.n s.nextEip] (v.csItem x.n).2 = .ok (l, sp) w →
      setAccessed x.d w = .ok () z →
      exec (.callFar f) s = completes s (((storedAll l z).setSp sp).enterCS x.sel x.d s.cpl x.off)) := by
  have ht := Keeps.farPointer _ _ _ _ _ hptr
  have hv := (ht.trans (Keeps.descFetch _ _ _ _ hfetch)).trans (Keeps.callGateTarget _ _ _ _ _ _ hgate)
  have hrun := farCall_gate (off := off) (ht.prot.trans hprot) hnull hfetch htype hgate (by rw [ht.cpl]; exact hsame)
  refine ⟨fun hoff => ?_, fun w z l sp hoff hpush hset => ?_⟩
  · rw [if_pos hoff] at hrun
    exact exec_far_exc farPair_call hlock hptr (by decide) hrun
  · rw [if_neg (Nat.not_lt.mpr hoff)] at hrun
    rw [← hv.segs, ← hv.user, ← hv.sp, ← hv.nextEip] at hpush
    rw [← hv.cpl]
    exact exec_far_ok (e := .done) farPair_call hlock hptr (hrun.trans (op_bind_ok (callSame_ok hpush hset)))

/-- A CALL through a gate to an inner level is `callInner` (R767). -/
theorem exec_callFar_inner (hinner : x.d.isConforming = false ∧ x.d.dpl.toNat < s.cpl.toNat) :
    (∀ w, callInner x v = .error (.exc ⟨13, some 0⟩) w →
      exec (.callFar f) s = deliver (faultEvent ⟨13, some 0⟩ s.eip) (s.rollback w)) ∧
    (∀ w, callInner x v = .ok () w → exec (.callFar f) s = completes s w) := by
  have ht := Keeps.farPointer _ _ _ _ _ hptr
  have hrun := farCall_inner (off := off) (ht.prot.trans hprot) hnull hfetch htype hgate (by rw [ht.cpl]; exact hinner)
  refine ⟨fun w hw => ?_, fun w hw => ?_⟩
  · exact exec_far_exc farPair_call hlock hptr (by decide) (hrun.trans (op_bind_error hw))
  · exact exec_far_ok (e := .done) farPair_call hlock hptr (hrun.trans (op_bind_ok hw))

end

/-! ## To an outer level -/

/-- A far RET to an outer level is `returnOuter` (R773). -/
theorem exec_retFar_outer {a b : Nat} {k : Option (BitVec 16)} (hlock : s.pfx.lock = false) (hprot : s.prot = true)
    (hread : stackReads s.sp s.ow.bytes [0, s.ow.bytes] s = .ok [a, b] t)
    (htarget : returnTarget (BitVec.ofNat 16 b) t = .ok d u) (hlevel : rpl (BitVec.ofNat 16 b) ≠ s.cpl) :
    let ret := returnOuter (BitVec.ofNat 16 b) d (BitVec.ofNat 32 a) s.ow.bytes
      (2 * s.ow.bytes + (discard k).toNat) (discard k)
    (∀ w, ret u = .ok () w → exec (.retFar k) s = completes s w) ∧
    (∀ w (n : Byte) (c : BitVec 16), n ≠ 0 → ret u = .error (.exc ⟨n, some c⟩) w →
      exec (.retFar k) s = deliver (faultEvent ⟨n, some c⟩ s.eip) (s.rollback w)) := by
  intro ret
  have hrun := farRet_outer (k := discard k) hprot hread htarget hlevel
  refine ⟨fun w hw => run_unlocked hlock (hrun.trans hw), fun w n c hn hw => ?_⟩
  refine (run_exc (lock_free hlock) (hrun.trans hw)).trans ?_
  rw [State.undone, if_neg fun h0 => hn h0.1]

theorem discard_eq (k : Option (BitVec 16)) : discard k = (k.getD 0).setWidth 32 := by cases k <;> rfl

section
variable (hi : FarPair f i reason) (hprot : s.prot = true) (hnull : isNull sel = false)
  (hfetch : descFetch sel s = .ok (some d) u)
include hi hprot hnull hfetch

theorem farOp_taskGate (htype : d.type = 5) :
    farOp reason sel off s = (do taskGateTransfer sel d reason; return .loaded : Op End) u := by
  simp only [FarPair, List.mem_cons, List.not_mem_nil, or_false, Prod.mk.injEq] at hi
  obtain ⟨hjmp, hcall⟩ := farTransfer_taskGate (off := off) hprot hnull hfetch htype
  obtain ⟨rfl, rfl⟩ | ⟨rfl, rfl⟩ := hi
  · exact hjmp
  · exact hcall

theorem farOp_tss (htss : d.isTss = true) :
    farOp reason sel off s = (do tssTransfer sel d reason; return .loaded : Op End) u := by
  simp only [FarPair, List.mem_cons, List.not_mem_nil, or_false, Prod.mk.injEq] at hi
  obtain ⟨hjmp, hcall⟩ := farTransfer_tss (off := off) hprot hnull hfetch htss
  obtain ⟨rfl, rfl⟩ | ⟨rfl, rfl⟩ := hi
  · exact hjmp
  · exact hcall

end

/-- Both are refused alike where no test depends on which of the two it is. -/
theorem farOp_of_both {r : EStateM.Result Stop State End} (h : farJmp sel off s = r ∧ farCall sel off s = r)
    (reason : TaskReason) : farOp reason sel off s = r := by
  unfold farOp
  split
  · exact h.2
  · exact h.1

/-- Settles O40: each selector names code, a gate or a TSS; the tests of each come before its transfer. -/
theorem farTransferProtected : Obligations.FarTransferProtected := by
  refine ⟨fun f s t u v sel off d hlock hprot hptr => ?_, ⟨?_, ?_, ?_⟩, ⟨?_, ?_, ?_⟩, ⟨?_, ?_⟩, ?_⟩
  · intro refused may
    have htprot := (Keeps.farPointer _ _ _ _ _ hptr).prot.trans hprot
    refine ⟨fun hnull => exec_far_both hlock hptr (by decide) (farOp_of_both (farTransfer_null htprot hnull)),
      fun hnull hfetch => exec_far_both hlock hptr (by decide) (farOp_of_both (farTransfer_none htprot hnull hfetch)),
      fun hnull hfetch => ⟨fun hcode htype => exec_far_both hlock hptr (by decide)
        (farOp_of_both (farTransfer_other htprot hnull hfetch hcode htype)), ?_⟩⟩
    have htests := exec_far_tests hlock hptr hprot hnull hfetch
    exact ⟨fun hcode => (htests hcode).1, fun hcode => (htests hcode).2.1, fun hcode => (htests hcode).2.2,
      exec_jmpFar_code hlock hptr hprot hnull hfetch⟩
  · exact fun f s t u v w sel off d l sp hlock hprot hptr hnull hfetch =>
      exec_callFar_code hlock hptr hprot hnull hfetch
  · intro s t u v a b d k hlock hprot n hread ip cs htarget hlevel
    refine ⟨fun hip => run_gp hlock (farRet_same_gp hprot hread htarget hlevel hip), fun hip hset => ?_⟩
    exact run_unlocked hlock (farRet_same (k := discard k) hprot hread htarget hlevel hip hset)
  · intro s u sel d
    refine ⟨returnTarget_null, returnTarget_inner, fun hnull hrpl hfetch => ?_⟩
    intro fits
    have htarget := returnTarget_some hnull hrpl hfetch
    exact ⟨fun h => htarget.trans (if_neg h), fun h hp => htarget.trans ((if_pos h).trans (if_neg (by simp [hp]))),
      fun h hp => htarget.trans ((if_pos h).trans (if_pos hp))⟩
  · intro s u sel g d isCall target wide off gp reachable
    refine ⟨callGateTarget_unreachable, callGateTarget_absent, fun h hp hnull => ?_, fun h hp hnull hfetch => ?_,
      fun h hp hnull hfetch => ?_⟩
    · rw [callGateTarget_passed h hp, op_ite, if_pos hnull, raiseGP_run]
    · rw [callGateTarget_passed h hp, op_ite, if_neg (by rw [hnull]; decide)]
      exact op_bind_error (descOr_none hfetch)
    · have htarget := callGateTarget_some (isCall := isCall) h hp rfl hnull hfetch
      exact ⟨fun h => htarget.trans (if_neg h), fun h hp => htarget.trans ((if_pos h).trans (if_neg (by simp [hp]))),
        fun h hp => htarget.trans ((if_pos h).trans (if_pos hp))⟩
  · intro f s t u v sel off d g hlock hprot hptr hnull hfetch htype refused inner
    refine ⟨exec_jmpFar_gate hlock hptr hprot hnull hfetch htype, exec_callFar_gate hlock hptr hprot hnull hfetch htype,
      fun hgate hinner u1 u2 u3 u4 u5 u6 ssel sp spEnd ds l params hstack hcheck hpush => ?_⟩
    obtain ⟨hgp, hok⟩ := exec_callFar_inner hlock hptr hprot hnull hfetch htype hgate hinner
    have hv := ((Keeps.farPointer _ _ _ _ _ hptr).trans (Keeps.descFetch _ _ _ _ hfetch)).trans
      (Keeps.callGateTarget _ _ _ _ _ _ hgate)
    obtain ⟨hcgp, hcok⟩ := callInner_run hstack hcheck hpush
    rw [hv.sp, hv.segs, hv.regs, hv.nextEip] at hcok
    refine ⟨fun hoff => hgp _ (hcgp hoff), fun hoff hread => ?_⟩
    intro ss cs values hds hd
    exact hok _ (hcok _ _ _ _ hoff hread hds hd)
  · intro s u level sel ex d ts
    refine ⟨fun hnull => (checkInner_null hnull).trans (by simp [ts]), checkInner_none, fun hnull hfetch => ?_,
      fun hpg => ⟨innerStack_wide hpg, innerStack_narrow hpg⟩⟩
    have hcheck := checkInner_some (level := level) (ex := ex) hnull hfetch
    exact ⟨fun h => hcheck.trans (if_neg h), fun h hp => hcheck.trans ((if_pos h).trans (if_neg (by simp [hp]))),
      fun h hp => hcheck.trans ((if_pos h).trans (if_pos hp))⟩
  · intro s t t3 u v a b d k nsp nss hlock hprot n dropped hread ip cs level htarget hlevel hstack sel refused
    obtain ⟨hok, hno⟩ := exec_retFar_outer (k := k) hlock hprot hread htarget hlevel
    have hk : (discard k).toNat = dropped.toNat := by
      rw [discard_eq, BitVec.toNat_setWidth, Nat.mod_eq_of_lt (by have := dropped.isLt; omega)]
    have ht3 := (Keeps.stackReads _ _ _ _ _ _ hread).trans (Keeps.returnTarget _ _ _ _ htarget)
    rw [← ht3.sp, ← hk] at hstack
    have hrun := returnOuter_run (sel := cs) (d := d) (ip := ip) (k := discard k) hstack
    refine ⟨fun hnull => ?_, fun hnull hrpl => ?_, fun hnull hrpl hfetch => ?_, fun ds w z hnull hrpl hfetch => ?_⟩
    · exact hno _ _ _ (by decide) (hrun.trans (congrFun (if_pos hnull) u))
    · refine hno _ _ _ (by decide) (hrun.trans ?_)
      rw [if_neg (by rw [hnull]; decide)]
      exact op_bind_error (checkOuter_rpl hrpl)
    · refine hno _ _ _ (by decide) (hrun.trans ?_)
      rw [if_neg (by rw [hnull]; decide)]
      exact op_bind_error (checkOuter_none hrpl hfetch)
    · have hcheck := checkOuter_some hrpl hfetch
      rw [if_neg (by rw [hnull]; decide)] at hrun
      refine ⟨fun hbad => ?_, fun hw hdpl hp => ?_, fun hw hdpl hp hip => ?_, fun hw hdpl hp hip hd hds => ?_⟩
      · exact hno _ _ _ (by decide) (hrun.trans (op_bind_error (hcheck.trans (if_pos hbad))))
      · refine hno _ _ _ (by decide) (hrun.trans (op_bind_error (hcheck.trans ?_)))
        rw [if_neg (by simp [hw, hdpl]), if_neg (by simp [hp])]
        rfl
      · refine hno _ _ _ (by decide) (hrun.trans ((op_bind_ok (checkOuter_ok hrpl hfetch hw hdpl hp)).trans ?_))
        rw [if_pos hip, raiseGP_run]
      · refine (hok _ (returnOuter_ok hstack hnull (checkOuter_ok hrpl hfetch hw hdpl hp) hip hd hds)).trans ?_
        rw [discard_eq]
        rfl
  · intro s level k r
    rw [State.invalidateOuter_get, SegReg.forOuter_eq]
    cases k <;> simp [r]
  · intro f s t u v sel off d tss i reason hlock hprot hptr hnull hfetch hi refused switches may
    have ht := Keeps.farPointer _ _ _ _ _ hptr
    have hu := ht.trans (Keeps.descFetch _ _ _ _ hfetch)
    have hmay : d.reaches s.cpl sel ↔ d.reaches u.cpl sel := by rw [hu.cpl]
    have htss := farOp_tss (off := off) hi (ht.prot.trans hprot) hnull hfetch
    have htask := farOp_taskGate (off := off) hi (ht.prot.trans hprot) hnull hfetch
    refine ⟨fun h hno => ?_, fun h hti hyes => ?_, fun h => ?_⟩
    · exact exec_far_refused hlock hptr hi (by decide)
        ((htss h).trans (op_bind_error (tssTransfer_refused (hno.imp_right (mt hmay.mpr)))))
    · exact exec_far_task hlock hptr hi hu (htss h) (tssTransfer_run hti (hmay.mp hyes))
    · intro target placed
      have hop := htask h
      refine ⟨fun hno => ?_, fun hyes hp => ?_, fun hyes hp hbad => ?_, fun hyes hp hplaced hnone => ?_,
        fun hyes hp hplaced hsome => ?_⟩
      · exact exec_far_refused hlock hptr hi (by decide)
          (hop.trans (op_bind_error (taskGateTransfer_unreachable (mt hmay.mpr hno))))
      · exact exec_far_refused hlock hptr hi (by decide)
          (hop.trans (op_bind_error (taskGateTransfer_absent (hmay.mp hyes) hp)))
      · exact exec_far_refused hlock hptr hi (by decide)
          (hop.trans (op_bind_error (taskGateTransfer_misplaced (hmay.mp hyes) hp rfl hbad)))
      · exact exec_far_refused hlock hptr hi (by decide)
          (hop.trans (op_bind_error (taskGateTransfer_none (hmay.mp hyes) hp rfl hplaced hnone)))
      · have hrun := taskGateTransfer_some (reason := reason) (hmay.mp hyes) hp rfl hplaced hsome
        refine ⟨fun hno => ?_, fun hyes => ?_⟩
        · exact exec_far_refused hlock hptr hi (by decide)
            (hop.trans (op_bind_error (hrun.trans (if_neg (by simp [hno])))))
        · exact exec_far_task hlock hptr hi hu hop (hrun.trans (if_pos hyes))

end Sys2Proof.Machine
end

section
namespace Sys2Proof.Machine
variable {α β : Type} {s t u v : State} {d : Desc} {sel ex tsel : BitVec 16} {k : Sreg} {i : TaskImage}
  {reason : TaskReason} {eip fl : Dword}

/-! # The task switch -/

/-! ## Tests -/

/-- The tests of phase C for CS (R794 checks 7 to 9). -/
theorem taskLoadCs_some (hnull : isNull sel = false) (hfetch : descFetch sel s = .ok (some d) u) :
    taskLoadCs sel ex s = if d.mayReturn sel then
        if d.p then (do setAccessed d; modify fun s => s.setSeg .cs (d.toReg sel) : Op Unit) u
        else .error (.exc ⟨11, some (selCode sel + ex)⟩) u
      else .error (.exc ⟨10, some (selCode sel + ex)⟩) u := by
  rw [taskLoadCs, op_ite, if_neg (by rw [hnull]; decide), op_bind_ok (descOr_some hfetch)]
  simp only [op_ite, raiseTS_run, raiseNP_run, Desc.mayReturn]
  cases d.isCode
  · simp
  · cases d.isConforming
    · by_cases hdpl : d.dpl = rpl sel <;> cases d.p <;> simp [hdpl]
    · by_cases hdpl : d.dpl.toNat ≤ (rpl sel).toNat <;> cases d.p <;> simp [hdpl, Nat.not_lt.mpr, Nat.lt_of_not_le]

/-- For SS (checks 10 to 13). -/
theorem taskLoadSs_some (hnull : isNull sel = false) (hfetch : descFetch sel s = .ok (some d) u) :
    taskLoadSs sel ex s = if d.isWritable = true ∧ d.dpl = s.cpl ∧ rpl sel = s.cpl then
        if d.p then (do setAccessed d; modify fun s => s.setSeg .ss (d.toReg sel) : Op Unit) u
        else .error (.exc ⟨12, some (selCode sel + ex)⟩) u
      else .error (.exc ⟨10, some (selCode sel + ex)⟩) u := by
  rw [taskLoadSs, op_get_bind, op_ite, if_neg (by rw [hnull]; decide), op_bind_ok (descOr_some hfetch)]
  simp only [op_ite, raiseTS_run, raiseSS_run]
  by_cases hdpl : d.dpl = s.cpl <;> by_cases hrpl : rpl sel = s.cpl <;> cases d.isWritable <;> cases d.p <;>
    simp [hdpl, hrpl]

/-- For DS, ES, FS and GS (checks 14 to 17). -/
theorem taskLoadData_some (hnull : isNull sel = false) (hfetch : descFetch sel s = .ok (some d) u) :
    taskLoadData k sel ex s = if d.isReadable = true ∧
          (d.isConforming = true ∨ (s.cpl.toNat ≤ d.dpl.toNat ∧ (rpl sel).toNat ≤ d.dpl.toNat)) then
        if d.p then (do setAccessed d; modify fun s => s.setSeg k (d.toReg sel) : Op Unit) u
        else .error (.exc ⟨11, some (selCode sel + ex)⟩) u
      else .error (.exc ⟨10, some (selCode sel + ex)⟩) u := by
  rw [taskLoadData, op_get_bind, op_ite, if_neg (by rw [hnull]; decide), op_bind_ok (descOr_some hfetch)]
  simp only [op_ite, raiseTS_run, raiseNP_run, lt_maxLevel_iff]
  cases d.isReadable
  · simp
  · by_cases hlevel : s.cpl.toNat ≤ d.dpl.toNat ∧ (rpl sel).toNat ≤ d.dpl.toNat <;>
      cases d.isConforming <;> cases d.p <;> simp [hlevel]

/-- For LDTR (checks 5 and 6). -/
theorem taskLoadLdtr_some (hnull : isNull sel = false) (hti : selTI sel = false)
    (hfetch : descFetch sel s = .ok (some d) u) : taskLoadLdtr sel ex s =
      if d.type = 2 ∧ d.p = true then .ok () { u with ldtr := d.toReg sel }
      else .error (.exc ⟨10, some (selCode sel + ex)⟩) u := by
  have htests : (!d.isLdt || !d.p) = true ↔ ¬ (d.type = 2 ∧ d.p = true) := by cases d.p <;> simp [Desc.isLdt]
  rw [taskLoadLdtr, op_ite, if_neg (by rw [hnull]; decide), op_ite, if_neg (by rw [hti]; decide)]
  refine (op_bind_ok (descOr_some hfetch)).trans ?_
  by_cases h : d.type = 2 ∧ d.p = true
  · rw [if_pos h, if_neg (mt htests.mp (not_not_intro h)), op_modify]
  · rw [if_neg h, if_pos (htests.mpr h), raiseTS_run]

theorem taskLoads_null (h : isNull sel = true) :
    taskLoadLdtr sel ex s = .ok () s ∧ taskLoadData k sel ex s = .ok () s ∧
    taskLoadCs sel ex s = .error (.exc ⟨10, some (selCode sel + ex)⟩) s ∧
    taskLoadSs sel ex s = .error (.exc ⟨10, some (selCode sel + ex)⟩) s := by
  simp [taskLoadLdtr, taskLoadData, taskLoadCs, taskLoadSs, h]

theorem taskLoadLdtr_local (hnull : isNull sel = false) (hti : selTI sel = true) :
    taskLoadLdtr sel ex s = .error (.exc ⟨10, some (selCode sel + ex)⟩) s := by
  simp [taskLoadLdtr, hnull, hti]

theorem taskLoads_none (hnull : isNull sel = false) (hfetch : descFetch sel s = .ok none u) :
    let stop := EStateM.Result.error (Stop.exc ⟨10, some (selCode sel + ex)⟩) u
    (selTI sel = false → taskLoadLdtr sel ex s = stop) ∧ taskLoadCs sel ex s = stop ∧ taskLoadSs sel ex s = stop ∧
    taskLoadData k sel ex s = stop := by
  intro stop
  simp only [taskLoadLdtr, taskLoadCs, taskLoadSs, taskLoadData, op_get_bind, op_ite, hnull, Bool.false_eq_true,
    if_false]
  refine ⟨fun hti => ?_, op_bind_error (descOr_none hfetch), op_bind_error (descOr_none hfetch),
    op_bind_error (descOr_none hfetch)⟩
  rw [if_neg (by rw [hti]; decide)]
  exact op_bind_error (descOr_none hfetch)

/-! ## What a switch keeps -/

/-- What the tests of phase C leave as they are. -/
structure TaskFrame where
  tr : SegReg
  cr0 : Dword
  dregs : DebugRegs
  eflags : Dword
  gdtr : TableReg
  idtr : TableReg

def State.taskFrame (s : State) : TaskFrame :=
  { tr := s.tr, cr0 := s.cr0, dregs := s.dregs, eflags := s.eflags, gdtr := s.gdtr, idtr := s.idtr }

theorem Accessed.taskFrame (h : Accessed s t) : t.taskFrame = s.taskFrame := by
  simp only [State.taskFrame, h.tr, h.cr0, h.dregs, h.eflags, h.gdtr, h.idtr]

/-- An operation that completes changes none of it. -/
def InTask (x : Op α) : Prop := ∀ s a t, x s = .ok a t → t.taskFrame = s.taskFrame

namespace InTask

theorem keeps {x : Op α} (h : Keeps x) : InTask x := fun s a t hx => (h s a t hx).taskFrame

theorem update {f : State → State} (h : ∀ s, (f s).taskFrame = s.taskFrame) : InTask (modify f : Op Unit) :=
  fun s _ _ hx => by cases hx; exact h s

theorem bind {x : Op α} {f : α → Op β} (hx : InTask x) (hf : ∀ a, InTask (f a)) : InTask (x >>= f) :=
  fun s _ _ h => by
    obtain ⟨a, u, h1, h2⟩ := op_bind_eq_ok h
    exact (hf a u _ _ h2).trans (hx s a u h1)

theorem ite {c : Prop} [Decidable c] {x y : Op α} (hx : InTask x) (hy : InTask y) : InTask (if c then x else y) := by
  split <;> assumption

theorem raise (n : Byte) (c : Option (BitVec 16)) : InTask (Machine.raise n c : Op α) := .keeps (.raise _ _)

theorem pure (a : α) : InTask (Pure.pure a : Op α) := .keeps (.pure _)

theorem get : InTask (MonadState.get : Op State) := .keeps .get

theorem descOr {sel : BitVec 16} {n : Byte} {c : Option (BitVec 16)} :
    InTask (Machine.descOr sel (Machine.raise n c)) :=
  .keeps (.descOr (.raise _ _))

theorem load {d : Desc} {f : State → State} (h : ∀ s, (f s).taskFrame = s.taskFrame) :
    InTask (do Machine.setAccessed d; modify f) :=
  .bind (.keeps (.setAccessed d)) fun _ => .update h

theorem taskLoadLdtr : InTask (Machine.taskLoadLdtr sel ex) :=
  .ite (.pure _) <| .ite (.raise _ _) <| .bind .descOr fun _ => .ite (.raise _ _) (.update fun _ => rfl)

theorem taskLoadCs : InTask (Machine.taskLoadCs sel ex) :=
  .ite (.raise _ _) <| .bind .descOr fun _ => .ite (.raise _ _) <| .ite (.raise _ _) <| .ite (.raise _ _) <|
    .ite (.raise _ _) (.load fun _ => rfl)

theorem taskLoadSs : InTask (Machine.taskLoadSs sel ex) :=
  .bind .get fun _ => .ite (.raise _ _) <| .bind .descOr fun _ => .ite (.raise _ _) <| .ite (.raise _ _) <|
    .ite (.raise _ _) (.load fun _ => rfl)

theorem taskLoadData : InTask (Machine.taskLoadData k sel ex) :=
  .bind .get fun _ => .ite (.pure _) <| .bind .descOr fun _ => .ite (.raise _ _) <| .ite (.raise _ _) <|
    .ite (.raise _ _) (.load fun _ => rfl)

theorem taskPhaseC : InTask (Machine.taskPhaseC tsel i ex) :=
  have last : InTask (MonadState.get >>= fun s : State =>
      if s.segs.cs.limit.toNat < s.eip.toNat then raiseTS (selCode tsel + ex) else Pure.pure ()) :=
    .bind .get fun _ => .ite (.raise _ _) (.pure _)
  .bind .taskLoadLdtr fun _ => .bind .get fun _ => .ite
    (.bind (.update fun _ => rfl) fun _ => last)
    (.bind .taskLoadCs fun _ => .bind .taskLoadSs fun _ => .bind .taskLoadData fun _ => .bind .taskLoadData fun _ =>
      .bind .taskLoadData fun _ => .bind .taskLoadData fun _ => last)

theorem committed {x : Op α} (hx : InTask x) : InTask (Machine.committed x) := fun s a t h => by
  unfold Machine.committed at h
  cases hxs : x s with
  | ok b u =>
    rw [hxs] at h
    cases h
    exact hx s a t hxs
  | error e u =>
    rw [hxs] at h
    cases e <;> cases h

end InTask

/-! ## The processor's own prepared accesses -/

theorem sysWriteAll_run : ∀ (l : List (Ref × Nat)) (s : State), sysWriteAll l s = .ok () (sysStoredAll l s)
  | [], _ => rfl
  | (r, x) :: l, s => by
    have hwrite : sysWrite r x s = .ok () (r.store x r.n 0 (r.touched true s)) := op_bind_ok (touchRef_run r true s)
    rw [sysWriteAll, op_bind_ok hwrite, sysWriteAll_run l]
    rfl

theorem readAll_run : ∀ (l : List Ref) (s : State), readAll l s = .ok (sysReadAt l s).1 (sysReadAt l s).2
  | [], _ => rfl
  | r :: l, s => by
    have hload : loadRef r (r.touched false s) = .ok (r.value s) (r.sysSeen s) := rfl
    rw [readAll, op_bind_ok (touchRef_run r false s), op_bind_ok hload, op_bind_ok (readAll_run l _)]
    rfl

theorem Keeps.sysWriteAll (l : List (Ref × Nat)) : Keeps (Machine.sysWriteAll l) := by
  induction l with
  | nil => exact .pure ()
  | cons p l ih =>
    obtain ⟨r, x⟩ := p
    exact .bind (.bind (.touchRef _ _) fun _ s _ _ h => by cases h; exact .store r x _ _ s) fun _ => ih

theorem Keeps.readAll (l : List Ref) : Keeps (Machine.readAll l) := by
  induction l with
  | nil => exact .pure []
  | cons r l ih => exact .bind (.touchRef _ _) fun _ => .bind (.loadRef _) fun _ => .bind ih fun _ => .pure _

theorem Keeps.prepareSaves (base : Dword) (l : List (Nat × Nat × Nat)) : Keeps (Machine.prepareSaves base l) := by
  induction l with
  | nil => exact .pure []
  | cons p l ih => exact .bind (.probe _ _ _ _) fun _ => .bind ih fun _ => .pure _

theorem Keeps.prepareReads (base : Dword) (l : List (Nat × Nat)) : Keeps (Machine.prepareReads base l) := by
  induction l with
  | nil => exact .pure []
  | cons p l ih => exact .bind (.probe _ _ _ _) fun _ => .bind ih fun _ => .pure _

theorem Keeps.prepareUpdate (wanted : Bool) (lin : Dword) : Keeps (Machine.prepareUpdate wanted lin) :=
  .ite (.bind (.probe _ _ _ _) fun _ => .pure _) (.pure _)

theorem Keeps.makeUpdate (o a : Dword) (r : Option Ref) : Keeps (Machine.makeUpdate o a r) := by
  cases r with
  | none => exact .pure ()
  | some r =>
    exact .bind (.touchRef _ _) fun _ => .bind (.loadRef _) fun _ s _ _ h => by cases h; exact .store r _ _ _ s

/-! ## The switch behind its tests -/

/-- Phases A's probes, B, C and D (R794). -/
def switchTask (tsel : BitVec 16) (d : Desc) (reason : TaskReason) (savedEip fl : Dword) (ex : BitVec 16) :
    Op Unit := do
  let s ← get
  let is32 := bit d.hi 11
  let saves ← prepareSaves s.tr.base (tssSave s savedEip (if reason = .iret then fl &&& ~~~ 0x4000 else fl))
  let reads ← prepareReads d.base (tssFields is32)
  let link ← prepareSaves d.base (if reason.nests then [(0, 2, s.tr.sel.toNat)] else [])
  let oldBusy ← prepareUpdate (reason = .jump || reason = .iret)
    (s.gdtr.base + BitVec.ofNat 32 (selOffset s.tr.sel + 4))
  let newBusy ← prepareUpdate (reason != .iret) (d.lin + 4)
  makeUpdate 0 0xFFFFFDFF oldBusy
  sysWriteAll saves
  let l ← readAll reads
  let k ← freshMany (if is32 then 0 else 8)
  sysWriteAll link
  makeUpdate 0x200 0xFFFFFFFF newBusy
  modify fun s => s.enterTask tsel d reason (TaskImage.ofReads is32 k l)
  committed (taskPhaseC tsel (TaskImage.ofReads is32 k l) ex)
  if (TaskImage.ofReads is32 k l).t then modify fun s => { s with pend := { s.pend with bt := true } }

/-- The tests of phase A, in their order (R791). -/
theorem taskSwitch_run : taskSwitch tsel d reason eip fl ex s =
    if d.p = false then .error (.exc ⟨11, some (selCode tsel + ex)⟩) s
    else if reason ≠ .iret ∧ d.isTssBusy = true then .error (.exc ⟨13, some (selCode tsel + ex)⟩) s
    else if reason = .iret ∧ d.isTssBusy = false then .error (.exc ⟨10, some (selCode tsel)⟩) s
    else if d.limit.toNat < tssMin (bit d.hi 11) then .error (.exc ⟨10, some (selCode tsel + ex)⟩) s
    else if s.tr.limit.toNat < tssMin s.tr.isTss32 then .error (.exc ⟨10, some (selCode s.tr.sel + ex)⟩) s
    else switchTask tsel d reason eip fl ex s := by
  rw [taskSwitch, switchTask]
  dsimp only
  by_cases hp : d.p = false
  · rw [if_pos hp, if_pos (by simp [hp])]
    rfl
  rw [if_neg hp, if_neg (by simpa using hp)]
  by_cases hbusy : reason ≠ .iret ∧ d.isTssBusy = true
  · rw [if_pos hbusy, if_pos hbusy]
    rfl
  rw [if_neg hbusy, if_neg hbusy]
  by_cases hidle : reason = .iret ∧ d.isTssBusy = false
  · rw [if_pos hidle, if_pos (by simpa using hidle)]
    rfl
  rw [if_neg hidle, if_neg (by simpa using hidle)]
  by_cases hlimit : d.limit.toNat < tssMin (bit d.hi 11)
  · rw [if_pos hlimit, if_pos hlimit]
    rfl
  rw [if_neg hlimit, if_neg hlimit, op_get_bind, op_get_bind]
  by_cases hold : s.tr.limit.toNat < tssMin s.tr.isTss32
  · rw [if_pos hold, if_pos hold]
    rfl
  rw [if_neg hold, if_neg hold]
  cases reason <;> rfl

/-- Where the operation completes, the state it leaves has a property. -/
def Leads (x : Op α) (s : State) (P : State → Prop) : Prop := ∀ a t, x s = .ok a t → P t

namespace Leads
variable {P : State → Prop}

theorem keeps {x : Op α} {f : α → Op β} (h : Accessed s u) (hx : Keeps x)
    (hf : ∀ a v, Accessed s v → Leads (f a) v P) : Leads (x >>= f) u P := fun b t hxf => by
  obtain ⟨a, v, hxa, hfa⟩ := op_bind_eq_ok hxf
  exact hf a v (h.trans (hx u a v hxa)) b t hfa

theorem get {f : State → Op β} (hf : Leads (f u) u P) : Leads (MonadState.get >>= f) u P := hf

end Leads

/-- What a completed switch holds is what the new task was entered with (R794). -/
theorem switchTask_frame (h : switchTask tsel d reason eip fl ex s = .ok () t) :
    ∃ u i, Accessed s u ∧ t.taskFrame = (u.enterTask tsel d reason i).taskFrame := by
  have hall : Leads (switchTask tsel d reason eip fl ex) s fun t =>
      ∃ u i, Accessed s u ∧ t.taskFrame = (u.enterTask tsel d reason i).taskFrame :=
    .get <| .keeps (.refl s) (.prepareSaves _ _) fun _ _ h => .keeps h (.prepareReads _ _) fun _ _ h =>
    .keeps h (.prepareSaves _ _) fun _ _ h => .keeps h (.prepareUpdate _ _) fun _ _ h =>
    .keeps h (.prepareUpdate _ _) fun _ _ h => .keeps h (.makeUpdate _ _ _) fun _ _ h =>
    .keeps h (.sysWriteAll _) fun _ _ h => .keeps h (.readAll _) fun l _ h =>
    .keeps h (fun _ _ _ h => by cases h; rfl) fun k _ h => .keeps h (.sysWriteAll _) fun _ _ h =>
    .keeps h (.makeUpdate _ _ _) fun _ u h _ t hx => by
      rw [op_modify_bind] at hx
      obtain ⟨_, v, hcommitted, hlast⟩ := op_bind_eq_ok hx
      refine ⟨u, TaskImage.ofReads (bit d.hi 11) k l, h, ?_⟩
      have hphase : v.taskFrame = _ := InTask.committed .taskPhaseC _ _ _ hcommitted
      have hend : t.taskFrame = v.taskFrame := by split at hlast <;> cases hlast <;> rfl
      exact hend.trans hphase
  exact hall () t h

/-- Each prepared part of a switch is made in its turn; what phase C raises is the new task's (R794). -/
theorem switchTask_ok {t1 t2 t3 t4 t5 u1 u5 : State} {saves link : List (Ref × Nat)} {reads : List Ref}
    {old new : Option Ref}
    (hsaves : prepareSaves s.tr.base (tssSave s eip (if reason = .iret then fl &&& ~~~ 0x4000 else fl)) s
      = .ok saves t1)
    (hreads : prepareReads d.base (tssFields (bit d.hi 11)) t1 = .ok reads t2)
    (hlink : prepareSaves d.base (if reason.nests then [(0, 2, s.tr.sel.toNat)] else []) t2 = .ok link t3)
    (hold : prepareUpdate (reason = .jump || reason = .iret)
      (s.gdtr.base + BitVec.ofNat 32 (selOffset s.tr.sel + 4)) t3 = .ok old t4)
    (hnew : prepareUpdate (reason != .iret) (d.lin + 4) t4 = .ok new t5)
    (hclear : makeUpdate 0 0xFFFFFDFF old t5 = .ok () u1) :
    let vals := sysReadAt reads (sysStoredAll saves u1)
    let i := TaskImage.ofReads (bit d.hi 11) vals.2.free vals.1
    makeUpdate 0x200 0xFFFFFFFF new (sysStoredAll link
      { vals.2 with free := vals.2.free + if bit d.hi 11 then 0 else 8 }) = .ok () u5 →
    let u := u5.enterTask tsel d reason i
    (∀ t, taskPhaseC tsel i ex u = .ok () t → switchTask tsel d reason eip fl ex s =
      .ok () (if i.t then { t with pend := { t.pend with bt := true } } else t)) ∧
    (∀ x t, taskPhaseC tsel i ex u = .error (.exc x) t →
      switchTask tsel d reason eip fl ex s = .error (.late x) t) := by
  intro vals i hset u
  have hrun : switchTask tsel d reason eip fl ex s = (do
      committed (taskPhaseC tsel i ex)
      if i.t then modify fun s => { s with pend := { s.pend with bt := true } } : Op Unit) u := by
    rw [switchTask, op_get_bind]
    exact (op_bind_ok hsaves).trans <| (op_bind_ok hreads).trans <| (op_bind_ok hlink).trans <|
      (op_bind_ok hold).trans <| (op_bind_ok hnew).trans <| (op_bind_ok hclear).trans <|
      (op_bind_ok (sysWriteAll_run saves u1)).trans <| (op_bind_ok (readAll_run reads _)).trans <|
      (op_bind_ok rfl).trans <| (op_bind_ok (sysWriteAll_run link _)).trans <| (op_bind_ok hset).trans rfl
  refine ⟨fun t ht => ?_, fun x t ht => ?_⟩
  · have hcommitted : committed (taskPhaseC tsel i ex) u = .ok () t := by rw [committed, ht]
    rw [hrun, op_bind_ok hcommitted]
    split <;> rfl
  · have hcommitted : committed (taskPhaseC tsel i ex) u = .error (.late x) t := by rw [committed, ht]
    rw [hrun, op_bind_error hcommitted]

/-- What is saved, place by place (R780, R782). -/
theorem tssSave_eq (s : State) (eip fl : Dword) :
    let q := s.regs
    let g := s.segs
    let dwords := [eip, fl, q.eax, q.ecx, q.edx, q.ebx, q.esp, q.ebp, q.esi, q.edi]
    let words := [g.es.sel, g.cs.sel, g.ss.sel, g.ds.sel] ++ (if s.tr.attr.e then [g.fs.sel, g.gs.sel] else [])
    tssSave s eip fl = if s.tr.attr.e then dwords.mapIdx (fun i v => (0x20 + 4 * i, 4, v.toNat)) ++
        words.mapIdx (fun i v => (0x48 + 4 * i, 2, v.toNat))
      else dwords.mapIdx (fun i v => (0x0E + 2 * i, 2, v.toNat)) ++
        words.mapIdx (fun i v => (0x22 + 2 * i, 2, v.toNat)) := by
  intro q g dwords words
  unfold words tssSave SegReg.isTss32
  cases s.tr.attr.e <;> rfl

/-- What is read, place by place. -/
theorem tssFields_eq (is32 : Bool) : tssFields is32 =
    if is32 then (List.range 11).map (fun i => (0x1C + 4 * i, 4)) ++ (List.range 8).map (fun i => (0x48 + 4 * i, 2))
    else (List.range 15).map (fun i => (0x0E + 2 * i, 2)) := by
  cases is32 <;> rfl

/-! ## The busy bits, with paging off -/

/-- Four bytes of RAM stored are the doubleword read back (20_memory.md R102). -/
theorem State.phys32_store (hm : Mem.wf s.mem = true) {a : Dword}
    (hram : ∀ i, i < 4 → s.kindAt (a + BitVec.ofNat 32 i) = .ram) (x : Dword) :
    ((Ref.flat a 4).store x.toNat 4 0 s).phys32 a = x := by
  have hpa (i : Nat) (hi : i < 4) : (Ref.flat a 4).pa i = a + BitVec.ofNat 32 i := Ref.flat_pa a (by omega) hi
  have hcfg := (Accessed.store (Ref.flat a 4) x.toNat 4 0 s).cfg
  have hphys (j : Nat) (hj : j < 4) : ((Ref.flat a 4).store x.toNat 4 0 s).phys (a + BitVec.ofNat 32 j) =
      BitVec.ofNat 8 (x.toNat / 256 ^ j) := by
    have hcell := (Ref.flat a 4).cell_store x.toNat 4 0 hm (fun p q _ hp _ hq he => by
      rw [hpa p (by omega), hpa q (by omega)] at he
      bv_omega) (Nat.zero_le j) (by omega : j < 0 + 4)
    rw [hpa j hj, if_pos (hram j hj)] at hcell
    rw [State.phys_holds (by simp [State.holds, State.kindAt, hcfg, ← hram j hj]), hcell]
  generalize (Ref.flat a 4).store x.toNat 4 0 s = t at hphys
  have h0 : t.phys a = BitVec.ofNat 8 x.toNat := by simpa using hphys 0 (by decide)
  have h1 : t.phys (a + 1) = BitVec.ofNat 8 (x.toNat / 256) := hphys 1 (by decide)
  have h2 : t.phys (a + 2) = BitVec.ofNat 8 (x.toNat / 65536) := hphys 2 (by decide)
  have h3 : t.phys (a + 3) = BitVec.ofNat 8 (x.toNat / 16777216) := hphys 3 (by decide)
  refine BitVec.eq_of_toNat_eq ?_
  have := x.isLt
  rw [State.phys32, toNat_four_bytes, h0, h1, h2, h3]
  simp only [BitVec.toNat_ofNat]
  omega

/-- A locked update of a doubleword in RAM (21_segmentation.md R176). -/
theorem makeUpdate_unpaged (hpg : s.pg = false) (hm : Mem.wf s.mem = true) {lin : Dword}
    (hram : ∀ i, i < 4 → s.kindAt (lin + BitVec.ofNat 32 i) = .ram) (o a : Dword) :
    ∃ t, makeUpdate o a (some (Ref.flat lin 4)) s = .ok () t ∧ t.phys32 lin = (s.phys32 lin &&& a) ||| o ∧
      (∀ q, (∀ i, i < 4 → q ≠ lin + BitVec.ofNat 32 i) → t.cell q = s.cell q) ∧
      t.regs = s.regs ∧ t.segs = s.segs ∧ t.eflags = s.eflags := by
  have hpa (i : Nat) (hi : i < 4) : (Ref.flat lin 4).pa i = lin + BitVec.ofNat 32 i := Ref.flat_pa lin (by omega) hi
  have hread : loadRef (Ref.flat lin 4) s = .ok ((Ref.flat lin 4).load s 4 0) s := by
    have hbus : s.noteReads (Ref.flat lin 4).addresses = s := by
      rw [Ref.flat_addresses lin (by decide)]
      exact State.bus_holds fun i hi => by simp [State.holds, hram i hi]
    exact congrArg (EStateM.Result.ok _) hbus
  have htouch : touchRef (Ref.flat lin 4) true s = .ok () s := by rw [touchRef_run, Ref.touched_unpaged hpg]
  have hrun : makeUpdate o a (some (Ref.flat lin 4)) s =
      .ok () ((Ref.flat lin 4).store ((s.phys32 lin &&& a) ||| o).toNat 4 0 s) := by
    rw [makeUpdate, updateRef, op_bind_ok htouch, op_bind_ok hread, op_modify, Ref.flat_load_dword]
  have hkeep := Accessed.store (Ref.flat lin 4) ((s.phys32 lin &&& a) ||| o).toNat 4 0 s
  refine ⟨_, hrun, State.phys32_store hm hram _, fun q hq => ?_, hkeep.regs, hkeep.segs, hkeep.eflags⟩
  exact (Ref.flat lin 4).cell_store_of_ne _ 4 0 hm fun j _ hj he => hq j (by omega) (he.trans (hpa j (by omega)))

/-! ## The new task's registers -/

/-- A switch sets and clears NT, never VM (R794). -/
theorem enterTask_vm (s : State) (sel : BitVec 16) (d : Desc) (reason : TaskReason) (i : TaskImage) :
    (s.enterTask sel d reason i).cpl = if bit i.eflags 17 then 3 else rpl i.cs := by
  have hflags : bit (s.enterTask sel d reason i).eflags 17 = bit i.eflags 17 := by
    cases reason <;> simp [State.enterTask, TaskReason.nests, normFlags, bit]
  rw [← hflags]
  rfl

/-- The end of phase C: EIP must lie in CS (R796). -/
def taskCut (tsel ex : BitVec 16) : Op Unit := do
  let s ← get
  if s.segs.cs.limit.toNat < s.eip.toNat then raiseTS (selCode tsel + ex)

theorem taskPhaseC_run (h : taskLoadLdtr i.ldt ex s = .ok () t) : taskPhaseC tsel i ex s =
    if t.vm then taskCut tsel ex (t.loadAllV86 i.es i.cs i.ss i.ds i.fs i.gs)
    else (do
      taskLoadCs i.cs ex
      taskLoadSs i.ss ex
      taskLoadData .ds i.ds ex
      taskLoadData .es i.es ex
      taskLoadData .fs i.fs ex
      taskLoadData .gs i.gs ex
      taskCut tsel ex : Op Unit) t := by
  rw [taskPhaseC, op_bind_ok h, op_get_bind]
  split <;> rfl

/-- NT as a nesting or a jump leaves it. -/
theorem enterTask_nested (s : State) (sel : BitVec 16) (d : Desc) (reason : TaskReason) (i : TaskImage) :
    (reason.nests = true → bit (s.enterTask sel d reason i).eflags 14 = true) ∧
    (reason = .jump → bit (s.enterTask sel d reason i).eflags 14 = false) := by
  cases reason <;> simp [State.enterTask, TaskReason.nests, bit]

theorem switchTask_of_ok (h : taskSwitch tsel d reason eip fl ex s = .ok () t) :
    switchTask tsel d reason eip fl ex s = .ok () t := by
  rw [taskSwitch_run] at h
  split_ifs at h
  exact h

/-- What every completed switch leaves (R791, R794). -/
theorem taskSwitch_leaves (h : taskSwitch tsel d reason eip fl ex s = .ok () t) :
    t.tr.sel = tsel ∧ t.tr.base = d.base ∧ t.tr.limit = d.limit ∧ bit t.cr0 3 = true ∧
    (∀ i, i ≠ 3 → bit t.cr0 i = bit s.cr0 i) ∧ t.dregs.dr7 = s.dregs.dr7 &&& 0xFFFFFEAA ∧
    (reason.nests = true → bit t.eflags 14 = true) ∧ (reason = .jump → bit t.eflags 14 = false) ∧
    t.gdtr = s.gdtr ∧ t.idtr = s.idtr := by
  obtain ⟨u, i, hu, hframe⟩ := switchTask_frame (switchTask_of_ok h)
  simp only [State.taskFrame, TaskFrame.mk.injEq] at hframe
  obtain ⟨htr, hcr0, hdregs, hflags, hgdtr, hidtr⟩ := hframe
  obtain ⟨hnest, hjump⟩ := enterTask_nested u tsel d reason i
  have hcr : t.cr0 = s.cr0 ||| 8 := hcr0.trans (congrArg (· ||| 8) hu.cr0)
  have height (j : Nat) : (8 : Dword).getLsbD j = decide (j = 3) := by
    by_cases hj : j < 32
    · exact (by decide : ∀ j : Fin 32, (8 : Dword).getLsbD j = decide (j.val = 3)) ⟨j, hj⟩
    · rw [BitVec.getLsbD_of_ge _ _ (by omega)]
      exact (decide_eq_false (by omega)).symm
  have hbit (j : Nat) : bit t.cr0 j = (bit s.cr0 j || decide (j = 3)) := by
    rw [hcr, bit, bit, BitVec.getLsbD_or, height]
  refine ⟨by rw [htr]; rfl, by rw [htr]; rfl, by rw [htr]; rfl, by rw [hbit]; simp, fun j hj => by rw [hbit]; simp [hj],
    ?_, fun hr => by rw [hflags]; exact hnest hr, fun hr => by rw [hflags]; exact hjump hr, hgdtr.trans hu.gdtr,
    hidtr.trans hu.idtr⟩
  rw [hdregs, ← hu.dregs]
  rfl

/-- Each step of the tests a switch makes, as the statement asks for them. -/
theorem taskSwitch_tests :
    (d.p = false → taskSwitch tsel d reason eip fl ex s = .error (.exc ⟨11, some (selCode tsel + ex)⟩) s) ∧
    (d.p = true → reason ≠ .iret → d.isTssBusy = true →
      taskSwitch tsel d reason eip fl ex s = .error (.exc ⟨13, some (selCode tsel + ex)⟩) s) ∧
    (d.p = true → reason = .iret → d.isTssBusy = false →
      taskSwitch tsel d reason eip fl ex s = .error (.exc ⟨10, some (selCode tsel)⟩) s) ∧
    (d.p = true → (reason = .iret ↔ d.isTssBusy = true) →
      taskSwitch tsel d reason eip fl ex s =
        if d.limit.toNat < tssMin (bit d.hi 11) then .error (.exc ⟨10, some (selCode tsel + ex)⟩) s
        else if s.tr.limit.toNat < tssMin s.tr.isTss32 then .error (.exc ⟨10, some (selCode s.tr.sel + ex)⟩) s
        else switchTask tsel d reason eip fl ex s) := by
  refine ⟨fun hp => ?_, fun hp hr hb => ?_, fun hp hr hb => ?_, fun hp hb => ?_⟩
  · rw [taskSwitch_run, if_pos hp]
  · rw [taskSwitch_run, if_neg (by simp [hp]), if_pos ⟨hr, hb⟩]
  · rw [taskSwitch_run, if_neg (by simp [hp]), if_neg (fun h => h.1 hr), if_pos ⟨hr, hb⟩]
  · rw [taskSwitch_run, if_neg (by simp [hp]), if_neg (fun h => h.1 (hb.mpr h.2)),
      if_neg (fun h => Bool.false_ne_true (h.2.symm.trans (hb.mp h.1)))]

end Sys2Proof.Machine

namespace Sys2Proof
open Machine

/-- Settles O47: the tests are `taskSwitch_run`, what is stored and loaded `switchTask_ok`, the new task's registers
`State.enterTask`, and the tests of phase C are made register by register. -/
theorem taskSwitch : Obligations.TaskSwitch := by
  refine ⟨?_, ⟨?_, ?_⟩, ?_, ?_⟩
  · intro sel d reason eip fl ex s t r code short
    obtain ⟨habsent, hbusy, hidle, hlimits⟩ := taskSwitch_tests (tsel := sel) (d := d) (reason := reason) (eip := eip)
      (fl := fl) (ex := ex) (s := s)
    refine ⟨habsent, hbusy, hidle, fun hp hb hshort => (hlimits hp hb).trans (if_pos hshort),
      fun hp hb hlong hold => (hlimits hp hb).trans ((if_neg hlong).trans (if_pos hold)), taskSwitch_leaves⟩
  · intro sel d reason eip fl ex s t1 t2 t3 t4 t5 u1 u5 saves link reads old new is32 big hp hbusy hlimit hold fl'
      q g dwords words hsaves hreads hlink hupd hnew hclear vals k v w h image hset u
    have htests := taskSwitch_tests (tsel := sel) (d := d) (reason := reason) (eip := eip) (fl := fl')
      (ex := ex) (s := s)
    have hmask : (if reason = .iret then fl' &&& ~~~ 0x4000 else fl') = fl' := by
      unfold fl'
      split
      · exact (BitVec.and_assoc fl 0xFFFFBFFF 0xFFFFBFFF).trans (congrArg (fl &&& ·) BitVec.and_self)
      · rfl
    have hrun := (htests.2.2.2 hp hbusy).trans ((if_neg hlimit).trans (if_neg hold))
    rw [← tssSave_eq, ← hmask] at hsaves
    rw [← tssFields_eq] at hreads
    rw [← selOffset_eq] at hupd
    obtain ⟨hok, herr⟩ := switchTask_ok (ex := ex) hsaves hreads hlink hupd hnew hclear hset
    exact ⟨fun t ht => hrun.trans (hok t ht), fun x t ht => hrun.trans (herr x t ht)⟩
  · intro s lin o a hpg hm hram
    obtain ⟨t, hrun, hphys, hcell, hregs, hsegs, hflags⟩ := makeUpdate_unpaged hpg hm hram o a
    exact ⟨rfl, rfl, _, t, op_bind_ok (probe_unpaged hpg _ _ _ _), hrun, hphys, hcell, hregs, hsegs, hflags⟩
  · intro s sel d reason i t paged fl
    refine ⟨rfl, rfl, rfl, rfl, rfl, rfl, ?_, ?_, enterTask_vm s sel d reason i, rfl, rfl, ?_, rfl, rfl⟩
    · exact if_congr Bool.and_eq_true_iff rfl rfl
    · exact if_congr Bool.and_eq_true_iff rfl rfl
    · intro k x hk
      simp only [List.mem_cons, List.not_mem_nil, or_false, Prod.mk.injEq] at hk
      rcases hk with ⟨rfl, rfl⟩ | ⟨rfl, rfl⟩ | ⟨rfl, rfl⟩ | ⟨rfl, rfl⟩ | ⟨rfl, rfl⟩ | ⟨rfl, rfl⟩ <;> exact ⟨rfl, rfl⟩
  · intro s u tsel sel ex k i d code ts np cut
    refine ⟨fun t ht => ?_, fun x t ht => op_bind_error ht, taskLoads_null, taskLoadLdtr_local, taskLoads_none,
      fun hnull hfetch => ?_⟩
    · have hcut : taskCut tsel ex = cut := funext fun t => by
        rw [taskCut, op_get_bind, op_ite]
        rfl
      rw [taskPhaseC_run ht, hcut]
      rfl
    · intro code' stack data
      have hcs := taskLoadCs_some (ex := ex) hnull hfetch
      have hss := taskLoadSs_some (ex := ex) hnull hfetch
      have hds := taskLoadData_some (ex := ex) (k := k) hnull hfetch
      refine ⟨fun hti => taskLoadLdtr_some hnull hti hfetch, fun h => hcs.trans (if_neg h),
        fun h hp => hcs.trans ((if_pos h).trans (if_neg (by simp [hp]))), fun h => hss.trans (if_neg h),
        fun h hp => hss.trans ((if_pos h).trans (if_neg (by simp [hp]))), fun h => hds.trans (if_neg h),
        fun h hp => hds.trans ((if_pos h).trans (if_neg (by simp [hp]))), fun v hp hset => ⟨fun h => ?_, fun h => ?_,
        fun h => ?_⟩⟩
      · exact hcs.trans ((if_pos h).trans ((if_pos hp).trans (op_bind_ok hset)))
      · exact hss.trans ((if_pos h).trans ((if_pos hp).trans (op_bind_ok hset)))
      · exact hds.trans ((if_pos h).trans ((if_pos hp).trans (op_bind_ok hset)))

end Sys2Proof
end

section
namespace Sys2Proof.Machine
variable {α : Type} {s t u v w : State} {e : Event} {d g ds : Desc} {sel ssel ex : BitVec 16}
  {off sp spEnd : Dword} {n : Nat}
  {clearIf v86 : Bool} {l : List (Ref × Nat)}

/-! # Delivery in protected mode -/

/-! ## The entry of the IDT -/

/-- Eight bytes loaded are two doublewords, the lower first. -/
theorem Ref.flat_load_entry (s : State) (lin : Dword) : (Ref.flat lin 8).load s 8 0 =
    (s.phys32 lin).toNat + 2 ^ 32 * (s.phys32 (lin + 4)).toNat := by
  have hpa (i : Nat) (hi : i < 8) : (Ref.flat lin 8).pa i = lin + BitVec.ofNat 32 i := Ref.flat_pa lin (by omega) hi
  rw [State.phys32, State.phys32, toNat_four_bytes, toNat_four_bytes]
  simp [Ref.load, hpa, BitVec.add_assoc]
  ring

/-- A gate or descriptor read as one access, with paging off (R700). -/
theorem descRead_unpaged (hpg : s.pg = false) (lin : Dword) :
    descRead lin s = .ok ⟨s.phys32 lin, s.phys32 (lin + 4), lin⟩ (s.bus lin 8) := by
  have hlo := (s.phys32 lin).isLt
  have hload := Ref.flat_load_entry s lin
  have h0 : BitVec.ofNat 32 ((Ref.flat lin 8).load s 8 0) = s.phys32 lin := by
    rw [hload]
    refine BitVec.eq_of_toNat_eq ?_
    rw [BitVec.toNat_ofNat]
    omega
  have h1 : BitVec.ofNat 32 ((Ref.flat lin 8).load s 8 0 / 2 ^ 32) = s.phys32 (lin + 4) := by
    rw [hload, Nat.add_mul_div_left _ _ (by decide), Nat.div_eq_of_lt hlo, Nat.zero_add, BitVec.ofNat_toNat,
      BitVec.setWidth_eq]
  rw [descRead_ok (linRead_unpaged hpg lin (by decide)), h0, h1]

/-- The gate of a vector. -/
def State.gate (s : State) (v : Byte) : Desc :=
  ⟨(s.idtEntry v).1, (s.idtEntry v).2.1, s.idtr.base + BitVec.ofNat 32 (8 * v.toNat)⟩

/-- The types of gate the IDT may hold (R700). -/
abbrev Desc.isGate (g : Desc) : Prop := g.type = 5 ∨ g.type = 6 ∨ g.type = 7 ∨ g.type = 14 ∨ g.type = 15

/-- A software interrupt must be allowed to use the gate (R700). -/
abbrev Desc.usable (g : Desc) (e : Event) (level : BitVec 2) : Prop :=
  e.kind = .software → level.toNat ≤ g.dpl.toNat

theorem interrupt_beyond (hpe : s.pe = true) (h : s.idtr.limit.toNat < 8 * e.vector.toNat + 7) :
    interrupt e s = .error (.exc ⟨13, some (idtCode e.vector e.ex)⟩) s := by
  simp only [interrupt, op_get_bind, hpe, Bool.not_true, Bool.false_eq_true, if_false]
  rw [if_pos h, raiseGP_run]

/-- The tests of an entry of the IDT, in their order (R700). -/
theorem interrupt_run (hpe : s.pe = true) (hpg : s.pg = false) (h : 8 * e.vector.toNat + 7 ≤ s.idtr.limit.toNat) :
    let g := s.gate e.vector
    let read := (s.idtEntry e.vector).2.2
    interrupt e s = if g.isGate then
        if g.usable e s.cpl then
          if g.p then
            if g.type = 5 then (do taskGateDeliver e g; return true : Op Bool) read
            else (do gateDeliver e g; return false : Op Bool) read
          else .error (.exc ⟨11, some (idtCode e.vector e.ex)⟩) read
        else .error (.exc ⟨13, some (idtCode e.vector 0)⟩) read
      else .error (.exc ⟨13, some (idtCode e.vector e.ex)⟩) read := by
  intro g read
  have hread : descRead (s.idtr.base + BitVec.ofNat 32 (8 * e.vector.toNat)) s = .ok g read := descRead_unpaged hpg _
  simp only [interrupt, op_get_bind, hpe, Bool.not_true, Bool.false_eq_true, if_false]
  rw [if_neg (Nat.not_lt.mpr h), op_bind_ok hread]
  by_cases hgate : g.isGate
  · rw [if_pos hgate, if_neg (by tauto)]
    by_cases huse : g.usable e s.cpl
    · rw [if_pos huse, if_neg fun h => Nat.not_lt.mpr (huse h.1) h.2]
      cases hp : g.p
      · rfl
      · by_cases htask : g.type = 5
        · rw [if_neg (by decide), if_pos rfl, if_pos htask, if_pos htask]
        · rw [if_neg (by decide), if_pos rfl, if_neg htask, if_neg htask]
    · rw [if_neg huse, if_pos (by simpa [Desc.usable] using huse), raiseGP_run]
  · rw [if_neg hgate, if_pos (by tauto), raiseGP_run]

/-! ## Frames -/

/-- The error code's item. -/
def Event.codeItems (e : Event) (n : Nat) : List (Nat × Nat) :=
  match e.code with
  | some c => [(n, c.toNat)]
  | none => []

/-- The frame of a handler from the saved flags down (R702). -/
def Event.frame (e : Event) (s : State) (n : Nat) (cs : Nat × Nat) : List (Nat × Nat) :=
  [item n (e.image s), cs, item n e.ret] ++ e.codeItems n

theorem frameItems_run (e : Event) (s t : State) (n : Nat) : frameItems e s n t =
    .ok (e.frame s n (t.itemOf n s.segs.cs.sel).1) (t.itemOf n s.segs.cs.sel).2 := by
  rw [frameItems, op_bind_ok (selItem_run n _ t)]
  rfl

/-! ## To the same level -/

/-- The state a delivery to the same level leaves, once the frame is stored. -/
def State.enteredSame (t : State) (level : BitVec 2) (sel : BitVec 16) (d : Desc) (off sp : Dword) (clearIf : Bool) :
    State :=
  let h := (t.setSp sp).enterCS sel d level off
  { h with eflags := handlerFlags h.eflags clearIf }

section
variable (hpush : preparePushes s.segs.ss e.ex s.user s.sp (e.frame s n (s.csItem n).1) (s.csItem n).2 = .ok (l, sp) u)
include hpush

theorem sameLevelDeliver_ok (hoff : off.toNat ≤ d.limit.toNat) (hset : setAccessed d u = .ok () v) :
    sameLevelDeliver e sel d n off clearIf s = .ok () ((storedAll l v).enteredSame s.cpl sel d off sp clearIf) := by
  simp only [sameLevelDeliver, op_get_bind]
  rw [op_bind_ok (frameItems_run e s s n), ← State.csItem, op_bind_ok hpush, if_neg (Nat.not_lt.mpr hoff)]
  exact (op_bind_ok hset).trans ((op_bind_ok (writeAll_run l v)).trans rfl)

theorem sameLevelDeliver_keeps (hset : setAccessed d u = .ok () v) : Accessed s (storedAll l v) :=
  ((Accessed.itemOf s n _).trans (preparePushes_ok hpush).accessed).trans
    ((Keeps.setAccessed _ _ _ _ hset).trans (.storedAll l v))

theorem sameLevelDeliver_gp (hoff : d.limit.toNat < off.toNat) :
    sameLevelDeliver e sel d n off clearIf s = .error (.exc ⟨13, some e.ex⟩) u := by
  simp only [sameLevelDeliver, op_get_bind]
  rw [op_bind_ok (frameItems_run e s s n), ← State.csItem, op_bind_ok hpush, if_pos hoff]
  rfl

end

/-! ## To an inner level -/

/-- The frame of an inner level: the data segments when virtual-8086 mode is left, SS and ESP, and the handler's frame
(R703, R704). -/
def Event.innerFrame (e : Event) (s t : State) (n : Nat) (v86 : Bool) : List (Nat × Nat) :=
  let g := s.segs
  let drawn := (itemsOf n [g.gs.sel, g.fs.sel, g.ds.sel, g.es.sel, g.ss.sel, g.cs.sel] t).1
  let i := fun k => drawn.getD k (0, 0)
  (if v86 then [i 0, i 1, i 2, i 3] else []) ++ [i 4, item n s.regs.esp] ++ e.frame s n (i 5)

/-- The state behind the free values of that frame. -/
def State.drawnFrame (s t : State) (n : Nat) : State :=
  let g := s.segs
  (itemsOf n [g.gs.sel, g.fs.sel, g.ds.sel, g.es.sel, g.ss.sel, g.cs.sel] t).2

/-- The state a delivery to an inner level leaves, once the frame is stored. -/
def State.enteredInner (t : State) (sel : BitVec 16) (d : Desc) (off : Dword) (ssel : BitVec 16) (ds : Desc)
    (sp spEnd : Dword) (clearIf v86 : Bool) : State :=
  let h := (State.setSp { t.setSeg .ss (ds.toReg ssel) with regs := { t.regs with esp := sp } } spEnd).enterCS sel d
    d.dpl off
  let h := { h with eflags := handlerFlags h.eflags clearIf }
  if v86 then h.nullData else h

section
variable {u1 u2 u3 : State} (hstack : innerStack d.dpl e.ex s = .ok (ssel, sp) u1)
  (hcheck : checkInner d.dpl ssel e.ex u1 = .ok ds u2)
  (hpush : preparePushes (ds.toReg ssel) (selCode ssel + e.ex) false sp (e.innerFrame s u2 n v86) (s.drawnFrame u2 n)
    = .ok (l, spEnd) u3)
include hstack hcheck hpush

/-- The inner frame prepared: the offset is tested, then everything is stored. -/
theorem innerDeliver_run : innerDeliver e sel d n off clearIf v86 s = (do
    if d.limit.toNat < off.toNat then raiseGP e.ex
    setAccessed ds
    setAccessed d
    writeAll l
    modify fun t => t.enteredInner sel d off ssel ds sp spEnd clearIf v86 : Op Unit) u3 := by
  simp only [innerDeliver, op_get_bind]
  rw [op_bind_ok hstack]
  refine (op_bind_ok hcheck).trans <| (op_bind_ok (selItem_run n _ _)).trans <|
    (op_bind_ok (selItem_run n _ _)).trans <|
    (op_bind_ok (selItem_run n _ _)).trans <|
    (op_bind_ok (selItem_run n _ _)).trans <|
    (op_bind_ok (selItem_run n _ _)).trans <| (op_bind_ok (frameItems_run e s _ n)).trans <|
    (op_bind_ok hpush).trans ?_
  cases v86 <;> rfl

end

/-! ## Through a gate -/

/-- The selector a gate holds. -/
def Desc.gateSel (g : Desc) : BitVec 16 := g.lo.extractLsb' 16 16

/-- The size of the items behind a gate (R702). -/
def Desc.gateSize (g : Desc) : Nat := if bit g.hi 11 then 4 else 2

/-- Where virtual-8086 mode may go (R704). -/
abbrev Desc.fromV86 (d g : Desc) : Prop := d.dpl = 0 ∧ d.isConforming = false ∧ g.gateSize ≠ 2

/-- The part of a delivery behind the look-up of the handler's code segment (R702 to R704). -/
def enterHandler (e : Event) (g : Desc) (s : State) (d : Desc) : Op Unit := do
  if !d.isCode then raiseGP (selCode g.gateSel + e.ex)
  else if s.cpl.toNat < d.dpl.toNat then raiseGP (selCode g.gateSel + e.ex)
  else if !d.p then raiseNP (selCode g.gateSel + e.ex)
  else if s.vm then
    if d.dpl ≠ 0 ∨ d.isConforming ∨ g.gateSize = 2 then raiseGP (selCode g.gateSel + e.ex)
    else innerDeliver e g.gateSel d g.gateSize g.gateOff (!bit g.hi 8) true
  else if !d.isConforming && decide (d.dpl.toNat < s.cpl.toNat) then
    innerDeliver e g.gateSel d g.gateSize g.gateOff (!bit g.hi 8) false
  else sameLevelDeliver e g.gateSel d g.gateSize g.gateOff (!bit g.hi 8)

theorem gateDeliver_eq (e : Event) (g : Desc) (s : State) : gateDeliver e g s =
    if isNull g.gateSel then .error (.exc ⟨13, some e.ex⟩) s
    else (descOr g.gateSel (raiseGP (selCode g.gateSel + e.ex)) >>= enterHandler e g s) s :=
  (op_get_bind _ s).trans (op_ite _ _ _ s)

theorem gateDeliver_null (h : isNull g.gateSel = true) : gateDeliver e g s = .error (.exc ⟨13, some e.ex⟩) s := by
  rw [gateDeliver_eq, if_pos h]

theorem gateDeliver_none (hnull : isNull g.gateSel = false) (h : descFetch g.gateSel s = .ok none t) :
    gateDeliver e g s = .error (.exc ⟨13, some (selCode g.gateSel + e.ex)⟩) t := by
  rw [gateDeliver_eq, if_neg (fun h => Bool.false_ne_true (hnull.symm.trans h))]
  exact op_bind_error (descOr_none h)

/-- The tests of the handler's code segment, in their order (R702, R704). -/
theorem enterHandler_run (e : Event) (g : Desc) (s : State) (d : Desc) (t : State) : enterHandler e g s d t =
    if d.isCode = true ∧ d.dpl.toNat ≤ s.cpl.toNat then
      if d.p then
        if s.vm then
          if d.fromV86 g then innerDeliver e g.gateSel d g.gateSize g.gateOff (!bit g.hi 8) true t
          else .error (.exc ⟨13, some (selCode g.gateSel + e.ex)⟩) t
        else if d.isConforming = false ∧ d.dpl.toNat < s.cpl.toNat then
          innerDeliver e g.gateSel d g.gateSize g.gateOff (!bit g.hi 8) false t
        else sameLevelDeliver e g.gateSel d g.gateSize g.gateOff (!bit g.hi 8) t
      else .error (.exc ⟨11, some (selCode g.gateSel + e.ex)⟩) t
    else .error (.exc ⟨13, some (selCode g.gateSel + e.ex)⟩) t := by
  simp only [enterHandler, op_ite, raiseGP_run, raiseNP_run]
  cases d.isCode
  · simp
  have hv86 : (d.dpl ≠ 0 ∨ d.isConforming = true ∨ g.gateSize = 2) ↔ ¬ d.fromV86 g := by
    simp only [Desc.fromV86, not_and_or, Bool.not_eq_false, not_not, ne_eq]
  have hinner : (!d.isConforming && decide (d.dpl.toNat < s.cpl.toNat)) = true ↔
      d.isConforming = false ∧ d.dpl.toNat < s.cpl.toNat := by simp
  simp only [hv86, hinner, Bool.not_true, Bool.false_eq_true, if_false, true_and, ite_not]
  by_cases hdpl : d.dpl.toNat ≤ s.cpl.toNat
  · rw [if_neg (Nat.not_lt.mpr hdpl), if_pos hdpl]
    cases d.p <;> simp
  · rw [if_pos (Nat.lt_of_not_le hdpl), if_neg hdpl]

theorem gateDeliver_some (hnull : isNull g.gateSel = false) (h : descFetch g.gateSel s = .ok (some d) t) :
    gateDeliver e g s = enterHandler e g s d t := by
  rw [gateDeliver_eq, if_neg (fun h => Bool.false_ne_true (hnull.symm.trans h)), op_bind_ok (descOr_some h)]

/-! ## Through a task gate -/

/-- The selector in a task gate must name the GDT (R705). -/
abbrev Desc.placed (g : Desc) : Prop := selTI g.gateSel = false ∧ isNull g.gateSel = false

theorem taskGateDeliver_misplaced (h : ¬ g.placed) :
    taskGateDeliver e g s = .error (.exc ⟨13, some (selCode g.gateSel + e.ex)⟩) s := by
  have htest : (selTI g.gateSel || isNull g.gateSel) = true := by
    cases hti : selTI g.gateSel
    · cases hnull : isNull g.gateSel
      · exact absurd ⟨hti, hnull⟩ h
      · rfl
    · rfl
  exact (op_get_bind _ s).trans (congrFun (if_pos htest) s)

/-- The error code goes to the new task's stack; what that raises is the new task's (R705). -/
def pushCode (e : Event) (d : Desc) : Op Unit :=
  match e.code with
  | none => pure ()
  | some c => committed do
    let s ← get
    let (l, sp) ← preparePushes s.segs.ss e.ex s.user s.sp [(if bit d.hi 11 then 4 else 2, c.toNat)]
    writeAll l
    modify fun s => s.setSp sp

section
variable (hplaced : g.placed)
include hplaced

theorem taskGateDeliver_run : taskGateDeliver e g s = (do
    let d ← descOr g.gateSel (raiseGP (selCode g.gateSel + e.ex))
    if !d.isTss then raiseGP (selCode g.gateSel + e.ex)
    else
      taskSwitch g.gateSel d .interrupt e.ret (e.image s) e.ex
      pushCode e d : Op Unit) s := by
  have htest : ¬ (selTI g.gateSel || isNull g.gateSel) = true := by rw [hplaced.1, hplaced.2]; decide
  exact (op_get_bind _ s).trans (congrFun (if_neg htest) s)

theorem taskGateDeliver_none (h : descFetch g.gateSel s = .ok none t) :
    taskGateDeliver e g s = .error (.exc ⟨13, some (selCode g.gateSel + e.ex)⟩) t := by
  rw [taskGateDeliver_run hplaced]
  exact op_bind_error (descOr_none h)

theorem taskGateDeliver_noTss (h : descFetch g.gateSel s = .ok (some d) t) (htss : d.isTss = false) :
    taskGateDeliver e g s = .error (.exc ⟨13, some (selCode g.gateSel + e.ex)⟩) t := by
  rw [taskGateDeliver_run hplaced]
  refine (op_bind_ok (descOr_some h)).trans ?_
  rw [htss]
  rfl

theorem taskGateDeliver_tss (h : descFetch g.gateSel s = .ok (some d) t) (htss : d.isTss = true) :
    taskGateDeliver e g s = (do
      taskSwitch g.gateSel d .interrupt e.ret (e.image s) e.ex
      pushCode e d : Op Unit) t := by
  rw [taskGateDeliver_run hplaced]
  refine (op_bind_ok (descOr_some h)).trans ?_
  rw [htss]
  rfl

end

theorem pushCode_none (h : e.code = none) : pushCode e d s = .ok () s := by rw [pushCode, h]; rfl

section
variable {c : BitVec 16} (h : e.code = some c)
include h

theorem pushCode_ok
    (hpush : preparePushes s.segs.ss e.ex s.user s.sp [(if bit d.hi 11 then 4 else 2, c.toNat)] s = .ok (l, sp) t) :
    pushCode e d s = .ok () ((storedAll l t).setSp sp) := by
  have hwrite := (op_bind_ok (f := fun _ => modify fun s : State => s.setSp sp) (writeAll_run l t))
  rw [pushCode, h]
  simp only [committed, op_get_bind]
  rw [op_bind_ok hpush, hwrite]
  rfl

theorem pushCode_late {x : Exn}
    (hpush : preparePushes s.segs.ss e.ex s.user s.sp [(if bit d.hi 11 then 4 else 2, c.toNat)] s = .error (.exc x) t) :
    pushCode e d s = .error (.late x) t := by
  rw [pushCode, h]
  simp only [committed, op_get_bind]
  rw [op_bind_error hpush]

end

/-! ## The statement of delivery at one level -/

section
variable (hpe : s.pe = true) (hpg : s.pg = false) (hlimit : 8 * e.vector.toNat + 7 ≤ s.idtr.limit.toNat)
  (hp : (s.gate e.vector).p = true) (huse : (s.gate e.vector).usable e s.cpl)
include hpe hpg hlimit hp huse

theorem interrupt_gate (htype : (s.gate e.vector).type ∈ [6#5, 7#5, 14#5, 15#5]) :
    interrupt e s = (do gateDeliver e (s.gate e.vector); return false : Op Bool) (s.idtEntry e.vector).2.2 := by
  simp only [List.mem_cons, List.not_mem_nil, or_false] at htype
  have hgate : (s.gate e.vector).isGate := .inr htype
  have htask : (s.gate e.vector).type ≠ 5 := by rcases htype with h | h | h | h <;> rw [h] <;> decide
  rw [interrupt_run hpe hpg hlimit, if_pos hgate, if_pos huse, if_pos hp, if_neg htask]

theorem interrupt_taskGate (htype : (s.gate e.vector).type = 5) :
    interrupt e s = (do taskGateDeliver e (s.gate e.vector); return true : Op Bool) (s.idtEntry e.vector).2.2 := by
  rw [interrupt_run hpe hpg hlimit, if_pos (.inl htype), if_pos huse, if_pos hp, if_pos htype]

end

/-- The entry of the IDT read. -/
theorem Accessed.idtEntry (s : State) (v : Byte) : Accessed s (s.idtEntry v).2.2 := .bus s _ _

theorem handlerFlags_eq (fl : Dword) (b : Bool) :
    handlerFlags fl (!b) = fl &&& (if b then 0xFFFCFEFF else 0xFFFCFCFF) := by cases b <;> rfl

theorem enteredSame_eq {level : BitVec 2} {b : Bool} (h : Accessed s t) :
    t.enteredSame level sel d off sp (!b) = { (t.setSp sp).enterCS sel d level off with
      eflags := s.eflags &&& (if b then 0xFFFCFEFF else 0xFFFCFCFF) } := by
  rw [← h.eflags, ← handlerFlags_eq]
  rfl

/-- The frame pushed is that of the state the event found. -/
theorem Accessed.framePushes (h : Accessed s t) (e : Event) (n : Nat) (cs : Nat × Nat) :
    preparePushes t.segs.ss e.ex t.user t.sp (e.frame t n cs) =
      preparePushes s.segs.ss e.ex s.user s.sp (e.frame s n cs) := by
  rw [h.segs, h.user, h.sp, Event.frame, Event.frame, Event.image, Event.image, h.eflags]

theorem gateDeliver_same (hvm : s.vm = false) (hnull : isNull g.gateSel = false)
    (hfetch : descFetch g.gateSel s = .ok (some d) t) (hcode : d.isCode = true) (hp : d.p = true)
    (hdpl : d.dpl.toNat ≤ s.cpl.toNat) (hsame : d.isConforming = true ∨ d.dpl = s.cpl) :
    gateDeliver e g s = sameLevelDeliver e g.gateSel d g.gateSize g.gateOff (!bit g.hi 8) t := by
  have hnot : ¬ (d.isConforming = false ∧ d.dpl.toNat < s.cpl.toNat) := by
    rintro ⟨hconf, hlt⟩
    rcases hsame with h | h
    · exact Bool.false_ne_true (hconf.symm.trans h)
    · exact absurd hlt (by rw [h]; exact lt_irrefl _)
  rw [gateDeliver_some hnull hfetch, enterHandler_run, if_pos ⟨hcode, hdpl⟩, if_pos hp,
    if_neg (by rw [hvm]; decide), if_neg hnot]

/-- An event whose handler is entered. -/
theorem deliver_ok {b : Bool} (hpe : s.pe = true) (h : interrupt e s = .ok b t) : deliver e s = .next t.entered :=
  deliverFrom_ok (by rw [hpe, Bool.not_true, Bool.and_false]) h

/-- INT n, INT 3 and INTO are one delivery (R540 to R542). -/
theorem exec_software {v : Byte} (hprot : s.prot = true) {r : Host.Outcome State Fault Refusal}
    (h : ∀ x : Op End, x s = softInt v s → runEnd false x s = r) :
    exec (.int v) s = r ∧ (v = 3 → exec .int3 s = r) ∧ (v = 4 → s.status.of = true → exec .into s = r) := by
  have hiopl := requireIopl3_ok (iopl_free_of_prot hprot)
  refine ⟨h _ (op_bind_ok hiopl), ?_, ?_⟩
  · rintro rfl
    exact h _ rfl
  · rintro rfl hof
    exact h _ (by rw [hof]; rfl)

/-- The error code of a vector, with EX = 0 (R695). -/
theorem idtCode_zero (v : Byte) : idtCode v 0 = BitVec.ofNat 16 (8 * v.toNat + 2) := by
  refine BitVec.eq_of_toNat_eq ?_
  have := v.isLt
  simp [idtCode, BitVec.toNat_shiftLeft, Nat.shiftLeft_eq]
  omega

/-- A delivery to the same level, its frame prepared (R702). -/
theorem interrupt_same (hprot : s.prot = true) (hpg : s.pg = false)
    (hlimit : 8 * e.vector.toNat + 7 ≤ s.idtr.limit.toNat)
    (htype : (s.gate e.vector).type ∈ [6#5, 7#5, 14#5, 15#5]) (hp : (s.gate e.vector).p = true)
    (huse : (s.gate e.vector).usable e s.cpl) (hnull : isNull (s.gate e.vector).gateSel = false)
    (hfetch : descFetch (s.gate e.vector).gateSel (s.idtEntry e.vector).2.2 = .ok (some d) t) (hcode : d.isCode = true)
    (hdp : d.p = true) (hlevel : if d.isConforming then d.dpl.toNat ≤ s.cpl.toNat else d.dpl = s.cpl)
    (hpush : preparePushes s.segs.ss e.ex s.user s.sp
      (e.frame s (s.gate e.vector).gateSize (t.csItem (s.gate e.vector).gateSize).1)
      (t.csItem (s.gate e.vector).gateSize).2 = .ok (l, sp) u) :
    let g := s.gate e.vector
    (∀ v, g.gateOff.toNat ≤ d.limit.toNat → setAccessed d u = .ok () v → interrupt e s = .ok false
      { ((storedAll l v).setSp sp).enterCS g.gateSel d s.cpl g.gateOff with
        eflags := s.eflags &&& (if bit g.hi 8 then 0xFFFCFEFF else 0xFFFCFCFF) }) ∧
    (d.limit.toNat < g.gateOff.toNat → interrupt e s = .error (.exc ⟨13, some e.ex⟩) u) := by
  intro g
  have hread := Accessed.idtEntry s e.vector
  have ht := hread.trans (Keeps.descFetch _ _ _ _ hfetch)
  obtain ⟨hpe, hvm⟩ : s.pe = true ∧ s.vm = false := by simpa [State.prot] using hprot
  have hsame : d.dpl.toNat ≤ s.cpl.toNat ∧ (d.isConforming = true ∨ d.dpl = s.cpl) := by
    split at hlevel
    · exact ⟨hlevel, .inl ‹_›⟩
    · exact ⟨hlevel ▸ le_rfl, .inr hlevel⟩
  rw [← hread.cpl] at hsame
  have hgate := gateDeliver_same (e := e) (hread.vm.trans hvm) hnull hfetch hcode hdp hsame.1 hsame.2
  rw [← congrFun (ht.framePushes e _ _) _] at hpush
  have hrun := interrupt_gate hpe hpg hlimit hp huse htype
  refine ⟨fun v hoff hset => ?_, fun hoff => ?_⟩
  · have hdone := hgate.trans (sameLevelDeliver_ok hpush hoff hset)
    rw [enteredSame_eq (ht.trans (sameLevelDeliver_keeps hpush hset)), ht.cpl] at hdone
    rw [hrun, op_bind_ok hdone]
    rfl
  · rw [hrun, op_bind_error (hgate.trans (sameLevelDeliver_gp hpush hoff))]

/-- The tests of the handler's code segment (R702, R704). -/
theorem gateDeliver_tests (hnull : isNull g.gateSel = false) (hfetch : descFetch g.gateSel s = .ok (some d) t) :
    let fits := d.isCode = true ∧ d.dpl.toNat ≤ s.cpl.toNat
    let refused := fun x : Byte => gateDeliver e g s = .error (.exc ⟨x, some (selCode g.gateSel + e.ex)⟩) t
    (¬ fits → refused 13) ∧ (fits → d.p = false → refused 11) ∧
    (fits → d.p = true → s.vm = true → ¬ d.fromV86 g → refused 13) := by
  intro fits refused
  have hrun := (gateDeliver_some (e := e) hnull hfetch).trans (enterHandler_run e g s d t)
  refine ⟨fun hno => ?_, fun hyes hp => ?_, fun hyes hp hvm hno => ?_⟩
  · exact hrun.trans (if_neg hno)
  · exact hrun.trans ((if_pos hyes).trans (if_neg (by simp [hp])))
  · exact hrun.trans ((if_pos hyes).trans ((if_pos hp).trans ((if_pos hvm).trans (if_neg hno))))

theorem mem_gateTypes {x : BitVec 5} (h : x = 6 ∨ x = 7 ∨ x = 14 ∨ x = 15) : x ∈ [6#5, 7#5, 14#5, 15#5] := by
  simpa using h

/-- What a software interrupt raises of its vector's entry (R699, R700). -/
theorem exec_software_refused {v x : Byte} (hlock : s.pfx.lock = false) (hprot : s.prot = true) (hx : x ≠ 0)
    (h : interrupt ⟨v, .software, s.nextEip, none, false⟩ s = .error (.exc ⟨x, some (idtCode v 0)⟩) t) :
    let r := deliver (faultEvent ⟨x, some (BitVec.ofNat 16 (8 * v.toNat + 2))⟩ s.eip) (s.rollback t)
    exec (.int v) s = r ∧ (v = 3 → exec .int3 s = r) ∧ (v = 4 → s.status.of = true → exec .into s = r) := by
  rw [← idtCode_zero]
  refine exec_software hprot fun op hop => ?_
  refine (runEnd_exc (lock_free hlock) (hop.trans (softInt_exc h))).trans ?_
  rw [State.undone, if_neg fun h0 => hx h0.1]

section
variable (hpe : s.pe = true) (hpg : s.pg = false) (hlimit : 8 * e.vector.toNat + 7 ≤ s.idtr.limit.toNat)
include hpe hpg hlimit

/-- What a software interrupt may not use (R700). -/
theorem interrupt_unusable (hex : e.ex = 0)
    (hbad : ¬ (s.gate e.vector).isGate ∨ ¬ (s.gate e.vector).usable e s.cpl) :
    interrupt e s = .error (.exc ⟨13, some (idtCode e.vector 0)⟩) (s.idtEntry e.vector).2.2 := by
  refine (interrupt_run hpe hpg hlimit).trans ?_
  rw [hex]
  by_cases hgate : (s.gate e.vector).isGate
  · rw [if_pos hgate, if_neg (hbad.resolve_left (not_not_intro hgate))]
  · rw [if_neg hgate]

theorem interrupt_absent (hgate : (s.gate e.vector).isGate) (huse : (s.gate e.vector).usable e s.cpl)
    (hp : (s.gate e.vector).p = false) :
    interrupt e s = .error (.exc ⟨11, some (idtCode e.vector e.ex)⟩) (s.idtEntry e.vector).2.2 := by
  refine (interrupt_run hpe hpg hlimit).trans ?_
  rw [if_pos hgate, if_pos huse, if_neg (by rw [hp]; decide)]

variable (hp : (s.gate e.vector).p = true) (huse : (s.gate e.vector).usable e s.cpl)
include hp huse

/-- What a delivery raises of its handler's code segment (R702, R704). -/
theorem interrupt_gate_refusals (htype : (s.gate e.vector).type ∈ [6#5, 7#5, 14#5, 15#5]) :
    let g := s.gate e.vector
    let read := (s.idtEntry e.vector).2.2
    let refused := fun (x : Byte) (w : State) => interrupt e s = .error (.exc ⟨x, some (selCode g.gateSel + e.ex)⟩) w
    (isNull g.gateSel = true → interrupt e s = .error (.exc ⟨13, some e.ex⟩) read) ∧
    (isNull g.gateSel = false → descFetch g.gateSel read = .ok none t → refused 13 t) ∧
    (isNull g.gateSel = false → descFetch g.gateSel read = .ok (some d) t →
      let fits := d.isCode = true ∧ d.dpl.toNat ≤ s.cpl.toNat
      (¬ fits → refused 13 t) ∧ (fits → d.p = false → refused 11 t) ∧
      (fits → d.p = true → s.vm = true → ¬ d.fromV86 g → refused 13 t)) := by
  intro g read refused
  have hread := Accessed.idtEntry s e.vector
  have hraise {y : Exn} {w : State} (h : gateDeliver e g read = .error (.exc y) w) :
      interrupt e s = .error (.exc y) w := by
    rw [interrupt_gate hpe hpg hlimit hp huse htype, op_bind_error h]
  refine ⟨fun hnull => hraise (gateDeliver_null hnull), fun hnull hnone => hraise (gateDeliver_none hnull hnone),
    fun hnull hfetch => ?_⟩
  obtain ⟨hno, habsent, hv86⟩ := gateDeliver_tests (e := e) hnull hfetch
  rw [hread.cpl] at hno habsent hv86
  exact ⟨fun h => hraise (hno h), fun h hdp => hraise (habsent h hdp),
    fun h hdp hvm hbad => hraise (hv86 h hdp (hread.vm.trans hvm) hbad)⟩

/-- Through a task gate (R705). -/
theorem interrupt_task (htype : (s.gate e.vector).type = 5) :
    let g := s.gate e.vector
    let read := (s.idtEntry e.vector).2.2
    let refused := fun (w : State) => interrupt e s = .error (.exc ⟨13, some (selCode g.gateSel + e.ex)⟩) w
    (¬ g.placed → refused read) ∧ (g.placed → descFetch g.gateSel read = .ok none t → refused t) ∧
    (g.placed → descFetch g.gateSel read = .ok (some d) t →
      (d.isTss = false → refused t) ∧
      (∀ x w, d.isTss = true → taskSwitch g.gateSel d .interrupt e.ret (e.image read) e.ex t = .error x w →
        interrupt e s = .error x w) ∧
      (∀ w, d.isTss = true → taskSwitch g.gateSel d .interrupt e.ret (e.image read) e.ex t = .ok () w →
        (∀ z, pushCode e d w = .ok () z → interrupt e s = .ok true z ∧ deliver e s = .next z.entered) ∧
        (∀ x z, pushCode e d w = .error x z → interrupt e s = .error x z))) := by
  intro g read refused
  have hrun := interrupt_taskGate hpe hpg hlimit hp huse htype
  have hraise {y : Stop} {w : State} (h : taskGateDeliver e g read = .error y w) :
      interrupt e s = .error y w := hrun.trans (op_bind_error h)
  refine ⟨fun hno => hraise (taskGateDeliver_misplaced hno), fun hplaced hnone =>
    hraise (taskGateDeliver_none hplaced hnone), fun hplaced hfetch => ⟨fun htss =>
    hraise (taskGateDeliver_noTss hplaced hfetch htss), fun y w htss hswitch =>
    hraise ((taskGateDeliver_tss hplaced hfetch htss).trans (op_bind_error hswitch)), fun w htss hswitch => ?_⟩⟩
  have hpushed := (taskGateDeliver_tss (e := e) hplaced hfetch htss).trans (op_bind_ok hswitch)
  have hdone {z : State} (h : pushCode e d w = .ok () z) : interrupt e s = .ok true z :=
    hrun.trans (op_bind_ok (hpushed.trans h))
  exact ⟨fun z h => ⟨hdone h, deliver_ok hpe (hdone h)⟩, fun x z h => hraise (hpushed.trans h)⟩

end

/-- Settles O42: the IDT's entry is tested first (`interrupt_run`), then the handler's segment (`gateDeliver_tests`) or
the TSS behind a task gate. -/
theorem sameLevelInterrupt : Obligations.SameLevelInterrupt := by
  refine ⟨fun s t u v e d l sp hprot hpg hlimit => ?_, fun s x hprot hpg hlock => ?_,
    fun s t u e d l sp hpe hpg hlimit => ?_⟩
  · intro lo hi type n sel off htype hp huse hnull hfetch hcode hdp hlevel hoff image code hpush hset h1 h
    have hrun : interrupt e s = .ok false h := (interrupt_same hprot hpg hlimit (mem_gateTypes htype) hp huse hnull
      hfetch       hcode hdp hlevel hpush).1 v hoff hset
    have hpe : s.pe = true := by simp_all [State.prot]
    refine ⟨hrun, deliver_ok hpe hrun, fun he hlock => ?_⟩
    rw [he] at hrun
    exact exec_software hprot fun op hop => runEnd_done hlock (hop.trans (softInt_ok hrun))
  · have hpe : s.pe = true := by simp_all [State.prot]
    refine ⟨fun hlimit => exec_software_refused hlock hprot (by decide) (interrupt_beyond hpe hlimit),
      fun hlimit hbad => exec_software_refused hlock hprot (by decide) ?_,
      fun hlimit hgate huse hp => exec_software_refused hlock hprot (by decide)
        (interrupt_absent hpe hpg hlimit hgate (fun _ => huse) hp)⟩
    exact interrupt_unusable hpe hpg hlimit rfl (hbad.imp_right fun hno huse => hno (huse rfl))
  · intro lo hi read type ex sel image refused hp huse
    refine ⟨fun htype => ?_, fun htype => ?_⟩
    · obtain ⟨hnull, hnone, hsome⟩ := interrupt_gate_refusals (t := t) (d := d) hpe hpg hlimit hp huse
        (mem_gateTypes htype)
      have hzero : e.ex = (0 &&& 0xFFFC) + ex := (BitVec.zero_add ex).symm
      rw [hzero] at hnull
      refine ⟨hnull, hnone, fun hnil hfetch => ?_⟩
      obtain ⟨hno, habsent, hv86⟩ := hsome hnil hfetch
      refine ⟨hno, habsent, fun h hdp hvm hbad => hv86 h hdp hvm fun ⟨hdpl, hconf, hsize⟩ => ?_, ?_⟩
      · exact hbad.elim (absurd hdpl) fun h => h.elim (fun hc => Bool.false_ne_true (hconf.symm.trans hc)) hsize
      · intro h hdp hvm hlevel hoff code hpush
        have hprot : s.prot = true := by simp [State.prot, hpe, hvm]
        have hsame : if d.isConforming then d.dpl.toNat ≤ s.cpl.toNat else d.dpl = s.cpl := by
          split
          · exact h.2
          · exact hlevel.resolve_left ‹_›
        have hgp := (interrupt_same hprot hpg hlimit (mem_gateTypes htype) hp huse hnil hfetch h.1 hdp hsame
          hpush).2 hoff
        rwa [hzero] at hgp
    · obtain ⟨hbad, hnone, hsome⟩ := interrupt_task (t := t) (d := d) hpe hpg hlimit hp huse htype
      refine ⟨hbad, hnone, fun hplaced hfetch => ?_⟩
      obtain ⟨hno, hstop, hdone⟩ := hsome hplaced hfetch
      refine ⟨hno, hstop, fun w htss hswitch => ?_⟩
      obtain ⟨hok, hlate⟩ := hdone w htss hswitch
      exact ⟨fun hcode => hok _ (pushCode_none hcode), fun c hcode =>
        ⟨fun y z hpush => hlate _ _ (pushCode_late hcode hpush), fun l sp z hpush => hok _ (pushCode_ok hcode hpush)⟩⟩

end Sys2Proof.Machine
end

section
namespace Sys2Proof.Machine
variable {α β : Type} {s t u v w : State} {e : Event} {d g ds : Desc} {sel ssel ex : BitVec 16}
  {off sp spEnd : Dword} {n : Nat}
  {clearIf v86 : Bool} {l : List (Ref × Nat)}

/-! # What the entry through a gate leaves -/

/-! ## An entry that completes -/

theorem Leads.bind {P : State → Prop} {x : Op α} {f : α → Op β} (h : Accessed s u) (hx : Keeps x)
    (hf : ∀ a v, x u = .ok a v → Accessed s v → Leads (f a) v P) : Leads (x >>= f) u P := fun b t hxf => by
  obtain ⟨a, v, hxa, hfa⟩ := op_bind_eq_ok hxf
  exact hf a v hxa (h.trans (hx u a v hxa)) b t hfa

theorem Leads.guard {P : State → Prop} {c : Prop} [Decidable c] {x : Byte} {code : Option (BitVec 16)}
    {f : Unit → Op β} (hf : ¬ c → Leads (f ()) u P) : Leads (if c then raise x code >>= f else f ()) u P := by
  split
  · exact fun _ _ h => nomatch h
  · exact hf ‹_›

theorem Keeps.selItem (n : Nat) (sel : BitVec 16) : Keeps (Machine.selItem n sel) := fun s _ _ h => by
  rw [selItem_run] at h
  cases h
  exact .itemOf s n sel

theorem Keeps.frameItems (e : Event) (s : State) (n : Nat) : Keeps (Machine.frameItems e s n) :=
  .bind (.selItem _ _) fun _ => .pure _

theorem Keeps.writeAll (l : List (Ref × Nat)) : Keeps (Machine.writeAll l) := fun s _ _ h => by
  rw [writeAll_run] at h
  cases h
  exact .storedAll l s

/-- The inner stack's selector has passed its tests (R703). -/
theorem checkInner_level {level : BitVec 2} (h : checkInner level sel ex s = .ok d t) :
    rpl sel = level ∧ d.dpl = level := by
  unfold checkInner at h
  split at h
  · cases h
  · obtain ⟨x, v, -, h⟩ := op_bind_eq_ok h
    by_cases hlevel : rpl sel ≠ level ∨ x.dpl ≠ level ∨ (!x.isWritable) = true
    · rw [if_pos hlevel] at h
      cases h
    · rw [if_neg hlevel] at h
      simp only [not_or, not_not] at hlevel
      cases hp : x.p
      · rw [hp] at h
        cases h
      · rw [hp] at h
        cases h
        exact ⟨hlevel.1, hlevel.2.1⟩

/-- A delivery to the same level that completes. -/
theorem sameLevelDeliver_leads : Leads (sameLevelDeliver e sel d n off clearIf) s fun t =>
    ∃ v sp, Accessed s v ∧ off.toNat ≤ d.limit.toNat ∧ t = v.enteredSame s.cpl sel d off sp clearIf :=
  .get <| .keeps (.refl s) (.frameItems _ _ _) fun _ _ h => .keeps h .preparePushes fun p _ h =>
  .guard fun hoff => .keeps h (.setAccessed _) fun _ _ h => .keeps h (.writeAll _) fun _ v h _ _ hlast => by
    cases hlast
    exact ⟨v, p.2, h, Nat.le_of_not_lt hoff, rfl⟩

/-- A delivery to an inner level that completes. -/
theorem innerDeliver_leads : Leads (innerDeliver e sel d n off clearIf v86) s fun t =>
    ∃ v ssel ds sp spEnd, Accessed s v ∧ off.toNat ≤ d.limit.toNat ∧ rpl ssel = d.dpl ∧ ds.dpl = d.dpl ∧
      t = v.enteredInner sel d off ssel ds sp spEnd clearIf v86 :=
  .get <| .keeps (.refl s) (.innerStack _ _) fun q _ h => .bind h (.checkInner _ _ _) fun ds _ hds h =>
  .keeps h (.selItem _ _) fun _ _ h => .keeps h (.selItem _ _) fun _ _ h => .keeps h (.selItem _ _) fun _ _ h =>
  .keeps h (.selItem _ _) fun _ _ h => .keeps h (.selItem _ _) fun _ _ h => .keeps h (.frameItems _ _ _) fun _ _ h =>
  .keeps h .preparePushes fun p _ h => .guard fun hoff => .keeps h (.setAccessed _) fun _ _ h =>
  .keeps h (.setAccessed _) fun _ _ h => .keeps h (.writeAll _) fun _ v h _ _ hlast => by
    obtain ⟨hrpl, hdpl⟩ := checkInner_level hds
    refine ⟨v, q.1, ds, q.2, p.2, h, Nat.le_of_not_lt hoff, hrpl, hdpl, ?_⟩
    cases v86 <;> cases hlast <;> rfl

/-- A gate passed leads to code at or inside the level, of level 0 from virtual-8086 mode (R702, R704). -/
theorem gateDeliver_leads (h : gateDeliver e g s = .ok () t) : ∃ d u, Accessed s u ∧ d.dpl.toNat ≤ s.cpl.toNat ∧
    ((∃ v86, (s.vm = true → d.dpl = 0 ∧ v86 = true) ∧ (s.vm = false → d.dpl.toNat < s.cpl.toNat ∧ v86 = false) ∧
        innerDeliver e g.gateSel d g.gateSize g.gateOff (!bit g.hi 8) v86 u = .ok () t) ∨
      (s.vm = false ∧ sameLevelDeliver e g.gateSel d g.gateSize g.gateOff (!bit g.hi 8) u = .ok () t)) := by
  rw [gateDeliver_eq] at h
  split at h
  · cases h
  · obtain ⟨d, u, hd, h⟩ := op_bind_eq_ok h
    rw [enterHandler_run] at h
    split_ifs at h with hfits hp hvm hv86 hinner
    · exact ⟨d, u, Keeps.descOr (.raise _ _) _ _ _ hd, hfits.2, .inl ⟨true, fun _ => ⟨hv86.1, rfl⟩,
        fun hf => absurd hvm (by rw [hf]; decide), h⟩⟩
    · exact ⟨d, u, Keeps.descOr (.raise _ _) _ _ _ hd, hfits.2, .inl ⟨false, fun ht => absurd ht hvm,
        fun _ => ⟨hinner.2, rfl⟩, h⟩⟩
    · exact ⟨d, u, Keeps.descOr (.raise _ _) _ _ _ hd, hfits.2, .inr ⟨Bool.eq_false_of_not_eq_true hvm, h⟩⟩

/-- An event entered without a task switch went through a gate (R700). -/
theorem interrupt_entered (hpe : s.pe = true) (hpg : s.pg = false) (h : interrupt e s = .ok false t) :
    gateDeliver e (s.gate e.vector) (s.idtEntry e.vector).2.2 = .ok () t := by
  by_cases hlimit : s.idtr.limit.toNat < 8 * e.vector.toNat + 7
  · rw [interrupt_beyond hpe hlimit] at h
    cases h
  · rw [interrupt_run hpe hpg (Nat.le_of_not_lt hlimit)] at h
    split_ifs at h
    · obtain ⟨_, _, -, hlast⟩ := op_bind_eq_ok h
      cases hlast
    · obtain ⟨_, _, hgate, hlast⟩ := op_bind_eq_ok h
      cases hlast
      exact hgate

/-! ## The state entered -/

theorem enteredInner_fields (v : State) (sel : BitVec 16) (d : Desc) (off : Dword) (ssel : BitVec 16) (ds : Desc)
    (sp spEnd : Dword) (clearIf v86 : Bool) :
    let t := v.enteredInner sel d off ssel ds sp spEnd clearIf v86
    t.cpl = d.dpl ∧ t.segs.cs = d.toReg (selCode sel ||| d.dpl.setWidth 16) ∧ t.segs.ss = ds.toReg ssel ∧
    t.nextEip = off ∧ t.eflags = handlerFlags v.eflags clearIf ∧
    t.idtr = v.idtr ∧ t.gdtr = v.gdtr ∧ t.ldtr = v.ldtr ∧ t.tr = v.tr ∧ t.cr0 = v.cr0 ∧ t.cr3 = v.cr3 := by
  cases v86 <;> exact ⟨rfl, rfl, rfl, rfl, rfl, rfl, rfl, rfl, rfl, rfl, rfl⟩

/-- The data segments an entry to an inner level leaves (R704). -/
theorem enteredInner_data (v : State) (sel : BitVec 16) (d : Desc) (off : Dword) (ssel : BitVec 16) (ds : Desc)
    (sp spEnd : Dword) (clearIf v86 : Bool) :
    let t := v.enteredInner sel d off ssel ds sp spEnd clearIf v86
    (v86 = true → t.segs.ds.null = true ∧ t.segs.es.null = true ∧ t.segs.fs.null = true ∧ t.segs.gs.null = true) ∧
    (v86 = false → t.segs.ds = v.segs.ds ∧ t.segs.es = v.segs.es ∧ t.segs.fs = v.segs.fs ∧ t.segs.gs = v.segs.gs) := by
  cases v86
  · exact ⟨fun h => absurd h (by decide), fun _ => ⟨rfl, rfl, rfl, rfl⟩⟩
  · exact ⟨fun _ => ⟨rfl, rfl, rfl, rfl⟩, fun h => absurd h (by decide)⟩

/-- What every entry through a gate leaves (R702, R703, R704, R707). -/
theorem gate_leaves (h : gateDeliver e g s = .ok () t) :
    t.cpl.toNat ≤ s.cpl.toNat ∧ t.segs.cs.sel = (g.gateSel &&& 0xFFFC) ||| t.cpl.setWidth 16 ∧
    t.nextEip = g.gateOff ∧ t.eflags = s.eflags &&& (if bit g.hi 8 then 0xFFFCFEFF else 0xFFFCFCFF) ∧
    t.nextEip.toNat ≤ t.segs.cs.limit.toNat ∧ (s.vm = false → t.cpl = s.cpl → t.segs.ss = s.segs.ss) ∧
    (t.cpl ≠ s.cpl → rpl t.segs.ss.sel = t.cpl ∧ t.segs.ss.attr.dpl = t.cpl) ∧
    (s.vm = true → t.cpl = 0 ∧ t.segs.ds.null = true ∧ t.segs.es.null = true ∧ t.segs.fs.null = true ∧
      t.segs.gs.null = true) ∧
    (s.vm = false → t.segs.ds = s.segs.ds ∧ t.segs.es = s.segs.es ∧ t.segs.fs = s.segs.fs ∧ t.segs.gs = s.segs.gs) ∧
    t.idtr = s.idtr ∧ t.gdtr = s.gdtr ∧ t.ldtr = s.ldtr ∧ t.tr = s.tr ∧ t.cr0 = s.cr0 ∧ t.cr3 = s.cr3 := by
  obtain ⟨d, u, hu, hdpl, hkind⟩ := gateDeliver_leads h
  rw [← handlerFlags_eq]
  rcases hkind with ⟨v86, hv86, hprot, hinner⟩ | ⟨hvm, hsame⟩
  · obtain ⟨v, ssel, ds, sp, spEnd, hv, hoff, hrpl, hds, rfl⟩ := innerDeliver_leads _ _ hinner
    have hk := hu.trans hv
    obtain ⟨hcpl, hcs, hss, hip, hfl, hidtr, hgdtr, hldtr, htr, hcr0, hcr3⟩ :=
      enteredInner_fields v g.gateSel d g.gateOff
      ssel ds sp spEnd (!bit g.hi 8) v86
    obtain ⟨hnull, hkeep⟩ := enteredInner_data v g.gateSel d g.gateOff ssel ds sp spEnd (!bit g.hi 8) v86
    rw [hk.segs] at hkeep
    rw [hcpl, hcs, hss, hip, hfl, hk.eflags]
    refine ⟨hdpl, rfl, rfl, rfl, hoff, fun hvm heq => ?_, fun _ => ⟨hrpl, hds⟩,
      fun hvm => ⟨(hv86 hvm).1, hnull (hv86 hvm).2⟩,
      fun hvm => hkeep (hprot hvm).2, hidtr.trans hk.idtr, hgdtr.trans hk.gdtr, hldtr.trans hk.ldtr, htr.trans hk.tr,
      hcr0.trans hk.cr0, hcr3.trans hk.cr3⟩
    exact absurd (hprot hvm).1 (by rw [heq]; exact lt_irrefl _)
  · obtain ⟨v, sp, hv, hoff, ht⟩ := sameLevelDeliver_leads _ _ hsame
    have hk := hu.trans hv
    rw [hu.cpl] at ht
    subst ht
    have hflags := congrArg (handlerFlags · (!bit g.hi 8)) hk.eflags
    have hseg (k : Sreg) : v.segs.get k = s.segs.get k := by rw [hk.segs]
    exact ⟨le_rfl, rfl, rfl, hflags, hoff, fun _ _ => hseg .ss, fun hne => absurd rfl hne,
      fun hyes => absurd (hvm.symm.trans hyes) (by decide), fun _ => ⟨hseg .ds, hseg .es, hseg .fs, hseg .gs⟩,
      hk.idtr, hk.gdtr, hk.ldtr, hk.tr, hk.cr0, hk.cr3⟩

/-! ## The frame of an inner level -/

theorem Accessed.drawnFrame (h : Accessed s t) (u : State) (n : Nat) : t.drawnFrame u n = s.drawnFrame u n := by
  rw [State.drawnFrame, State.drawnFrame, h.segs]

theorem Accessed.innerFrame (h : Accessed s t) (e : Event) (u : State) (n : Nat) (v86 : Bool) :
    e.innerFrame t u n v86 = e.innerFrame s u n v86 := by
  rw [Event.innerFrame, Event.innerFrame, h.segs, h.regs, Event.frame, Event.frame, Event.image, Event.image, h.eflags]

/-- The gate leads inwards, from virtual-8086 mode or from an outer level (R703, R704). -/
theorem gateDeliver_inner (hnull : isNull g.gateSel = false) (hfetch : descFetch g.gateSel s = .ok (some d) t)
    (hcode : d.isCode = true) (hp : d.p = true) (hconf : d.isConforming = false) (hdpl : d.dpl.toNat ≤ s.cpl.toNat)
    (hkind : if s.vm then d.dpl = 0 ∧ g.gateSize = 4 else d.dpl.toNat < s.cpl.toNat) :
    gateDeliver e g s = innerDeliver e g.gateSel d g.gateSize g.gateOff (!bit g.hi 8) s.vm t := by
  rw [gateDeliver_some hnull hfetch, enterHandler_run, if_pos ⟨hcode, hdpl⟩, if_pos hp]
  cases hvm : s.vm
  · rw [hvm] at hkind
    rw [if_neg (by decide), if_pos ⟨hconf, hkind⟩]
  · rw [hvm] at hkind
    rw [if_pos rfl, if_pos ⟨hkind.1, hconf, by rw [hkind.2]; decide⟩]

theorem enteredInner_eq {b : Bool} (h : Accessed s t) : t.enteredInner sel d off ssel ds sp spEnd (!b) v86 =
    let h := (State.setSp { t.setSeg .ss (ds.toReg ssel) with regs := { t.regs with esp := sp } } spEnd).enterCS sel d
      d.dpl off
    let h := { h with eflags := s.eflags &&& (if b then 0xFFFCFEFF else 0xFFFCFCFF) }
    if v86 then h.nullData else h := by
  rw [← h.eflags, ← handlerFlags_eq]
  rfl

theorem Accessed.itemsOf (n : Nat) : ∀ (sels : List (BitVec 16)) (s : State), Accessed s (Machine.itemsOf n sels s).2
  | [], s => .refl s
  | sel :: sels, s => (Accessed.itemOf s n sel).trans (.itemsOf n sels _)

/-- The entry to an inner level, its frame prepared (R703, R704). -/
theorem interrupt_inner {u1 u2 u3 u4 u5 u6 : State} (hpe : s.pe = true) (hpg : s.pg = false)
    (hlimit : 8 * e.vector.toNat + 7 ≤ s.idtr.limit.toNat) (htype : (s.gate e.vector).type ∈ [6#5, 7#5, 14#5, 15#5])
    (hp : (s.gate e.vector).p = true) (huse : (s.gate e.vector).usable e s.cpl)
    (hnull : isNull (s.gate e.vector).gateSel = false)
    (hfetch : descFetch (s.gate e.vector).gateSel (s.idtEntry e.vector).2.2 = .ok (some d) u1) (hcode : d.isCode = true)
    (hdp : d.p = true) (hconf : d.isConforming = false) (hdpl : d.dpl.toNat ≤ s.cpl.toNat)
    (hkind : if s.vm then d.dpl = 0 ∧ (s.gate e.vector).gateSize = 4 else d.dpl.toNat < s.cpl.toNat)
    (hstack : innerStack d.dpl e.ex u1 = .ok (ssel, sp) u2) (hcheck : checkInner d.dpl ssel e.ex u2 = .ok ds u3)
    (hpush : preparePushes (ds.toReg ssel) (selCode ssel + e.ex) false sp
      (e.innerFrame s u3 (s.gate e.vector).gateSize s.vm) (s.drawnFrame u3 (s.gate e.vector).gateSize)
      = .ok (l, spEnd) u4) :
    let g := s.gate e.vector
    (d.limit.toNat < g.gateOff.toNat → interrupt e s = .error (.exc ⟨13, some e.ex⟩) u4) ∧
    (g.gateOff.toNat ≤ d.limit.toNat → setAccessed ds u4 = .ok () u5 → setAccessed d u5 = .ok () u6 →
      interrupt e s = .ok false ((storedAll l u6).enteredInner g.gateSel d g.gateOff ssel ds sp spEnd
        (!bit g.hi 8) s.vm) ∧
      Accessed s (storedAll l u6)) := by
  intro g
  have hread := Accessed.idtEntry s e.vector
  have hu1 := hread.trans (Keeps.descFetch _ _ _ _ hfetch)
  rw [← hread.cpl] at hdpl
  rw [← hread.vm, ← hread.cpl] at hkind
  have hgate := gateDeliver_inner (e := e) hnull hfetch hcode hdp hconf hdpl hkind
  rw [hread.vm] at hgate
  rw [← hu1.innerFrame, ← hu1.drawnFrame] at hpush
  have hrun := hgate.trans (innerDeliver_run hstack hcheck hpush)
  have hint := interrupt_gate hpe hpg hlimit hp huse htype
  refine ⟨fun hoff => ?_, fun hoff hsetds hsetd => ⟨?_, ?_⟩⟩
  · rw [if_pos hoff] at hrun
    exact hint.trans (op_bind_error hrun)
  · rw [if_neg (Nat.not_lt.mpr hoff)] at hrun
    have hdone := hrun.trans <| (op_bind_ok hsetds).trans <| (op_bind_ok hsetd).trans <|
      (op_bind_ok (writeAll_run l u6)).trans (op_modify _ _)
    exact hint.trans (op_bind_ok hdone)
  · have hu3 := (hu1.trans (Keeps.innerStack _ _ _ _ _ hstack)).trans (Keeps.checkInner _ _ _ _ _ _ hcheck)
    have hu4 := (hu3.trans (.itemsOf _ _ u3)).trans (preparePushes_ok hpush).accessed
    exact (hu4.trans (Keeps.setAccessed _ _ _ _ hsetds)).trans
      ((Keeps.setAccessed _ _ _ _ hsetd).trans (.storedAll l u6))

/-- Settles O43: a completed entry is one of the two forms of `gate_leaves`; an inner one is `innerDeliver_run` on the
frame prepared. -/
theorem handlerEntry : Obligations.HandlerEntry := by
  refine ⟨fun s t e hpe hpg h => ?_, fun s u1 u2 u3 u4 u5 u6 e d ds ssel sp spEnd l hpe hpg hlimit => ?_⟩
  · have hread := Accessed.idtEntry s e.vector
    have hleaves := gate_leaves (interrupt_entered hpe hpg h)
    rw [hread.cpl, hread.eflags, hread.segs, hread.vm, hread.idtr, hread.gdtr, hread.ldtr, hread.tr, hread.cr0,
      hread.cr3] at hleaves
    exact hleaves
  · intro lo hi type n sel off htype hp huse hnull hfetch hcode hdp hconf hdpl hkind ex hstack hcheck g drawn item image
      code frame hpush
    have hframe : frame = e.innerFrame s u3 n s.vm := by
      unfold frame Event.innerFrame
      cases s.vm <;> rfl
    rw [hframe] at hpush
    obtain ⟨hgp, hok⟩ := interrupt_inner (u5 := u5) (u6 := u6) hpe hpg hlimit (mem_gateTypes htype) hp huse hnull hfetch
      hcode hdp hconf hdpl hkind hstack hcheck hpush
    refine ⟨hgp, fun hoff hsetds hsetd => ?_⟩
    obtain ⟨hdone, hkeep⟩ := hok hoff hsetds hsetd
    rw [enteredInner_eq hkeep] at hdone
    exact hdone

/-! ## A second exception while one is delivered -/

/-- Behind a task switch nothing is undone, and the EIP to save is the new task's (R699, R794). -/
theorem deliver_late {x : Exn} (hpe : s.pe = true) (h : interrupt e s = .error (.late x) t) : deliver e s =
    match deliveryFault { e with ret := t.eip } x with
    | none => .next (t.shutDown t.eip)
    | some e' => deliverFrom 4 id e' t := by
  rw [deliver, deliverFrom, hpe, h, Bool.not_true, Bool.and_false] <;> rfl

theorem contributory_iff (v : Byte) : contributory v = true ↔ v = 10 ∨ v = 11 ∨ v = 12 ∨ v = 13 := by
  simp [contributory, or_assoc]

/-- The table of double faults (R699, D63). -/
theorem deliveryFault_eq (e : Event) (x : Exn) :
    let exc := e.kind = .exception
    let contributes := fun v : Byte => v = 10 ∨ v = 11 ∨ v = 12 ∨ v = 13
    deliveryFault e x = if exc ∧ e.vector = 8 then none
      else if x.vector = 8 ∨ (exc ∧ (e.vector = 14 ∨ (contributes e.vector ∧ contributes x.vector))) then
        some ⟨8, .exception, e.ret, some 0, false⟩
      else some ⟨x.vector, .exception, e.ret, x.code, true⟩ := by
  intro exc contributes
  refine if_congr Iff.rfl rfl (if_congr ?_ rfl rfl)
  simp only [Bool.or_eq_true, Bool.and_eq_true, contributory_iff, beq_iff_eq, decide_eq_true_eq]
  rfl

/-- Settles O44: what follows is `deliveryFault_eq`'s event, from the state undone or, behind a task switch, from the
state reached. -/
theorem doubleFault : Obligations.DoubleFault := by
  refine ⟨fun e x s t hpe h => ?_, fun e x s t hpe h => ?_⟩
  · intro exc contributes double
    have hrun := deliver_late hpe h
    have hnext := deliveryFault_eq { e with ret := t.eip } x
    refine ⟨fun hexc hv => ?_, fun hno hd => ?_, fun hno hd => ?_⟩
    · rw [hrun, hnext, if_pos ⟨hexc, hv⟩]
    · rw [hrun, hnext, if_neg hno, if_pos hd]
    · rw [hrun, hnext, if_neg hno, if_neg hd]
  · intro exc contributes
    have hrun : deliver e s = _ := deliverFrom_exc (by rw [hpe, Bool.not_true, Bool.and_false]) h
    have hnext := deliveryFault_eq e x
    refine ⟨fun hexc hv => ?_, fun hno hd => ?_, fun hno hd => ?_⟩
    · rw [hrun, hnext, if_pos ⟨hexc, hv⟩]
    · rw [hrun, hnext, if_neg hno, if_pos hd]
    · rw [hrun, hnext, if_neg hno, if_neg hd]

end Sys2Proof.Machine
end

section
namespace Sys2Proof.Machine

/-! # Segment registers moved, pointers loaded, effective addresses, frames -/

variable {s t t1 t2 u : State} {x y : Ref} {k seg : Sreg} {off : Dword} {n : Nat} {w : Bool}

/-! ## An operand of two parts: its limit is tested as a whole (30_encoding.md R270) -/

theorem checkWhole_ok (h : (s.segs.get k).check s.prot off.toNat n w = .ok) : checkWhole k off n w s = .ok () s := by
  simp only [checkWhole, checkVia, op_get_bind, h, op_pure]

theorem checkWhole_violation (h : (s.segs.get k).check s.prot off.toNat n w = .violation) :
    checkWhole k off n w s = .error (.exc ⟨if k = .ss then 12 else 13, some 0⟩) s := by
  simp only [checkWhole, checkVia, op_get_bind, h]
  cases k <;> rfl

/-! ## MOV of segment registers, LES, LDS, LSS, LFS, LGS -/

/-- MOV to a segment register other than CS (R586, R592). -/
theorem exec_movToSreg {rm : RM} {p : Place} {sel : BitVec 16} (hlock : s.pfx.lock = false) (hk : k ≠ .cs)
    (hop : s.operand .w rm false p sel t) (hload : loadSeg k sel t = .ok () u) :
    exec (.movToSreg (.reg k) rm) s = completes s (u.shadowed k) := by
  have hrun : (do let sel ← readRM .w rm; loadSeg k sel; shadowSs k) s = .ok () (u.shadowed k) :=
    (op_bind_ok (readRM_operand hop)).trans ((op_bind_ok hload).trans (shadowSs_run k u))
  cases k with
  | cs => exact absurd rfl hk
  | es | ss | ds | fs | gs => exact run_unlocked hlock hrun

theorem memOperand_mem (m : MemOp) (s : State) :
    memOperand (.mem m) s = .ok (s.segFor m.defaultSeg, m.ea s.regs, m.is32) s := rfl

/-- A pointer load tests the limit of the whole operand first (R590, R270). -/
theorem loadPointer_violation {r : Reg} {m : MemOp}
    (h : (s.segs.get (s.segFor m.defaultSeg)).check s.prot (m.ea s.regs).toNat (s.ow.bytes + 2) false = .violation) :
    loadPointer k r (.mem m) s = .error (.exc ⟨if s.segFor m.defaultSeg = .ss then 12 else 13, some 0⟩) s :=
  (op_get_bind _ s).trans ((op_bind_ok (memOperand_mem m s)).trans (op_bind_error (checkWhole_violation h)))

theorem loadPointer_ok {r : Reg} {m : MemOp}
    (hwhole : (s.segs.get (s.segFor m.defaultSeg)).check s.prot (m.ea s.regs).toNat (s.ow.bytes + 2) false = .ok)
    (hlo : prepare (s.segFor m.defaultSeg) (m.ea s.regs) s.ow.bytes false s = .ok x t1)
    (hhi : prepare (s.segFor m.defaultSeg) (m.ea s.regs + BitVec.ofNat 32 s.ow.bytes) 2 false t1 = .ok y t2)
    (hload : loadSeg k (BitVec.ofNat 16 (y.value (x.seen t2))) (y.seen (x.seen t2)) = .ok () u) :
    loadPointer k r (.mem m) s = .ok () (u.setReg s.ow r (BitVec.ofNat _ (x.value t2))) := by
  refine (op_get_bind _ s).trans ((op_bind_ok (memOperand_mem m s)).trans ?_)
  refine (op_bind_ok (checkWhole_ok hwhole)).trans ((op_bind_ok (readParts_ok hlo hhi)).trans ?_)
  exact op_bind_ok hload

/-- Settles O52: what is #UD is so before an operand is read; the rest is the operand's read or write and, for a load,
`loadSeg`, whose answer the hypotheses name. -/
theorem segmentMoves : Obligations.SegmentMoves := by
  intro s t t1 t2 u k p sel r q rm m x y hlock n seg ea whole
  have ud {op : Op Unit} (h : op s = .error (.exc ⟨6, none⟩) s) : run false op s = faults s 6 none :=
    run_faults (lock_free hlock) (by decide) h
  refine ⟨exec_movToSreg hlock, ud rfl, ?_, run_unlocked hlock rfl, fun hp => run_unlocked hlock (writeRM_ok hp), ?_⟩
  · rintro z (rfl | rfl)
    · exact ⟨ud rfl, ud rfl⟩
    · exact ⟨ud rfl, ud rfl⟩
  · intro i j hij
    have hexec (rm : RM) : exec (j r rm) s = run false (loadPointer i r rm) s := by
      simp only [List.mem_cons, List.not_mem_nil, or_false, Prod.mk.injEq] at hij
      rcases hij with ⟨rfl, rfl⟩ | ⟨rfl, rfl⟩ | ⟨rfl, rfl⟩ | ⟨rfl, rfl⟩ | ⟨rfl, rfl⟩ <;> rfl
    rw [hexec, hexec]
    refine ⟨ud rfl, fun hwhole => ?_, fun hwhole hlo hhi hload => ?_⟩
    · exact run_faults (lock_free hlock) (by split <;> decide) (loadPointer_violation hwhole)
    · exact run_unlocked hlock (loadPointer_ok hwhole hlo hhi hload)

/-! ## LEA, XLATB and effective addresses -/

/-- XLATB: one byte at (E)BX plus AL (R645). -/
theorem exec_xlatb (hlock : s.pfx.lock = false)
    (h : prepare (s.segFor .ds)
      (eaAdd s.as32 ((s.reg s.aw .ebx).setWidth 32) (((s.reg .b .eax : BitVec 8)).setWidth 32)) 1 false s = .ok x t) :
    exec .xlatb s = completes s ((x.seen t).setReg .b .eax (BitVec.ofNat 8 (x.value t))) :=
  run_unlocked hlock (op_bind_ok (memRead_ok h))

/-- A 16-bit sum of two words of registers, zero-extended, is their numbers' sum modulo 2^16 (R271). -/
theorem word_sum (a b : Dword) (d : Disp16) :
    (a.extractLsb' 0 16 + b.extractLsb' 0 16 + d.val).setWidth 32 =
      BitVec.ofNat 32 ((a.toNat + b.toNat + d.val.toNat) % 65536) := by
  apply BitVec.eq_of_toNat_eq
  simp only [BitVec.toNat_setWidth, BitVec.toNat_add, BitVec.extractLsb'_toNat, BitVec.toNat_ofNat, Nat.shiftRight_zero]
  omega

theorem word_sum_zero (a : Dword) (d : Disp16) :
    (a.extractLsb' 0 16 + d.val).setWidth 32 =
      BitVec.ofNat 32 ((a.toNat + (0 : Dword).toNat + d.val.toNat) % 65536) := by
  rw [← word_sum a 0 d]
  simp

/-- The displacement's number (R271). -/
theorem disp16_toNat (d : Disp16) : (match d with
    | .none => 0
    | .d8 v => (v.signExtend 16).toNat
    | .d16 v => v.toNat) = d.val.toNat := by cases d <;> rfl

theorem disp32_val (d : Disp32) : (match d with
    | .none => 0
    | .d8 v => v.signExtend 32
    | .d32 v => v) = d.val := by cases d <;> rfl

/-- The scale is a power of 2 (R273). -/
theorem indexVal_of_ne {i : Reg} (h : i ≠ .esp) (sc : BitVec 2) (g : Regs) :
    indexVal sc i g = g.get i * BitVec.ofNat 32 (2 ^ sc.toNat) := by
  rw [indexVal, if_neg h, BitVec.shiftLeft_eq_mul_twoPow]
  congr 1
  apply BitVec.eq_of_toNat_eq
  rw [BitVec.toNat_twoPow, BitVec.toNat_ofNat]

theorem indexVal_esp (sc : BitVec 2) (g : Regs) : indexVal sc .esp g = 0 := if_pos rfl

/-- Settles O31: a word of a register is its number modulo 2^16, a scaled index its multiple by a power of 2; the
default segment is read off the base. -/
theorem addressResult : Obligations.AddressResult := by
  refine ⟨fun s r q m hlock => ⟨run_unlocked hlock rfl, run_faults (lock_free hlock) (by decide) rfl, fun x t h => ?_⟩,
    fun g d d16 => ?_, fun g b i sc d d32 => ?_⟩
  · exact exec_xlatb hlock h
  · intro k sum
    have hk : d.val.toNat = k := (disp16_toNat d).symm
    have two (a b : Dword) : (a.extractLsb' 0 16 + b.extractLsb' 0 16 + d.val).setWidth 32 = sum a b :=
      by rw [word_sum, hk]
    have one (a : Dword) : (a.extractLsb' 0 16 + d.val).setWidth 32 = sum a 0 := by rw [word_sum_zero, hk]
    refine ⟨two _ _, two _ _, two _ _, two _ _, one _, one _, one _, one _, ?_, rfl, ?_⟩
    · exact (BitVec.ofNat_toNat 32 d16).symm
    · intro b
      cases b <;> rfl
  · intro k scaled seg
    have hk : d.val = k := (disp32_val d).symm
    refine ⟨rfl, hk ▸ rfl, fun hi => ⟨?_, ?_⟩, ?_, ?_, rfl, ?_, ?_, rfl⟩
    · rw [MemOp.ea, indexVal_of_ne hi, hk]
    · rw [MemOp.ea, indexVal_of_ne hi]
    · rw [MemOp.ea, indexVal_esp, hk, add_zero]
    · rw [MemOp.ea, indexVal_esp, zero_add]
    · cases b <;> rfl
    · cases b <;> rfl

end Sys2Proof.Machine
end

section
namespace Sys2Proof.Machine

/-! # Frames: ENTER, LEAVE, BOUND -/

variable {s t t1 t2 u : State} {x y : Ref} {k seg : Sreg} {off : Dword} {n : Nat} {w : Bool}

/-! ## ENTER's display -/

/-- The place of the i-th item of n bytes below a stack offset, modulo the stack-address size. -/
def spDown (big : Bool) (sp : Dword) (n i : Nat) : Dword := spAdd big sp (0 - BitVec.ofNat 32 (i * n))

theorem spDown_one (big : Bool) (sp : Dword) (n : Nat) : spDown big sp n 1 = spAdd big sp (0 - BitVec.ofNat 32 n) := by
  rw [spDown, Nat.one_mul]

theorem spDown_spDown_one (big : Bool) (sp : Dword) (n i : Nat) :
    spDown big (spDown big sp n 1) n i = spDown big sp n (i + 1) := by
  rw [spDown_one, spDown, spDown, spAdd_spAdd, Nat.succ_mul, BitVec.ofNat_add]
  congr 1
  ring

/-- An offset that a move has cut to the stack-address size is not changed by a move of 0. -/
theorem spAdd_spAdd_zero (big : Bool) (sp a : Dword) : spAdd big (spAdd big sp a) 0 = spAdd big sp a := by
  rw [spAdd_spAdd, add_zero]

theorem prepareDisplay_succ {big : Bool} {j : Nat} {bp sp : Dword} {l : List FrameStep} {ends : Dword × Dword}
    (h : prepareDisplay big n (j + 1) bp sp s = .ok (l, ends) t) :
    ∃ src dst l' u v, prepare .ss (spDown big bp n 1) n false s = .ok src u ∧
      prepare .ss (spDown big sp n 1) n true u = .ok dst v ∧
      prepareDisplay big n j (spDown big bp n 1) (spDown big sp n 1) v = .ok (l', ends) t ∧
      l = .copy src dst :: l' := by
  rw [spDown_one, spDown_one]
  obtain ⟨src, u, hsrc, h⟩ := op_bind_eq_ok h
  obtain ⟨dst, v, hdst, h⟩ := op_bind_eq_ok h
  obtain ⟨⟨l', _⟩, _, hrest, h⟩ := op_bind_eq_ok h
  cases h
  exact ⟨src, dst, l', u, v, hsrc, hdst, hrest, rfl⟩

/-- A copy of a display pointer: n bytes from below bp to below sp. -/
def CopiesBelow (base : Dword) (big : Bool) (bp sp : Dword) (n i : Nat) (o : Option FrameStep) : Prop :=
  ∃ src dst : Ref, o = some (.copy src dst) ∧ src.n = n ∧ dst.n = n ∧
    src.lin = base + spDown big bp n i ∧ dst.lin = base + spDown big sp n i

theorem prepareDisplay_extent {big : Bool} : ∀ {j : Nat} {bp sp : Dword} {s : State} {l : List FrameStep}
    {bpEnd spEnd : Dword}, spAdd big bp 0 = bp → spAdd big sp 0 = sp →
    prepareDisplay big n j bp sp s = .ok (l, bpEnd, spEnd) t →
    bpEnd = spDown big bp n j ∧ spEnd = spDown big sp n j ∧ l.length = j ∧
      ∀ i, i < j → CopiesBelow s.segs.ss.base big bp sp n (i + 1) l[i]?
  | 0, bp, sp, _, _, _, _, hbp, hsp, h => by
    cases h
    refine ⟨?_, ?_, rfl, fun i hi => absurd hi (Nat.not_lt_zero i)⟩
    · simpa [spDown] using hbp.symm
    · simpa [spDown] using hsp.symm
  | j + 1, bp, sp, s, _, _, _, hbp, hsp, h => by
    obtain ⟨src, dst, l', u, v, hsrc, hdst, hrest, rfl⟩ := prepareDisplay_succ h
    obtain ⟨hbpEnd, hspEnd, hlen, hall⟩ :=
      prepareDisplay_extent (bp := spDown big bp n 1) (sp := spDown big sp n 1) (spAdd_spAdd_zero big bp _)
        (spAdd_spAdd_zero big sp _) hrest
    have hu : u.segs = s.segs := (prepare_ok hsrc).accessed.segs
    have hv : v.segs = s.segs := (prepare_ok hdst).accessed.segs.trans hu
    rw [spDown_spDown_one] at hbpEnd hspEnd
    refine ⟨hbpEnd, hspEnd, congrArg (· + 1) hlen, fun i hi => ?_⟩
    cases i with
    | zero =>
      obtain ⟨hsrcLin, hsrcN⟩ := prepareVia_extent hsrc
      obtain ⟨hdstLin, hdstN⟩ := prepareVia_extent hdst
      rw [hu] at hdstLin
      exact ⟨src, dst, rfl, hsrcN, hdstN, hsrcLin, hdstLin⟩
    | succ i =>
      rw [hv] at hall
      simpa [CopiesBelow, spDown_spDown_one] using hall i (Nat.lt_of_succ_lt_succ hi)

/-! ## ENTER -/

@[simp] theorem makeFrame_run : ∀ (l : List FrameStep) (s : State), makeFrame l s = .ok () (framed l s)
  | [], _ => rfl
  | .copy src dst :: l, s => by
    rw [makeFrame, op_bind_ok (readRef_run src s), op_bind_ok (writeRef_run dst _ _), makeFrame_run l]
    rfl
  | .store dst v :: l, s => by
    rw [makeFrame, op_bind_ok (writeRef_run dst _ _), makeFrame_run l]
    rfl

/-- The registers ENTER leaves once the frame is built (R641). -/
def State.enters (t : State) (big : Bool) (k : Width) (bpEnd frame spEnd : Dword) (size : BitVec 16) : State :=
  ((if big then t.setReg .d .ebp bpEnd else t).setReg k .ebp (frame.setWidth _)).setSp
    (spAdd big spEnd (0 - size.setWidth 32))

theorem enter_end (big : Bool) (k : Width) (bpEnd frame spEnd : Dword) (size : BitVec 16) (t : State) :
    (if big then do
      setReg .d .ebp bpEnd
      setReg k .ebp (frame.setWidth _)
      modify fun t => t.setSp (spAdd big spEnd (0 - size.setWidth 32))
    else do
      setReg k .ebp (frame.setWidth _)
      modify fun t => t.setSp (spAdd big spEnd (0 - size.setWidth 32)) : Op Unit) t
      = .ok () (t.enters big k bpEnd frame spEnd size) := by
  cases big <;> rfl

section
variable {size : BitVec 16} {level : BitVec 8} {first last : Ref} {display : List FrameStep} {bpEnd sp : Dword}
  {l : List FrameStep} {t3 : State}
variable (hlock : s.pfx.lock = false) (hfirst : prepare .ss (s.below s.ow.bytes) s.ow.bytes true s = .ok first t1)
  (hdisplay : prepareDisplay s.segs.ss.attr.db s.ow.bytes (level.toNat % 32 - 1)
    (if s.segs.ss.attr.db then s.regs.ebp else s.regs.ebp &&& 0xFFFF) (s.below s.ow.bytes) t1
    = .ok (display, bpEnd, sp) t2)
include hlock hfirst hdisplay

theorem exec_enter_zero (hlv : level.toNat % 32 = 0) :
    exec (.enter size level) s = completes s
      ((framed (.store first (s.reg s.ow .ebp).toNat :: display) t2).enters s.segs.ss.attr.db s.ow bpEnd
        (s.below s.ow.bytes) sp size) := by
  refine run_unlocked hlock ((op_bind_ok hfirst).trans ((op_bind_ok hdisplay).trans ?_))
  refine (congrFun (if_pos hlv) t2).trans ((op_bind_ok (op_pure [] t2)).trans ?_)
  refine (op_bind_ok (makeFrame_run _ _)).trans ?_
  rw [if_pos hlv, List.append_nil]
  exact enter_end _ _ _ _ _ _ _

theorem exec_enter_succ (hlv : level.toNat % 32 ≠ 0)
    (hlast : prepare .ss (spAdd s.segs.ss.attr.db sp (0 - BitVec.ofNat 32 s.ow.bytes)) s.ow.bytes true t2
      = .ok last t3) :
    exec (.enter size level) s = completes s
      ((framed (.store first (s.reg s.ow .ebp).toNat :: display ++
        [.store last ((s.below s.ow.bytes).toNat % 256 ^ s.ow.bytes)]) t3).enters s.segs.ss.attr.db s.ow bpEnd
        (s.below s.ow.bytes) (spAdd s.segs.ss.attr.db sp (0 - BitVec.ofNat 32 s.ow.bytes)) size) := by
  refine run_unlocked hlock ((op_bind_ok hfirst).trans ((op_bind_ok hdisplay).trans ?_))
  refine (congrFun (if_neg hlv) t2).trans ((op_bind_ok hlast).trans ((op_bind_ok (op_pure _ _)).trans ?_))
  refine (op_bind_ok (makeFrame_run _ _)).trans ?_
  rw [if_neg hlv]
  exact enter_end _ _ _ _ _ _ _

end

/-! ## BOUND -/

theorem exec_bound {r : Reg} {m : MemOp} {lo hi : Ref} (hlock : s.pfx.lock = false)
    (hlo : prepare (s.segFor m.defaultSeg) (m.ea s.regs) s.ow.bytes false s = .ok lo t1)
    (hhi : prepare (s.segFor m.defaultSeg) (eaAdd m.is32 (m.ea s.regs) (BitVec.ofNat 32 s.ow.bytes)) s.ow.bytes false t1
      = .ok hi t2) :
    exec (.bound r (.mem m)) s =
      if (BitVec.ofNat s.ow.bits (lo.value t2)).toInt ≤ (s.reg s.ow r).toInt ∧
          (s.reg s.ow r).toInt ≤ (BitVec.ofNat s.ow.bits (hi.value (lo.seen t2))).toInt
        then completes s (hi.seen (lo.seen t2))
        else deliver (faultEvent ⟨5, none⟩ s.eip) (s.rollback (hi.seen (lo.seen t2))) := by
  have hparts {f : Nat × Nat → Op Unit} := op_bind_ok (f := f) (readParts_ok hlo hhi)
  split
  · refine run_unlocked hlock ((op_bind_ok (memOperand_mem m s)).trans (hparts.trans ?_))
    exact congrFun (if_neg (by omega)) _
  · refine run_exc (lock_free hlock) ((op_bind_ok (memOperand_mem m s)).trans (hparts.trans ?_))
    exact congrFun (if_pos (by omega)) _

theorem exec_bound_reg {r q : Reg} (hlock : s.pfx.lock = false) : exec (.bound r (.reg q)) s = faults s 6 none :=
  run_faults (lock_free hlock) (by decide) rfl

/-! ## LEAVE -/

theorem exec_leave (hlock : s.pfx.lock = false)
    (h : prepare .ss (if s.segs.ss.attr.db then s.regs.ebp else s.regs.ebp &&& 0xFFFF) s.ow.bytes false s = .ok x t) :
    exec .leave s = completes s (((x.seen t).setSp (spAdd s.segs.ss.attr.db
      (if s.segs.ss.attr.db then s.regs.ebp else s.regs.ebp &&& 0xFFFF) (BitVec.ofNat 32 s.ow.bytes))).setReg s.ow .ebp
      (BitVec.ofNat _ (x.value t))) :=
  run_unlocked hlock (op_bind_ok (memRead_ok h))

/-- (E)BP as a stack offset has no bits beyond the stack-address size. -/
theorem spAdd_bp (big : Bool) (v : Dword) :
    spAdd big (if big then v else v &&& 0xFFFF) 0 = if big then v else v &&& 0xFFFF := by
  cases big
  · simp [spAdd, BitVec.and_assoc]
  · simp [spAdd]

/-- Settles O32: the display's copies lie one below the other (`prepareDisplay_extent`); the frame is then made of what
is prepared. -/
theorem frameResult : Obligations.FrameResult := by
  refine ⟨⟨?_, fun s t x hlock => exec_leave hlock⟩, fun r q m s t1 t2 lo hi hlock => ?_⟩
  · intro size level s t1 t2 first display bpEnd sp hlock n big frame lv bp old built hfirst hdisplay
    refine ⟨?_, fun hlv => ?_, ?_⟩
    · obtain ⟨hbpEnd, hspEnd, hlen, hall⟩ := prepareDisplay_extent (bp := bp) (spAdd_bp big _)
        (spAdd_spAdd_zero big _ _) hdisplay
      rw [(prepare_ok hfirst).accessed.segs] at hall
      rw [spDown, Nat.mul_comm] at hbpEnd hspEnd
      exact ⟨hbpEnd, hspEnd, hlen, hall⟩
    · have hdisplay' : prepareDisplay big n 0 bp frame t1 = .ok (display, bpEnd, sp) t2 := by
        rw [← hdisplay, hlv]
      injection hdisplay' with hends
      injection hends with hdisp hends
      injection hends with _ hsp
      rw [exec_enter_zero hlock hfirst hdisplay hlv, ← hdisp, ← hsp] <;> rfl
    · intro last t3 top hlv hlast
      exact exec_enter_succ hlock hfirst hdisplay hlv hlast
  · exact ⟨exec_bound_reg hlock, exec_bound hlock⟩

end Sys2Proof.Machine
end

section
namespace Sys2Proof.Machine

/-! # ARPL, LAR, LSL, VERR, VERW -/

variable {s t u : State} {rm : RM} {r : Reg} {p : Place} {sel : BitVec 16} {o : Option Desc} {d : Desc}
  {kind : Desc → Bool}

/-! ## The only exception of a read by the processor itself is a page fault -/

/-- An exception of an operation is a page fault (22_paging.md R220). -/
def OnlyPageFaults {α : Type} (x : Op α) : Prop := ∀ s e u, x s = .error (.exc e) u → e.vector = 14

namespace OnlyPageFaults
variable {α β : Type}

theorem of_ok {x : Op α} {f : State → α} {g : State → State} (h : ∀ s, x s = .ok (f s) (g s)) : OnlyPageFaults x :=
  fun s e u he => by rw [h] at he; cases he

theorem pure {a : α} : OnlyPageFaults (Pure.pure a : Op α) := .of_ok (op_pure a)

theorem get : OnlyPageFaults (MonadState.get : Op State) := .of_ok fun _ => rfl

theorem update {f : State → State} : OnlyPageFaults (modify f : Op Unit) := .of_ok (op_modify f)

theorem fresh : OnlyPageFaults Machine.fresh := .of_ok fresh_run

theorem fault {f : Fault} : OnlyPageFaults (throw (.fault f) : Op α) := fun _ _ _ => nofun

theorem bind {x : Op α} {f : α → Op β} (hx : OnlyPageFaults x) (hf : ∀ {a}, OnlyPageFaults (f a)) :
    OnlyPageFaults (x >>= f) :=
  fun s e u h => (op_bind_eq_error h).elim (hx s e u) fun ⟨_, v, _, hfv⟩ => hf v e u hfv

theorem ite {c : Prop} [Decidable c] {x y : Op α} (hx : OnlyPageFaults x) (hy : OnlyPageFaults y) :
    OnlyPageFaults (if c then x else y) := by
  split <;> assumption

theorem raisePF {fa : Dword} {w p : Bool} : OnlyPageFaults (Machine.raisePF fa w p : Op α) := fun _ _ _ h => by
  cases h
  rfl

theorem probeWalk {la fa : Dword} {w u : Bool} : OnlyPageFaults (Machine.probeWalk la fa w u) := fun s => by
  unfold Machine.probeWalk
  cases s.walk la w u with
  | notPresent => exact raisePF (α := Piece) (fa := fa) (w := w) (p := false) _
  | protection => exact raisePF (α := Piece) (fa := fa) (w := w) (p := true) _
  | ok => exact fun _ _ => nofun

theorem probePage {la fa : Dword} {w u : Bool} : OnlyPageFaults (Machine.probePage la fa w u) :=
  .bind .get <| .ite .pure <| by
    dsimp only
    split
    · exact .probeWalk
    · exact .bind .fresh <| .ite (.ite .pure .probeWalk) <| .bind .update .probeWalk
    · exact .fault

theorem probe {lin : Dword} {n : Nat} {w u : Bool} : OnlyPageFaults (Machine.probe lin n w u) :=
  .ite (.bind .probePage .pure) <| .bind .get <|
    .ite (.bind .probePage <| .bind .probePage .pure) <|
      .bind .fresh <| .ite (.bind .probePage <| .bind .probePage .pure) <| .bind .probePage <| .bind .probePage .pure

theorem linRead {lin : Dword} {n : Nat} : OnlyPageFaults (Machine.linRead lin n) :=
  .bind .probe <| .bind (.of_ok (touchRef_run _ false)) (.of_ok fun _ => rfl)

theorem inspect : OnlyPageFaults (Machine.inspect sel) :=
  .ite .pure <| .bind .get <| by
    intro s
    split
    · exact .pure
    · exact .bind (.bind .linRead .pure) .pure

end OnlyPageFaults

/-! ## The look-up (49_system_misc.md R612) -/

theorem descAddr_none (h : (sel.getLsbD 2 = true ∧ s.ldtr.null = true) ∨
    (if sel.getLsbD 2 then s.ldtr.limit.toNat else s.gdtr.limit.toNat) < 8 * (sel >>> 3).toNat + 7) :
    s.descAddr sel = none := by
  rw [State.descAddr, selOffset_eq]
  exact if_pos (by simpa [selTI] using h)

theorem descAddr_some (h : ¬ ((sel.getLsbD 2 = true ∧ s.ldtr.null = true) ∨
    (if sel.getLsbD 2 then s.ldtr.limit.toNat else s.gdtr.limit.toNat) < 8 * (sel >>> 3).toNat + 7)) :
    s.descAddr sel = some ((if sel.getLsbD 2 then s.ldtr.base else s.gdtr.base) +
      BitVec.ofNat 32 (8 * (sel >>> 3).toNat)) := by
  rw [State.descAddr, selOffset_eq]
  exact if_neg (by simpa [selTI] using h)

theorem inspect_null (h : isNull sel = true) : inspect sel s = .ok none s := by rw [inspect_run, if_pos h]

theorem inspect_absent (h : s.descAddr sel = none) : inspect sel s = .ok none s := by
  rw [inspect_run, h, ite_self]

section
variable {lin : Dword} (hnull : ¬ isNull sel = true) (h : s.descAddr sel = some lin)
include hnull h

theorem inspect_read (hd : descRead lin s = .ok d u) : inspect sel s = .ok (some d) u := by
  simp only [inspect_run, if_neg hnull, h, hd]

theorem inspect_stop {e : Stop} (he : descRead lin s = .error e u) : inspect sel s = .error e u := by
  simp only [inspect_run, if_neg hnull, h, he]

end

/-- Reachable from CPL and RPL (R612, D56). -/
theorem reachable_eq (cpl : BitVec 2) (sel : BitVec 16) (d : Desc) : reachable cpl sel d =
    (d.isConforming || (decide (cpl.toNat ≤ d.dpl.toNat) && decide ((rpl sel).toNat ≤ d.dpl.toNat))) := by
  rw [reachable, ← Bool.decide_and]
  congr 2
  rw [← Nat.not_lt, lt_maxLevel_iff, not_not]

theorem okForLsl_eq (d : Desc) : d.okForLsl = (d.isSeg || d.type ∈ [1#5, 2#5, 3#5, 9#5, 11#5]) := by
  rw [Desc.okForLsl, Desc.isTss, Desc.isLdt, Bool.or_assoc]
  congr 1
  generalize d.type = k
  decide +revert

theorem okForLar_eq (d : Desc) :
    d.okForLar = (d.isSeg || d.type ∈ [1#5, 2#5, 3#5, 4#5, 5#5, 9#5, 11#5, 12#5]) := by
  rw [Desc.okForLar, okForLsl_eq, Desc.isCallGate, Desc.isTaskGate, Bool.or_assoc, Bool.or_assoc]
  congr 1
  generalize d.type = k
  decide +revert

theorem visible_ok (hprot : s.prot = true) (hop : s.operand .w rm false p sel t) (hin : inspect sel t = .ok o u) :
    visible rm kind s = .ok (o.filter fun d => kind d && (d.isConforming ||
      (decide (s.cpl.toNat ≤ d.dpl.toNat) && decide ((rpl sel).toNat ≤ d.dpl.toNat)))) u := by
  have hcpl : t.cpl = s.cpl := (accessed_operand hop).cpl
  simp only [← reachable_eq, ← hcpl]
  refine (op_bind_ok (requireProtected_ok hprot)).trans ((op_bind_ok (readRM_operand hop)).trans ?_)
  exact (op_get_bind _ t).trans (op_bind_ok hin)

theorem visible_stop {e : Stop} (hprot : s.prot = true) (hop : s.operand .w rm false p sel t)
    (hin : inspect sel t = .error e u) : visible rm kind s = .error e u :=
  (op_bind_ok (requireProtected_ok hprot)).trans
    ((op_bind_ok (readRM_operand hop)).trans ((op_get_bind _ t).trans (op_bind_error hin)))

/-- A look-up begins with the test of the mode. -/
theorem visible_unprotected (hprot : s.prot = false) : visible rm kind s = .error (.exc ⟨6, none⟩) s :=
  op_bind_error (requireProtected_ud hprot)

/-! ## The instructions -/

/-- LAR, LSL, VERR and VERW are a look-up and what is made of it. -/
theorem exec_lookup : ∀ i, i ∈ [Instr.lar r rm, .lsl r rm, .verr rm, .verw rm] →
    ∃ kind k, exec i s = run false (visible rm kind >>= k) s := by
  intro i hi
  simp only [List.mem_cons, List.not_mem_nil, or_false] at hi
  rcases hi with rfl | rfl | rfl | rfl <;> exact ⟨_, _, rfl⟩

section
variable (hlock : s.pfx.lock = false)
include hlock

theorem selectorChecks_unprotected (hprot : s.prot = false) :
    ∀ i, i ∈ [Instr.arpl rm r, .lar r rm, .lsl r rm, .verr rm, .verw rm] → exec i s = faults s 6 none := by
  intro i hi
  rcases List.mem_cons.1 hi with rfl | hi
  · exact run_unprotected hlock hprot
  · obtain ⟨kind, k, hexec⟩ := exec_lookup (s := s) i hi
    rw [hexec]
    exact run_faults (lock_free hlock) (by decide) (op_bind_error (visible_unprotected hprot))

theorem exec_lookup_stop {x : Exn} (hprot : s.prot = true) (hop : s.operand .w rm false p sel t)
    (hin : inspect sel t = .error (.exc x) u) :
    ∀ i, i ∈ [Instr.lar r rm, .lsl r rm, .verr rm, .verw rm] →
      exec i s = deliver (faultEvent x s.eip) (s.rollback u) := by
  intro i hi
  have hpf : x.vector = 14 := OnlyPageFaults.inspect t x u hin
  obtain ⟨kind, k, hexec⟩ := exec_lookup (s := s) i hi
  rw [hexec, run_exc (lock_free hlock) (op_bind_error (visible_stop hprot hop hin)), State.undone,
    if_neg fun h => absurd (hpf.symm.trans h.1) (by decide)]

theorem exec_arpl (hprot : s.prot = true) (hop : s.operand .w rm true p sel t) :
    let src : BitVec 16 := s.reg .w r
    let raised : BitVec 16 := (sel &&& 0xFFFC) ||| (rpl src).setWidth 16
    exec (.arpl rm r) s = if (rpl sel).toNat < (rpl src).toNat
      then completes s ((p.put .w raised t).setFlag 6 true)
      else completes s (t.setFlag 6 false) := by
  intro src raised
  obtain ⟨t', hplace, rfl, rfl⟩ := hop
  split
  · refine run_protected hlock hprot ((op_bind_ok hplace).trans ((op_bind_ok (readPlace_run .w p t')).trans ?_))
    exact (congrFun (if_pos ‹_›) _).trans (op_bind_ok (writePlace_run _ p _ _))
  · refine run_protected hlock hprot ((op_bind_ok hplace).trans ((op_bind_ok (readPlace_run .w p t')).trans ?_))
    exact congrFun (if_neg ‹_›) _

theorem exec_verr (h : visible rm Desc.isReadable s = .ok o u) :
    exec (.verr rm) s = completes s (u.setFlag 6 o.isSome) := run_unlocked hlock (op_bind_ok h)

theorem exec_verw (h : visible rm Desc.isWritable s = .ok o u) :
    exec (.verw rm) s = completes s (u.setFlag 6 o.isSome) := run_unlocked hlock (op_bind_ok h)

theorem exec_lsl_none (h : visible rm Desc.okForLsl s = .ok none u) :
    exec (.lsl r rm) s = completes s (u.setFlag 6 false) := run_unlocked hlock (op_bind_ok h)

theorem exec_lsl_some (h : visible rm Desc.okForLsl s = .ok (some d) u) :
    exec (.lsl r rm) s = completes s ((u.setReg s.ow r (d.limit.setWidth _)).setFlag 6 true) :=
  run_unlocked hlock (op_bind_ok h)

theorem exec_lar_none (h : visible rm Desc.okForLar s = .ok none u) :
    exec (.lar r rm) s = completes s (u.setFlag 6 false) := run_unlocked hlock (op_bind_ok h)

theorem exec_lar_some (h : visible rm Desc.okForLar s = .ok (some d) u) :
    exec (.lar r rm) s = completes s ((u.drew.setReg s.ow r
      (((d.hi &&& 0x00F0FF00) ||| (Config.undefDword u.free &&& 0x000F0000)).setWidth _)).setFlag 6 true) :=
  run_unlocked hlock (op_bind_ok h)

end

/-- Settles O53: the five instructions share the test of the mode; four of them share the look-up, whose one access is
`inspect`'s. -/
theorem selectorChecks : Obligations.SelectorChecks := by
  intro s t u rm r p sel o hlock
  refine ⟨selectorChecks_unprotected hlock, exec_arpl hlock, fun hprot hop hin => ?_, fun x hprot hop hin => ?_, ?_⟩
  · intro sees
    have look (kind : Desc → Bool) : visible rm kind s = .ok (sees kind) u := visible_ok hprot hop hin
    refine ⟨exec_verr hlock (look _), exec_verw hlock (look _), ?_, ?_⟩
    · have hlsl := look Desc.okForLsl
      rw [funext okForLsl_eq] at hlsl
      cases h : sees fun d => d.isSeg || d.type ∈ [1#5, 2#5, 3#5, 9#5, 11#5] with
      | none => exact exec_lsl_none hlock (by rw [funext okForLsl_eq, hlsl, h])
      | some d => exact exec_lsl_some hlock (by rw [funext okForLsl_eq, hlsl, h])
    · have hlar := look Desc.okForLar
      rw [funext okForLar_eq] at hlar
      cases h : sees fun d => d.isSeg || d.type ∈ [1#5, 2#5, 3#5, 4#5, 5#5, 9#5, 11#5, 12#5] with
      | none => exact exec_lar_none hlock (by rw [funext okForLar_eq, hlar, h])
      | some d => exact exec_lar_some hlock (by rw [funext okForLar_eq, hlar, h])
  · exact ⟨OnlyPageFaults.inspect t x u hin, exec_lookup_stop hlock hprot hop hin⟩
  · intro index base limit at_ absent
    refine ⟨?_, fun hpresent => ?_⟩
    · rintro (hnull | hnone)
      · exact inspect_null hnull
      · exact inspect_absent (descAddr_none hnone)
    · obtain ⟨hnull, hsome⟩ := not_or.1 hpresent
      have haddr : t.descAddr sel = some at_ := descAddr_some hsome
      exact ⟨fun v hv => inspect_read hnull haddr (descRead_ok hv),
        fun e he => inspect_stop hnull haddr (op_bind_error he),
        fun hpg => inspect_read hnull haddr (descRead_unpaged hpg at_)⟩

end Sys2Proof.Machine
end

section
namespace Sys2Proof.Machine

/-! # MOV of control, debug and test registers -/

variable {s t u : State} {mod : BitVec 2} {n : BitVec 3} {r : Reg} {v : Dword}

/-! ## The tests of the six opcodes, in their order (R628) -/

theorem crExists_iff : crExists n = true ↔ n = 0 ∨ n = 2 ∨ n = 3 := by simp [crExists, or_assoc]

theorem drExists_iff : drExists n = true ↔ n ≠ 4 ∧ n ≠ 5 := by simp [drExists]

theorem trExists_iff : trExists n = true ↔ n = 6 ∨ n = 7 := by simp [trExists]

section
variable {defined : Bool}

theorem specialMove_ud (h : mod ≠ 3 ∨ ¬ defined = true) : specialMove mod defined s = .error (.exc ⟨6, none⟩) s := by
  rw [specialMove, op_ite, op_ite]
  by_cases hmod : mod ≠ 3
  · rw [if_pos hmod, raiseUD_run]
  · rw [if_neg hmod, if_pos (by simpa using h.resolve_left hmod), raiseUD_run]

theorem specialMove_level (hmod : mod = 3) (h : defined = true) : specialMove mod defined s = requireCpl0 s := by
  rw [specialMove, op_ite, op_ite, if_neg (not_not.2 hmod), if_neg (by simp [h])]

variable (hlock : s.pfx.lock = false) {k : Unit → Op Unit}
include hlock

/-- First #UD, then #GP(0). -/
theorem run_specialMove_ordered {P : Prop} (hP : defined = true ↔ P) :
    (mod ≠ 3 ∨ ¬ P → run false (specialMove mod defined >>= k) s = faults s 6 none) ∧
    (mod = 3 → P → s.level ≠ 0 → run false (specialMove mod defined >>= k) s = faults s 13 (some 0)) := by
  rw [← hP]
  refine ⟨fun h => ?_, fun hmod h hlevel => ?_⟩
  · exact run_faults (lock_free hlock) (by decide) (op_bind_error (specialMove_ud h))
  · refine run_faults (lock_free hlock) (by decide) (op_bind_error ?_)
    rw [specialMove_level hmod h, requireCpl0_gp hlevel]

end

section
variable (hlevel : s.level = 0)
include hlevel

theorem specialMove_ok {defined : Bool} (hmod : mod = 3) (h : defined = true) :
    specialMove mod defined s = .ok () s := by
  rw [specialMove_level hmod h, requireCpl0_ok hlevel]

end

/-! ## Control registers (R629, R630) -/

theorem bit_cr0Write (old v : Dword) : bit (cr0Write old v) 0 = bit v 0 ∧ bit (cr0Write old v) 31 = bit v 31 := by
  simp [bit, cr0Write]

/-- CR0 keeps all bits but PG, TS, EM, MP and PE (R56). -/
theorem putCr0_cr0Write (s : State) (v : Dword) (entry : BitVec 2) : s.putCr0 (cr0Write s.cr0 v) entry =
    { s with
      cr0 := (s.cr0 &&& 0x7FFFFFF0) ||| (v &&& 0x8000000F)
      cpl := if bit v 0 = s.pe then s.cpl else if bit v 0 then entry else 0
      queue := if bit v 0 = s.pe ∧ bit v 31 = s.pg then s.queue else []
      tlb := if s.pg = true ∧ bit v 31 = false then s.tlb.retained (Config.tlbRetained s.free) else s.tlb
      free := if s.pg = true ∧ bit v 31 = false then s.free + 1 else s.free } := by
  obtain ⟨h0, h31⟩ := bit_cr0Write s.cr0 v
  simp only [State.putCr0, h0, h31, Bool.and_eq_true, Bool.not_eq_true']
  rfl

theorem crPut_cr0 (v : Dword) (s : State) : crPut 0 v s =
    if bit v 31 = true ∧ bit v 0 = false then .error (.exc ⟨13, some 0⟩) s
    else .ok () (s.putCr0 (cr0Write s.cr0 v) (rpl s.segs.cs.sel)) := by
  rw [crPut, op_ite, if_pos rfl, op_ite]
  simp only [Bool.and_eq_true, Bool.not_eq_true', raiseGP_run, op_modify]

theorem crPut_cr2 (v : Dword) (s : State) : crPut 2 v s = .ok () { s with cr2 := v } := rfl

theorem crPut_cr3 (v : Dword) (s : State) : crPut 3 v s =
    .ok () { s.keepAhead with cr3 := v &&& 0xFFFFF000, tlb := s.keepAhead.tlb.flush } := rfl

/-! ## Debug registers (R631, R632, R836) -/

theorem generalDetect_off (h : bit s.dregs.dr7 13 = false) : generalDetect s = .ok () s := by
  rw [generalDetect, op_get_bind, op_ite, if_neg (by simp [h]), op_pure]

theorem generalDetect_on (h : bit s.dregs.dr7 13 = true) : generalDetect s = .error (.exc ⟨1, none⟩)
    { s with dregs := { s.dregs with dr6 := s.dregs.dr6 ||| 0x2000, dr7 := s.dregs.dr7 &&& 0xFFFFDFFF } } := by
  rw [generalDetect, op_get_bind, op_ite, if_pos h]
  rfl

/-! ## Test registers (R633) -/

theorem trPut_tr6_paged (hpg : s.pg = true) (v : Dword) : trPut 6 v s = .error (.refuse .tlbTestWithPaging) s := by
  rw [trPut, op_get_bind, op_ite, if_neg (by decide), op_ite, if_pos hpg]
  rfl

theorem trPut_tr6 (hpg : s.pg = false) (v : Dword) : trPut 6 v s =
    .ok () ((if bit v 0 then tlbSearchCommand else tlbWriteCommand) v (Config.undefDword s.free)
      { s.drew with tr6 := v }) := by
  rw [trPut, op_get_bind, op_ite, if_neg (by decide), op_ite, if_neg (by simp [hpg]), fresh_bind, op_modify_bind]
  cases bit v 0 <;> rfl

/-! ## The instructions at level 0 -/

section
variable (hlock : s.pfx.lock = false) (hlevel : s.level = 0)
include hlock hlevel

/-- At level 0 the move is made, and the status flags are left undefined. -/
theorem run_specialMove {defined : Bool} {k : Op Unit} (hmod : mod = 3) (h : defined = true) (hk : k s = .ok () t) :
    run false (do specialMove mod defined; k; flagsUndefined) s = completes s t.flagsOpen :=
  run_unlocked hlock
    ((op_bind_ok (specialMove_ok hlevel hmod h)).trans ((op_bind_ok hk).trans (flagsUndefined_run t)))

theorem exec_movFromCr (h : crExists n = true) :
    exec (.movFromCr 3 n r) s = completes s (s.setReg .d r (s.crGet n)).flagsOpen :=
  run_specialMove hlock hlevel rfl h (setReg_run _ _ _ _)

theorem exec_movToCr (h : crExists n = true) (hput : crPut n (s.reg .d r) s = .ok () t) :
    exec (.movToCr 3 n r) s = completes s t.flagsOpen := run_specialMove hlock hlevel rfl h hput

theorem exec_movToCr_gp (h : crExists n = true) (hput : crPut n (s.reg .d r) s = .error (.exc ⟨13, some 0⟩) s) :
    exec (.movToCr 3 n r) s = faults s 13 (some 0) :=
  run_faults (lock_free hlock) (by decide) ((op_bind_ok (specialMove_ok hlevel rfl h)).trans (op_bind_error hput))

/-- MOV CR0: PG without PE is refused. -/
theorem exec_movToCr0 :
    let v : Dword := s.reg .d r
    exec (.movToCr 3 0 r) s = if bit v 31 = true ∧ bit v 0 = false then faults s 13 (some 0)
      else completes s (State.flagsOpen { s with
        cr0 := (s.cr0 &&& 0x7FFFFFF0) ||| (v &&& 0x8000000F)
        cpl := if bit v 0 = s.pe then s.cpl else if bit v 0 then rpl s.segs.cs.sel else 0
        queue := if bit v 0 = s.pe ∧ bit v 31 = s.pg then s.queue else []
        tlb := if s.pg = true ∧ bit v 31 = false then s.tlb.retained (Config.tlbRetained s.free) else s.tlb
        free := if s.pg = true ∧ bit v 31 = false then s.free + 1 else s.free }) := by
  intro v
  have hput := crPut_cr0 v s
  rw [← putCr0_cr0Write s v (rpl s.segs.cs.sel)]
  split
  · exact exec_movToCr_gp hlock hlevel rfl (hput.trans (if_pos ‹_›))
  · exact exec_movToCr hlock hlevel rfl (hput.trans (if_neg ‹_›))

section
variable (hgd : bit s.dregs.dr7 13 = false)
include hgd

theorem exec_movFromDr (h : drExists n = true) :
    exec (.movFromDr 3 n r) s = completes s (s.setReg .d r (s.dregs.get n)).flagsOpen :=
  run_unlocked hlock ((op_bind_ok (specialMove_ok hlevel rfl h)).trans
    ((op_bind_ok (generalDetect_off hgd)).trans (flagsUndefined_run _)))

theorem exec_movToDr (h : drExists n = true) :
    exec (.movToDr 3 n r) s = completes s (State.flagsOpen { s with dregs := s.dregs.set n (s.reg .d r) }) :=
  run_unlocked hlock ((op_bind_ok (specialMove_ok hlevel rfl h)).trans
    ((op_bind_ok (generalDetect_off hgd)).trans (flagsUndefined_run _)))

end

/-- General detect stops both moves of a debug register. -/
theorem run_generalDetect {k : Unit → Op Unit} (hmod : mod = 3) (h : drExists n = true)
    (hgd : bit s.dregs.dr7 13 = true) :
    run false (specialMove mod (drExists n) >>= fun _ => generalDetect >>= k) s =
      deliver (faultEvent ⟨1, none⟩ s.eip) { s with dregs := { s.dregs with
        dr6 := s.dregs.dr6 ||| 0x2000, dr7 := s.dregs.dr7 &&& 0xFFFFDFFF } } := by
  rw [run_exc (lock_free hlock) ((op_bind_ok (specialMove_ok hlevel hmod h)).trans
    (op_bind_error (generalDetect_on hgd))), State.undone, if_neg fun h => absurd h.1 (by decide)]
  rfl

theorem exec_movFromTr (h : trExists n = true) :
    exec (.movFromTr 3 n r) s = completes s (s.setReg .d r (if n = 6 then s.tr6 else s.tr7)).flagsOpen :=
  run_specialMove hlock hlevel rfl h (setReg_run _ _ _ _)

theorem exec_movToTr7 : exec (.movToTr 3 7 r) s = completes s (State.flagsOpen { s with tr7 := s.reg .d r }) :=
  run_specialMove hlock hlevel rfl rfl rfl

theorem exec_movToTr6_paged (hpg : s.pg = true) : exec (.movToTr 3 6 r) s = .refused .tlbTestWithPaging :=
  run_refused hlock ((op_bind_ok (specialMove_ok hlevel rfl rfl)).trans (op_bind_error (trPut_tr6_paged hpg _)))

theorem exec_movToTr6 (hpg : s.pg = false) : exec (.movToTr 3 6 r) s =
    completes s (State.flagsOpen ((if bit (s.reg .d r) 0 then tlbSearchCommand else tlbWriteCommand) (s.reg .d r)
      (Config.undefDword s.free) { s.drew with tr6 := s.reg .d r })) :=
  run_specialMove hlock hlevel rfl rfl (trPut_tr6 hpg _)

end

end Sys2Proof.Machine
end

section
namespace Sys2Proof.Machine

/-! # The TLB commands, and what a write of CR3 keeps of the bytes fetched ahead -/

variable {s t u : State} {mod : BitVec 2} {n : BitVec 3} {r : Reg} {c v : Dword} {k : BitVec 2}

/-! ## Bytes fetched ahead (20_memory.md R139, R140) -/

theorem readAhead_ok {k : Nat} {off pa : Dword} (h : fetchAddress off s = .ok pa t) :
    (readAhead (k + 1) off s).1 = (s.segs.cs.base + off, pa) :: (readAhead k (off + 1) (t.codeFetch pa).2).1 := by
  rw [readAhead, h]

theorem readAhead_error {k : Nat} {off : Dword} {e : Stop} (h : fetchAddress off s = .error e t) :
    (readAhead (k + 1) off s).1 = [] := by
  rw [readAhead, h]

/-- The bytes fetched ahead lie one behind the other. -/
theorem readAhead_extent : ∀ (k : Nat) (off : Dword) (s : State), (readAhead k off s).1.length ≤ k ∧
    ∀ i x, (readAhead k off s).1[i]? = some x → x.1 = s.segs.cs.base + (off + BitVec.ofNat 32 i)
  | 0, _, _ => ⟨Nat.le_refl 0, fun i x h => nomatch h⟩
  | k + 1, off, s => by
    cases hf : fetchAddress off s with
    | error e t =>
      rw [readAhead_error hf]
      exact ⟨Nat.zero_le _, fun i x h => nomatch h⟩
    | ok pa t =>
      have hsegs : (t.codeFetch pa).2.segs = s.segs :=
        ((CodeRead.fetchAddress hf).trans (.codeFetch t pa)).accessed.segs
      obtain ⟨hlen, hall⟩ := readAhead_extent k (off + 1) (t.codeFetch pa).2
      rw [readAhead_ok hf]
      refine ⟨Nat.succ_le_succ hlen, fun i x h => ?_⟩
      cases i with
      | zero =>
        cases h
        exact congrArg (s.segs.cs.base + ·) (add_zero off).symm
      | succ i =>
        rw [hall i x h, hsegs, Nat.add_comm i 1, BitVec.ofNat_add, ← add_assoc off]
        rfl

theorem keepAhead_unpaged (h : s.pg = false) : s.keepAhead = s := if_neg (by simp [h])

theorem keepAhead_paged (h : s.pg = true) :
    s.keepAhead = { (readAhead (Config.prefetchDepth s.free % 17) s.nextEip s.drew).2 with
      queue := (readAhead (Config.prefetchDepth s.free % 17) s.nextEip s.drew).1, flushed := [] } := if_pos h

theorem CodeRead.keepAhead (s : State) : CodeRead s s.keepAhead := by
  cases h : s.pg with
  | false =>
    rw [keepAhead_unpaged h]
    exact .refl s
  | true =>
    rw [keepAhead_paged h]
    exact ((CodeRead.drew s).trans (.readAhead _ _ _)).trans rfl

/-- At most sixteen bytes are kept. -/
theorem keepAhead_queue (h : s.pg = true) : s.keepAhead.queue.length ≤ 16 ∧
    ∀ i (h : i < s.keepAhead.queue.length),
      s.keepAhead.queue[i].1 = s.segs.cs.base + (s.nextEip + BitVec.ofNat 32 i) := by
  obtain ⟨hlen, hall⟩ := readAhead_extent (Config.prefetchDepth s.free % 17) s.nextEip s.drew
  rw [keepAhead_paged h]
  exact ⟨hlen.trans (Nat.le_of_lt_succ (Nat.mod_lt _ (by decide))), fun i hi => hall i _ (List.getElem?_eq_getElem hi)⟩

/-! ## Entries of the TLB -/

theorem Tlb.retained_counter (t : Tlb) (m : BitVec 32) : (t.retained m).counter = t.counter := by rw [Tlb.retained]

theorem Tlb.retained_fetch (t : Tlb) (m : BitVec 32) : (t.retained m).fetch = t.fetch := by rw [Tlb.retained]

theorem Tlb.retained_entry (t : Tlb) (m : BitVec 32) (i : Fin 32) :
    (t.retained m).entries[i] = { t.entries[i] with v := t.entries[i].v && m.getLsbD i.val } := by
  simp [Tlb.retained]

theorem Tlb.put_same (t : Tlb) (page : BitVec 20) (way : BitVec 2) (e : TlbEntry) :
    (t.put page way e).entries[tlbIndex page way] = e := by simp [Tlb.put]

theorem Tlb.put_other (t : Tlb) {page : BitVec 20} {way : BitVec 2} (e : TlbEntry) {i : Fin 32}
    (h : i ≠ tlbIndex page way) : (t.put page way e).entries[i] = t.entries[i] := by
  have hval : (tlbIndex page way).val ≠ i.val := fun h' => h (Fin.ext h'.symm)
  simp [Tlb.put, hval]

/-! ## The write command (22_paging.md R241, R242) -/

theorem tlbAttr_pair (pair : BitVec 2) (b : Bool) :
    (pair = 1 → tlbAttr pair b = false) ∧ (pair = 2 → tlbAttr pair b = true) := by
  constructor <;> rintro rfl <;> rfl

/-- The entry a write command puts into the way chosen. -/
theorem tlbWriteCommand_entry (s : State) (c u : Dword) :
    let page := c.extractLsb' 12 20
    let pair := fun i : Nat => c.extractLsb' i 2
    let t := tlbWriteCommand c u s
    let way := if bit s.tr7 4 then s.tr7.extractLsb' 2 2 else s.tlb.counter + Config.tlbVictim s.free
    let e := t.tlb.entries[tlbIndex page way]
    e.v = bit c 11 ∧ e.tag = page ∧ e.pa = s.tr7.extractLsb' 12 20 ∧
    (∀ i x, (i, x) ∈ [(9, e.d), (7, e.u), (5, e.w)] → (pair i = 1 → x = false) ∧ (pair i = 2 → x = true)) ∧
    (∀ i : Fin 32, i ≠ tlbIndex page way → t.tlb.entries[i] = s.tlb.entries[i]) ∧
    t = { s with tlb := { s.tlb with entries := t.tlb.entries } } := by
  intro page pair t way e
  have he : e = {
      v := bit c 11, tag := page, pa := s.tr7.extractLsb' 12 20
      d := tlbAttr (pair 9) (bit u 0), u := tlbAttr (pair 7) (bit u 1), w := tlbAttr (pair 5) (bit u 2) } :=
    Tlb.put_same s.tlb page way _
  rw [he]
  refine ⟨rfl, rfl, rfl, fun i x hi => ?_, fun i hi => Tlb.put_other s.tlb _ hi, rfl⟩
  simp only [List.mem_cons, List.not_mem_nil, or_false, Prod.mk.injEq] at hi
  rcases hi with ⟨rfl, rfl⟩ | ⟨rfl, rfl⟩ | ⟨rfl, rfl⟩ <;> exact tlbAttr_pair _ _

/-! ## The search command (R241, R243) -/

theorem pairMatches_iff (pair : BitVec 2) (b : Bool) :
    pairMatches pair b = true ↔ pair = 3 ∨ (pair = 1 ∧ b = false) ∨ (pair = 2 ∧ b = true) := by
  decide +revert

theorem mem_searchWays (t : Tlb) (c : Dword) (k : BitVec 2) : k ∈ searchWays t c ↔
    (let e := t.entries[tlbIndex (c.extractLsb' 12 20) k]
     e.tag = c.extractLsb' 12 20 ∧ pairMatches (c.extractLsb' 9 2) e.d = true ∧
       pairMatches (c.extractLsb' 7 2) e.u = true ∧ pairMatches (c.extractLsb' 5 2) e.w = true) := by
  have hall : k ∈ [0#2, 1#2, 2#2, 3#2] := by decide +revert
  simp only [searchWays, List.mem_filter, hall, true_and, Bool.and_eq_true, beq_iff_eq, and_assoc]

theorem searchWays_eq_singleton {t : Tlb} (h : ∀ j, j ∈ searchWays t c ↔ j = k) : searchWays t c = [k] := by
  have hnodup : (searchWays t c).Nodup := List.Nodup.filter _ (by decide)
  refine List.perm_singleton.1 ((List.perm_ext_iff_of_nodup hnodup (List.nodup_singleton k)).2 fun j => ?_)
  rw [h, List.mem_singleton]

theorem tlbSearchCommand_found (u : Dword) (h : searchWays s.tlb c = [k]) : tlbSearchCommand c u s =
    (let e := s.tlb.entries[tlbIndex (c.extractLsb' 12 20) k]
     { s with
      tr7 := e.pa ++ s.tr7.extractLsb' 5 7 ++ 1#1 ++ k ++ s.tr7.extractLsb' 0 2
      tr6 := c.extractLsb' 12 20 ++ BitVec.ofBool e.v ++ pairOf e.d ++ pairOf e.u ++ pairOf e.w
        ++ c.extractLsb' 0 5 }) := by
  rw [tlbSearchCommand, h]

theorem tlbSearchCommand_missed (u : Dword) (h : ∀ k, searchWays s.tlb c ≠ [k]) : tlbSearchCommand c u s =
    { s with tr7 := (u &&& 0xFFFFF00C) ||| (s.tr7 &&& 0xFE3) } := by
  unfold tlbSearchCommand
  split
  · exact absurd ‹_› (h _)
  · rfl

open BitVec in
/-- The fields of TR7 behind a hit. -/
theorem tr7_fields (pa : BitVec 20) (mid : BitVec 7) (way low : BitVec 2) :
    let x := pa ++ mid ++ 1#1 ++ way ++ low
    x.extractLsb' 12 20 = pa ∧ x.extractLsb' 5 7 = mid ∧ x.getLsbD 4 = true ∧ x.extractLsb' 2 2 = way ∧
      x.extractLsb' 0 2 = low := by
  simp (disch := decide) only [extractLsb'_append_eq_of_le, extractLsb'_append_eq_of_add_le, getLsbD_append]
  simp

open BitVec in
/-- The fields of TR6 behind a hit. -/
theorem tr6_fields (page : BitVec 20) (valid : Bool) (d us w : BitVec 2) (low : BitVec 5) :
    let x := page ++ ofBool valid ++ d ++ us ++ w ++ low
    x.extractLsb' 12 20 = page ∧ x.getLsbD 11 = valid ∧ x.extractLsb' 9 2 = d ∧ x.extractLsb' 7 2 = us ∧
      x.extractLsb' 5 2 = w := by
  simp (disch := decide) only [extractLsb'_append_eq_of_le, extractLsb'_append_eq_of_add_le, getLsbD_append]
  simp

/-- The bits of TR7 a miss leaves as written, and PL, which it clears. -/
theorem tr7_missed (free old : Dword) :
    let x := (free &&& 0xFFFFF00C) ||| (old &&& 0xFE3)
    x.extractLsb' 5 7 = old.extractLsb' 5 7 ∧ x.extractLsb' 0 2 = old.extractLsb' 0 2 ∧ bit x 4 = false := by
  intro x
  refine ⟨BitVec.eq_of_getLsbD_eq fun i hi => ?_, BitVec.eq_of_getLsbD_eq fun i hi => ?_, by simp [x, bit]⟩
  · interval_cases i <;> simp [x]
  · interval_cases i <;> simp [x]

/-- What a search command leaves: a hit where one entry alone matches, else no PL. -/
theorem tlbSearchCommand_cases (s : State) (c u : Dword) :
    let page := c.extractLsb' 12 20
    let t := tlbSearchCommand c u s
    let matched := fun (i : Nat) (b : Bool) =>
      let pair := c.extractLsb' i 2
      pair = 3 ∨ (pair = 1 ∧ b = false) ∨ (pair = 2 ∧ b = true)
    let finds := fun k : BitVec 2 =>
      let e := s.tlb.entries[tlbIndex page k]
      e.tag = page ∧ matched 9 e.d ∧ matched 7 e.u ∧ matched 5 e.w
    t = { s with tr6 := t.tr6, tr7 := t.tr7 } ∧
    t.tr7.extractLsb' 5 7 = s.tr7.extractLsb' 5 7 ∧ t.tr7.extractLsb' 0 2 = s.tr7.extractLsb' 0 2 ∧
    (∀ k, finds k → (∀ j, finds j → j = k) →
      let e := s.tlb.entries[tlbIndex page k]
      t.tr7.extractLsb' 12 20 = e.pa ∧ bit t.tr7 4 = true ∧ t.tr7.extractLsb' 2 2 = k ∧
      t.tr6.extractLsb' 12 20 = page ∧ bit t.tr6 11 = e.v ∧
      (∀ i x, (i, x) ∈ [(9, e.d), (7, e.u), (5, e.w)] → t.tr6.extractLsb' i 2 = if x then 2 else 1)) ∧
    ((¬ ∃ k, finds k ∧ ∀ j, finds j → j = k) → bit t.tr7 4 = false ∧ t.tr6 = s.tr6) := by
  intro page t matched finds
  have hfinds (k : BitVec 2) : k ∈ searchWays s.tlb c ↔ finds k := by
    rw [mem_searchWays]
    simp only [pairMatches_iff]
    rfl
  have hone (k : BitVec 2) (h : searchWays s.tlb c = [k]) : finds k ∧ ∀ j, finds j → j = k := by
    simp only [← hfinds, h, List.mem_singleton, true_and]
    exact fun j hj => hj
  by_cases hk : ∃ k, finds k ∧ ∀ j, finds j → j = k
  · obtain ⟨k, hfound, huniq⟩ := hk
    have hways : searchWays s.tlb c = [k] := searchWays_eq_singleton fun j => by
      rw [hfinds]
      exact ⟨huniq j, fun h => h ▸ hfound⟩
    have ht : t = _ := tlbSearchCommand_found u hways
    obtain ⟨h12, h5, h4, h2, h0⟩ := tr7_fields (s.tlb.entries[tlbIndex page k]).pa (s.tr7.extractLsb' 5 7) k
      (s.tr7.extractLsb' 0 2)
    rw [ht]
    refine ⟨rfl, h5, h0, fun j hj _ => ?_, fun hno => absurd ⟨k, hfound, huniq⟩ hno⟩
    obtain rfl := huniq j hj
    intro e
    obtain ⟨g12, g11, g9, g7, g5⟩ := tr6_fields page e.v (pairOf e.d) (pairOf e.u) (pairOf e.w) (c.extractLsb' 0 5)
    refine ⟨h12, h4, h2, g12, g11, fun i x hi => ?_⟩
    simp only [List.mem_cons, List.not_mem_nil, or_false, Prod.mk.injEq] at hi
    rcases hi with ⟨rfl, rfl⟩ | ⟨rfl, rfl⟩ | ⟨rfl, rfl⟩
    exacts [g9, g7, g5]
  · have ht : t = _ := tlbSearchCommand_missed u fun k h => hk ⟨k, hone k h⟩
    obtain ⟨h5, h0, h4⟩ := tr7_missed u s.tr7
    rw [ht]
    exact ⟨rfl, h5, h0, fun k hfound huniq => absurd ⟨k, hfound, huniq⟩ hk, fun _ => ⟨h4, rfl⟩⟩

/-! ## The obligation -/

/-- The debug registers, each with its number, its value and what a write of it leaves (R631). -/
theorem debugRegs_move (d : DebugRegs) (v : Dword) : ∀ i x y, (i, x, y) ∈ [(0#3, d.dr0, { d with dr0 := v }),
      (1#3, d.dr1, { d with dr1 := v }), (2#3, d.dr2, { d with dr2 := v }), (3#3, d.dr3, { d with dr3 := v }),
      (6#3, d.dr6, { d with dr6 := v }), (7#3, d.dr7, { d with dr7 := v })] →
    drExists i = true ∧ d.get i = x ∧ d.set i v = y := by
  intro i x y h
  simp only [List.mem_cons, List.not_mem_nil, or_false, Prod.mk.injEq] at h
  rcases h with ⟨rfl, rfl, rfl⟩ | ⟨rfl, rfl, rfl⟩ | ⟨rfl, rfl, rfl⟩ | ⟨rfl, rfl, rfl⟩ | ⟨rfl, rfl, rfl⟩ |
    ⟨rfl, rfl, rfl⟩ <;> exact ⟨rfl, rfl, rfl⟩

/-- Settles O56: the six opcodes share their tests (`run_specialMove_ordered`); behind them each is one move, and the
commands of TR6 are read off the entries they name. -/
theorem specialRegisters : Obligations.SpecialRegisters := by
  refine ⟨fun s mod n r hlock => ?_, fun s => ⟨keepAhead_unpaged, CodeRead.keepAhead s, keepAhead_queue⟩,
    fun t m i => ⟨t.retained_counter m, t.retained_fetch m, t.retained_entry m i⟩, tlbWriteCommand_entry,
    tlbSearchCommand_cases⟩
  intro cr dr tr v moved ordered loads
  refine ⟨run_specialMove_ordered hlock crExists_iff, run_specialMove_ordered hlock crExists_iff,
    run_specialMove_ordered hlock drExists_iff, run_specialMove_ordered hlock drExists_iff,
    run_specialMove_ordered hlock trExists_iff, run_specialMove_ordered hlock trExists_iff, ?_⟩
  rintro rfl hlevel
  refine ⟨?_, ?_, ?_, fun hdr hgd => ?_, fun hgd => ?_, ?_⟩
  · rintro rfl
    exact ⟨exec_movFromCr hlock hlevel rfl, exec_movToCr0 hlock hlevel⟩
  · rintro rfl
    exact ⟨exec_movFromCr hlock hlevel rfl, exec_movToCr hlock hlevel rfl (crPut_cr2 _ s)⟩
  · rintro rfl
    exact ⟨exec_movFromCr hlock hlevel rfl, exec_movToCr hlock hlevel rfl (crPut_cr3 _ s)⟩
  · have hex := drExists_iff.2 hdr
    exact ⟨run_generalDetect hlock hlevel rfl hex hgd, run_generalDetect hlock hlevel rfl hex hgd⟩
  · intro d i x y hi
    obtain ⟨hex, hget, hset⟩ := debugRegs_move d v i x y hi
    rw [← hget, ← hset]
    exact ⟨exec_movFromDr hlock hlevel hgd hex, exec_movToDr hlock hlevel hgd hex⟩
  · refine ⟨exec_movFromTr hlock hlevel rfl, exec_movFromTr hlock hlevel rfl, exec_movToTr7 hlock hlevel, ?_⟩
    split
    · exact exec_movToTr6_paged hlock hlevel ‹_›
    · exact exec_movToTr6 hlock hlevel (Bool.not_eq_true _ ▸ ‹¬ s.pg = true›)

end Sys2Proof.Machine
end

section
namespace Sys2Proof.Machine

/-! # SCALL, and the instructions reserved for level 0 -/

variable {s t u t1 t2 : State} {r : Reg} {rm : RM} {m : MemOp} {p : Place} {v : Dword} {modrm : Byte} {x y : Ref}

/-! ## The functions of SCALL (R664) -/

theorem scallOk_value (p : Place) (x : Dword) (t : State) :
    scallOk p (some x) t = .ok () (p.put .d x (t.setFlag 0 false)) :=
  (op_bind_ok (setFlagBit_run 0 false t)).trans (writePlace_run .d p x _)

theorem scallFail_run (p : Place) (t : State) :
    scallFail p t = .ok () (p.put .d 0xFFFFFFFF#32 (t.setFlag 0 true)) :=
  (op_bind_ok (setFlagBit_run 0 true t)).trans (writePlace_run .d p _ _)

/-- A function that fails where c holds and else succeeds. -/
theorem scall_guarded {c d : Prop} [Decidable c] [Decidable d] (h : c ↔ ¬ d) (f : State → State) :
    (if c then scallFail p else do
      modify f
      scallOk p none : Op Unit) t =
      .ok () (if d then (f t).setFlag 0 false else p.put .d 0xFFFFFFFF#32 (t.setFlag 0 true)) := by
  rw [op_ite, scallFail_run]
  by_cases hd : d
  · rw [if_neg (by rw [h]; exact not_not.2 hd), if_pos hd]
    rfl
  · rw [if_pos (h.2 hd), if_neg hd]

theorem refused_iff (s : State) : (s.level ≠ 0 || !s.cfg.part.hasIcache) = true ↔
    ¬ (s.level = 0 ∧ s.cfg.part.hasIcache = true) := by
  simp [imp_iff_not_or]

theorem scallFunction_identify : scallFunction s p modrm 0 t =
    .ok () (p.put .d (0#16 ++ s.cfg.stepping ++ s.cfg.part.typeCode) (t.setFlag 0 false)) := scallOk_value _ _ _

/-- Enabling SuperState V, at level 0 only. -/
theorem scallFunction_enable (h : v = 1 ∨ v = 2) : scallFunction s p modrm v t =
    .ok () (if s.level = 0 then (t.enableSsv (v == 2)).setFlag 0 false
      else p.put .d 0xFFFFFFFF#32 (t.setFlag 0 true)) := by
  rcases h with rfl | rfl <;> exact scall_guarded Iff.rfl _

theorem scallFunction_cacheOff : scallFunction s p modrm 4 t =
    .ok () (if s.level = 0 ∧ s.cfg.part.hasIcache = true
      then State.setFlag { t with icache := { t.icache with enabled := false } } 0 false
      else p.put .d 0xFFFFFFFF#32 (t.setFlag 0 true)) := scall_guarded (refused_iff s) _

theorem scallFunction_cacheOn : scallFunction s p modrm 5 t =
    .ok () (if s.level = 0 ∧ s.cfg.part.hasIcache = true
      then State.setFlag { t.drew with icache := t.icache.enable t.free } 0 false
      else p.put .d 0xFFFFFFFF#32 (t.setFlag 0 true)) := scall_guarded (refused_iff s) _

theorem scallFunction_cacheState : scallFunction s p modrm 6 t =
    .ok () (p.put .d (if s.cfg.part.hasIcache = true ∧ s.icache.enabled = true then 1 else 0)
      (t.setFlag 0 false)) := by
  refine (scallOk_value p (if (s.cfg.part.hasIcache && s.icache.enabled) = true then 1 else 0) t).trans ?_
  cases s.cfg.part.hasIcache <;> cases s.icache.enabled <;> rfl

theorem scallFunction_cacheFlush : scallFunction s p modrm 7 t =
    .ok () (if s.cfg.part.hasIcache = true then State.setFlag { t with icache := t.icache.flush } 0 false
      else p.put .d 0xFFFFFFFF#32 (t.setFlag 0 true)) := scall_guarded (by simp) _

theorem bit31_iff (v : Dword) : bit v 31 = true ↔ 2 ^ 31 ≤ v.toNat := by
  rw [show bit v 31 = v.msb from (BitVec.msb_eq_getLsbD_last v).symm, BitVec.msb_eq_decide, decide_eq_true_iff]

theorem scallFunction_fails (h : v = 3 ∨ (8 ≤ v.toNat ∧ v.toNat < 2 ^ 31)) : scallFunction s p modrm v t =
    .ok () (p.put .d 0xFFFFFFFF#32 (t.setFlag 0 true)) := by
  rcases h with rfl | ⟨hlow, hhigh⟩
  · exact scallFail_run p t
  · rw [scallFunction, if_neg (by rw [bit31_iff]; omega)]
    obtain ⟨k, hk⟩ : ∃ k, v.toNat = k + 8 := ⟨v.toNat - 8, by omega⟩
    rw [hk]
    exact scallFail_run p t

theorem scallFunction_enter (h : 2 ^ 31 ≤ v.toNat) : scallFunction s p modrm v t =
    .ok () (if s.ssv.enabled = true
      then t.enterSsv t.nextEip v (t.regs.ebx.extractLsb' 16 16 ++ modrm ++ t.regs.ebx.extractLsb' 0 8)
      else p.put .d 0xFFFFFFFF#32 (t.setFlag 0 true)) := by
  rw [scallFunction, if_pos ((bit31_iff v).2 h)]
  cases s.ssv.enabled with
  | true => rfl
  | false => exact scallFail_run p t

section
variable (hlock : s.pfx.lock = false)
include hlock

theorem exec_scall_absent (h : s.cfg.part.hasSsv = false) : exec (.scall r rm) s = faults s 6 none :=
  run_faults (lock_free hlock) (by decide) (congrFun (if_pos (by rw [h]; rfl)) s)

theorem exec_scall (h : s.cfg.part.hasSsv = true) (hop : s.operand .d rm true p v t)
    (hf : scallFunction s p ((rm.enc r.num).headD 0) v t = .ok () u) : exec (.scall r rm) s = completes s u := by
  obtain ⟨t', hplace, rfl, rfl⟩ := hop
  refine run_unlocked hlock ((congrFun (if_neg (by rw [h]; decide)) s).trans ?_)
  exact (op_bind_ok hplace).trans ((op_bind_ok (readPlace_run .d p t')).trans hf)

end

/-! ## Entering SuperState V, and the cache enabled -/

theorem step_superstate (hreset : s.lines.reset = false) (hrun : s.run = .superstate) :
    step s = .refused .insideSuperState := by
  rw [step, stepWith, if_neg (by simp [hreset]), if_pos hrun]

theorem ICache.enable_enabled (c : ICache) (k : Nat) : (c.enable k).enabled = true := by
  unfold ICache.enable
  split
  · assumption
  · rfl

theorem ICache.enable_lines {c : ICache} (h : c.enabled = false) (k : Nat) (i : Fin 32) :
    (c.enable k).lines[i] = { c.lines[i] with valid := c.lines[i].valid &&& Config.icacheKept k i.val } := by
  rw [ICache.enable, if_neg (by simp [h])]
  simp

/-- Settles O59: each function of SCALL says what it leaves; the outcome is that, completed. -/
theorem scallResult : Obligations.ScallResult := by
  refine ⟨fun s t r rm p v hlock => ⟨exec_scall_absent hlock, fun hssv hop => ?_⟩,
    fun c k i => ⟨c.enable_enabled k, fun h => if_pos h, fun h => ICache.enable_lines h k i⟩,
    fun s ret edx ebx => ⟨rfl, rfl, fun hreset => step_superstate hreset rfl⟩⟩
  intro gives done fails cached
  have runs {u : State} (hf : scallFunction s p ((rm.enc r.num).headD 0) v t = .ok () u) :
      exec (.scall r rm) s = completes s u := exec_scall hlock hssv hop hf
  have either {c : Prop} [Decidable c] {u w : State}
      (hf : scallFunction s p ((rm.enc r.num).headD 0) v t = .ok () (if c then u else w)) :
      exec (.scall r rm) s = if c then completes s u else completes s w :=
    (runs hf).trans (apply_ite (completes s) c u w)
  refine ⟨?_, fun hv => either (scallFunction_enable hv), ?_, ?_, ?_, ?_,
    fun hv => runs (scallFunction_fails hv), fun hv => either (scallFunction_enter hv)⟩
  · rintro rfl
    exact runs scallFunction_identify
  · rintro rfl
    exact either scallFunction_cacheOff
  · rintro rfl
    exact either scallFunction_cacheOn
  · rintro rfl
    exact runs scallFunction_cacheState
  · rintro rfl
    exact either scallFunction_cacheFlush

end Sys2Proof.Machine
end

section
namespace Sys2Proof.Machine

/-! # The instructions reserved for level 0 -/

variable {s t t1 t2 : State} {r : Reg} {rm : RM} {m : MemOp} {p : Place} {v : Dword} {w : BitVec 16} {n : BitVec 3}
  {x y : Ref}

theorem level_real (h : s.pe = false) : s.level = 0 := by simp [State.level, h]

theorem level_ne_zero (hpe : s.pe = true) (hcpl : s.cpl ≠ 0) : s.level ≠ 0 := by simpa [State.level, hpe] using hcpl

/-! ## Outside level 0: #GP(0) before an operand is read (R752) -/

section
variable (hlock : s.pfx.lock = false) (hlevel : s.level ≠ 0)
include hlock hlevel

theorem run_requireCpl0_gp {k : Unit → Op Unit} : run false (requireCpl0 >>= k) s = faults s 13 (some 0) :=
  run_faults (lock_free hlock) (by decide) (op_bind_error (requireCpl0_gp hlevel))

theorem run_readTable_gp {k : TableReg → Op Unit} (os32 : Bool) (m : MemOp) :
    run false (readTable os32 (.mem m) >>= k) s = faults s 13 (some 0) :=
  run_faults (lock_free hlock) (by decide) (op_bind_error
    ((op_bind_ok (memOperand_mem m s)).trans (op_bind_error (requireCpl0_gp hlevel))))

theorem privileged_gp : ∀ i, i ∈ [Instr.clts, .hlt, .lgdt (.mem m), .lidt (.mem m), .lmsw rm] →
    exec i s = faults s 13 (some 0) := by
  intro i hi
  simp only [List.mem_cons, List.not_mem_nil, or_false] at hi
  rcases hi with rfl | rfl | rfl | rfl | rfl
  · exact run_requireCpl0_gp hlock hlevel
  · exact run_requireCpl0_gp hlock hlevel
  · exact run_readTable_gp hlock hlevel _ m
  · exact run_readTable_gp hlock hlevel _ m
  · exact run_requireCpl0_gp hlock hlevel

/-- A move of a special register that exists. -/
theorem run_specialMove_gp {defined : Bool} {k : Unit → Op Unit} (h : defined = true) :
    run false (specialMove 3 defined >>= k) s = faults s 13 (some 0) :=
  (run_specialMove_ordered hlock Iff.rfl).2 rfl h hlevel

/-- LLDT and LTR: virtual-8086 mode does not know them. -/
theorem systemLoad_refused (hpe : s.pe = true) {k : Unit → Op Unit} :
    run false (requireProtected >>= fun _ => requireCpl0 >>= k) s =
      if s.vm = true then faults s 6 none else faults s 13 (some 0) := by
  split
  · exact run_unprotected hlock (by simp [State.prot, *])
  · have hprot : s.prot = true := by simp [State.prot, *]
    refine run_faults (lock_free hlock) (by decide) ((op_bind_ok (requireProtected_ok hprot)).trans ?_)
    exact op_bind_error (requireCpl0_gp hlevel)

end

/-! ## At level 0 -/

/-- LMSW sets the low bits of CR0; in real mode PE becomes what it is given, and PG stays. -/
theorem putCr0_lmsw (hpe : t.pe = false) (w : BitVec 16) (entry : BitVec 2) :
    t.putCr0 ((t.cr0 &&& ~~~ 0xE) ||| (w.setWidth 32 &&& 0xF)) entry = { t with
      cr0 := (t.cr0 &&& 0xFFFFFFF1) ||| (w.setWidth 32 &&& 0xF)
      cpl := if w.getLsbD 0 then entry else t.cpl
      queue := if w.getLsbD 0 then [] else t.queue } := by
  have hbit : t.cr0.getLsbD 0 = false := hpe
  have h0 : bit ((t.cr0 &&& ~~~ 0xE) ||| (w.setWidth 32 &&& 0xF)) 0 = w.getLsbD 0 := by simp [bit, ← hbit]
  have h31 : bit ((t.cr0 &&& ~~~ 0xE) ||| (w.setWidth 32 &&& 0xF)) 31 = t.pg := by simp [bit, State.pg]
  simp only [State.putCr0, h0, h31, hpe, Bool.and_not_self]
  cases w.getLsbD 0 <;> rfl

section
variable (hlock : s.pfx.lock = false) (hlevel : s.level = 0)
include hlock hlevel

theorem exec_clts : exec .clts s = completes s { s with cr0 := s.cr0 &&& 0xFFFFFFF7 } :=
  run_unlocked hlock (op_bind_ok (requireCpl0_ok hlevel))

theorem exec_hlt : exec .hlt s = completes s ({ s with run := .halted }.tell (.haltCycle 0)) :=
  run_unlocked hlock ((op_bind_ok (requireCpl0_ok hlevel)).trans rfl)

/-- LGDT and LIDT: the six bytes are two reads (R617, R618, D57). -/
theorem run_readTable {os32 : Bool} {f : TableReg → State → State}
    (hwhole : (s.segs.get (s.segFor m.defaultSeg)).check s.prot (m.ea s.regs).toNat 6 false = .ok)
    (hlo : prepare (s.segFor m.defaultSeg) (m.ea s.regs) 2 false s = .ok x t1)
    (hhi : prepare (s.segFor m.defaultSeg) (m.ea s.regs + 2) 4 false t1 = .ok y t2) :
    let u := x.seen t2
    let base : Dword := BitVec.ofNat 32 (y.value u)
    run false (readTable os32 (.mem m) >>= fun t => modify (f t)) s =
      completes s (f ⟨if os32 then base else base &&& 0x00FFFFFF, BitVec.ofNat 16 (x.value t2)⟩ (y.seen u)) := by
  intro u base
  have htable : readTable os32 (.mem m) s =
      .ok ⟨if os32 then base else base &&& 0x00FFFFFF, BitVec.ofNat 16 (x.value t2)⟩ (y.seen u) := by
    refine (op_bind_ok (memOperand_mem m s)).trans ((op_bind_ok (requireCpl0_ok hlevel)).trans ?_)
    exact (op_bind_ok (checkWhole_ok hwhole)).trans (op_bind_ok (readParts_ok hlo hhi))
  exact run_unlocked hlock (op_bind_ok htable)

/-- LMSW in real mode: it sets PE or leaves the machine in real mode (R626). -/
theorem exec_lmsw_real (hpe : s.pe = false) (hop : s.operand .w rm false p w t) :
    exec (.lmsw rm) s = completes s { t with
      cr0 := (s.cr0 &&& 0xFFFFFFF1) ||| (w.setWidth 32 &&& 0xF)
      cpl := if w.getLsbD 0 then (if s.cfg.lmswKeepsCpl then 0 else rpl s.segs.cs.sel) else s.cpl
      queue := if w.getLsbD 0 then [] else t.queue } := by
  have hkeep := accessed_operand hop
  have hput := putCr0_lmsw (hkeep.pe.trans hpe) w (if t.cfg.lmswKeepsCpl then 0 else rpl t.segs.cs.sel)
  rw [← hkeep.cr0, ← hkeep.cfg, ← hkeep.segs, ← hkeep.cpl, ← hput]
  exact run_unlocked hlock ((op_bind_ok (requireCpl0_ok hlevel)).trans (op_bind_ok (readRM_operand hop)))

/-- MOV CR0 in real mode, with PE wherever PG is set (R629, R814). -/
theorem exec_movToCr0_real (hpe : s.pe = false) (v : Dword) (hv : v = s.reg .d r)
    (h : bit v 31 = false ∨ bit v 0 = true) :
    exec (.movToCr 3 0 r) s = completes s (State.flagsOpen { s with
      cr0 := (s.cr0 &&& 0x7FFFFFF0) ||| (v &&& 0x8000000F)
      cpl := if bit v 0 then rpl s.segs.cs.sel else s.cpl
      queue := if bit v 0 = false ∧ bit v 31 = s.pg then s.queue else []
      tlb := if s.pg = true ∧ bit v 31 = false then s.tlb.retained (Config.tlbRetained s.free) else s.tlb
      free := if s.pg = true ∧ bit v 31 = false then s.free + 1 else s.free }) := by
  have hcpl : (if bit v 0 = s.pe then s.cpl else if bit v 0 then rpl s.segs.cs.sel else 0) =
      if bit v 0 then rpl s.segs.cs.sel else s.cpl := by
    rw [hpe]
    cases bit v 0 <;> rfl
  have hqueue : (if bit v 0 = s.pe ∧ bit v 31 = s.pg then s.queue else []) =
      if bit v 0 = false ∧ bit v 31 = s.pg then s.queue else [] := by rw [hpe]
  rw [← hcpl, ← hqueue, hv]
  exact (exec_movToCr0 hlock hlevel).trans (if_neg (by rw [← hv]; rcases h with h | h <;> simp [h]))

end

/-- Settles O57: outside level 0 the level is tested before an operand; in real mode the level is 0, and each
instruction has its own effect. -/
theorem privilegedInstructions : Obligations.PrivilegedInstructions := by
  constructor
  · intro s rm m r n hlock hpe hcpl
    have hlevel := level_ne_zero hpe hcpl
    refine ⟨privileged_gp hlock hlevel, fun h => ?_, fun h4 h5 => ?_, fun h => ?_, ?_⟩
    · have hcr := crExists_iff.2 h
      exact ⟨run_specialMove_gp hlock hlevel hcr, run_specialMove_gp hlock hlevel hcr⟩
    · have hdr := drExists_iff.2 ⟨h4, h5⟩
      exact ⟨run_specialMove_gp hlock hlevel hdr, run_specialMove_gp hlock hlevel hdr⟩
    · have htr := trExists_iff.2 h
      exact ⟨run_specialMove_gp hlock hlevel htr, run_specialMove_gp hlock hlevel htr⟩
    · rintro i (rfl | rfl)
      · exact systemLoad_refused hlock hlevel hpe
      · exact systemLoad_refused hlock hlevel hpe
  · intro s t1 t2 rm m x y p w r hlock hpe
    have hlevel := level_real hpe
    have hprot := prot_of_pe hpe
    intro v moved loads d set
    refine ⟨exec_clts hlock hlevel, exec_hlt hlock hlevel, fun hwhole hlo hhi => ?_, exec_lmsw_real hlock hlevel hpe,
      exec_movFromCr hlock hlevel rfl, exec_movFromCr hlock hlevel rfl, exec_movFromCr hlock hlevel rfl,
      exec_movToCr0_real hlock hlevel hpe v rfl, exec_movToCr hlock hlevel rfl (crPut_cr2 _ s), fun hpg => ?_,
      fun hgd i a b hi => ?_, exec_movFromTr hlock hlevel rfl, exec_movFromTr hlock hlevel rfl,
      exec_movToTr7 hlock hlevel, exec_movToTr6 hlock hlevel, run_unprotected hlock hprot,
      run_unprotected hlock hprot⟩
    · have hwhole : (s.segs.get (s.segFor m.defaultSeg)).check s.prot (m.ea s.regs).toNat 6 false = .ok := by
        rw [hprot, hwhole]
      exact ⟨run_readTable hlock hlevel hwhole hlo hhi, run_readTable hlock hlevel hwhole hlo hhi⟩
    · refine (exec_movToCr hlock hlevel rfl (crPut_cr3 _ s)).trans ?_
      rw [keepAhead_unpaged hpg]
    · obtain ⟨hex, hget, hset⟩ := debugRegs_move d v i a b hi
      rw [← hget, ← hset]
      exact ⟨exec_movFromDr hlock hlevel hgd hex, exec_movToDr hlock hlevel hgd hex⟩

end Sys2Proof.Machine
end

section
namespace Sys2Proof.Machine

/-! # Words of the opcode map, latched bytes and LOCK -/

/-- Settles O8: the decoder runs on each word. -/
theorem decodeWords : Obligations.DecodeWords := ⟨rfl, rfl, rfl, rfl, rfl, rfl⟩

/-- Settles O12: each latches one field of `State.pfx`. -/
theorem prefixesLatch : Obligations.PrefixesLatch := fun _ =>
  ⟨rfl, rfl, rfl, rfl, rfl, rfl, rfl, rfl, rfl, rfl, rfl⟩

/-- LOCK before a meaning that may not carry it: the operation is not begun (30_encoding.md R258). -/
theorem runEnd_locked {l : Bool} {x : Op End} {s : State} (hlock : s.pfx.lock = true) (hl : l = false) :
    runEnd l x s = faults s 6 none := by
  have hud : checkLock l s = .error (.exc ⟨6, none⟩) s := by simp [checkLock, hlock, hl]
  rw [runEnd, op_bind_error hud]
  rfl

/-- Settles O13: the fifteen lockable instructions test the form, the undefined encodings are #UD with or without
LOCK, and LOCK stops every other instruction. -/
theorem lockIllegal : Obligations.LockIllegal := by
  intro i s hprefix hmay hlock
  cases i with
  | segEs | segCs | segSs | segDs | segFs | segGs | opsize | adrsize | lock | repne | rep => cases hprefix
  | add f | or_ f | adc f | sbb f | and_ f | sub f | xor_ f | inc f | dec f | bts f | btr f | btc f =>
    exact runEnd_locked hlock hmay
  | not_ wide rm | neg wide rm => exact runEnd_locked hlock hmay
  | xchg f =>
    cases f with
    | rmReg wide rm r => exact runEnd_locked hlock hmay
    | acc r => exact runEnd_locked hlock rfl
  | ssvLow n | ssvHigh n | undefined u => exact run_ud fun _ => rfl
  | _ => exact runEnd_locked hlock rfl

end Sys2Proof.Machine
end

section
namespace Sys2Proof.Machine

/-! # Descriptor-table registers and the machine status word -/

variable {s t t1 t2 : State} {m : MemOp} {x y : Ref} {rm : RM} {p : Place} {w : BitVec 16}

/-- The six bytes of a table register in memory are one operand: its limit is tested first (30_encoding.md R270). -/
theorem readTable_violation {os32 : Bool} (hlevel : s.level = 0)
    (hwhole : (s.segs.get (s.segFor m.defaultSeg)).check s.prot (m.ea s.regs).toNat 6 false = .violation) :
    readTable os32 (.mem m) s = .error (.exc ⟨if s.segFor m.defaultSeg = .ss then 12 else 13, some 0⟩) s :=
  (op_bind_ok (memOperand_mem m s)).trans
    ((op_bind_ok (requireCpl0_ok hlevel)).trans (op_bind_error (checkWhole_violation hwhole)))

theorem writeTable_violation {os32 : Bool} {table : TableReg}
    (hwhole : (s.segs.get (s.segFor m.defaultSeg)).check s.prot (m.ea s.regs).toNat 6 true = .violation) :
    writeTable os32 (.mem m) table s = .error (.exc ⟨if s.segFor m.defaultSeg = .ss then 12 else 13, some 0⟩) s :=
  (op_bind_ok (memOperand_mem m s)).trans (op_bind_error (checkWhole_violation hwhole))

/-- Both parts are checked before the first is stored; with OS = 16 the last byte is a free value (49_system_misc.md
R620, U6). -/
theorem writeTable_ok {os32 : Bool} {table : TableReg}
    (hwhole : (s.segs.get (s.segFor m.defaultSeg)).check s.prot (m.ea s.regs).toNat 6 true = .ok)
    (hlo : prepare (s.segFor m.defaultSeg) (m.ea s.regs) 2 true s = .ok x t1)
    (hhi : prepare (s.segFor m.defaultSeg) (m.ea s.regs + 2) 4 true t1 = .ok y t2) :
    let base := if os32 then table.base
      else (Config.undefDword t2.free &&& 0xFF000000) ||| (table.base &&& 0x00FFFFFF)
    writeTable os32 (.mem m) table s = .ok () (y.stored base.toNat (x.stored table.limit.toNat t2.drew)) := by
  intro base
  refine (op_bind_ok (memOperand_mem m s)).trans ((op_bind_ok (checkWhole_ok hwhole)).trans ?_)
  refine (op_bind_ok hlo).trans ((op_bind_ok hhi).trans ((fresh_bind _ t2).trans ?_))
  exact (op_bind_ok (writeRef_run x _ _)).trans (writeRef_run y _ _)

/-- LMSW sets the low bits of CR0: PE is set or stays, and PG stays (R626). -/
theorem putCr0_machineStatus (t : State) (w : BitVec 16) (entry : BitVec 2) :
    t.putCr0 ((t.cr0 &&& ~~~ 0xE) ||| (w.setWidth 32 &&& 0xF)) entry = { t with
      cr0 := (t.cr0 &&& 0xFFFFFFF1) ||| (w.setWidth 32 &&& 0xF)
      cpl := if t.pe = false ∧ w.getLsbD 0 = true then entry else t.cpl
      queue := if t.pe = false ∧ w.getLsbD 0 = true then [] else t.queue } := by
  have h0 : bit ((t.cr0 &&& ~~~ 0xE) ||| (w.setWidth 32 &&& 0xF)) 0 = (t.pe || w.getLsbD 0) := by
    simp [bit, State.pe]
  have h31 : bit ((t.cr0 &&& ~~~ 0xE) ||| (w.setWidth 32 &&& 0xF)) 31 = t.pg := by simp [bit, State.pg]
  simp only [State.putCr0, h0, h31, Bool.and_not_self]
  cases t.pe <;> cases w.getLsbD 0 <;> rfl

theorem exec_lmsw (hlock : s.pfx.lock = false) (hlevel : s.level = 0) (hop : s.operand .w rm false p w t) :
    exec (.lmsw rm) s = completes s { t with
      cr0 := (s.cr0 &&& 0xFFFFFFF1) ||| (w.setWidth 32 &&& 0xF)
      cpl := if s.pe = false ∧ w.getLsbD 0 = true then
        (if s.cfg.lmswKeepsCpl then 0 else rpl s.segs.cs.sel) else s.cpl
      queue := if s.pe = false ∧ w.getLsbD 0 = true then [] else t.queue } := by
  have hkeep := accessed_operand hop
  rw [← hkeep.pe, ← hkeep.cr0, ← hkeep.cfg, ← hkeep.segs, ← hkeep.cpl, ← putCr0_machineStatus]
  exact run_unlocked hlock ((op_bind_ok (requireCpl0_ok hlevel)).trans (op_bind_ok (readRM_operand hop)))

/-- Settles O55: the operand is refused as a whole or its two parts are prepared in turn; the machine status word is the
low part of CR0. -/
theorem tablesAndMachineStatus : Obligations.TablesAndMachineStatus := by
  intro s t1 t2 m x y rm p v q hlock seg second whole refused
  have ud {op : Op Unit} (h : op s = .error (.exc ⟨6, none⟩) s) : run false op s = faults s 6 none :=
    run_faults (lock_free hlock) (by decide) h
  have refuses {op : Op Unit} (h : op s = .error (.exc ⟨if seg = .ss then 12 else 13, some 0⟩) s) :
      run false op s = refused := run_faults (lock_free hlock) (by split <;> decide) h
  refine ⟨fun i hi => ?_, fun hlevel hwhole => ?_, fun hwhole => ?_, fun hlevel hwhole hlo hhi => ?_,
    fun hwhole hlo hhi => ?_, fun hp => run_unlocked hlock (writeRM_ok hp), exec_lmsw hlock, exec_clts hlock⟩
  · simp only [List.mem_cons, List.not_mem_nil, or_false] at hi
    rcases hi with rfl | rfl | rfl | rfl
    · exact ud rfl
    · exact ud rfl
    · exact ud rfl
    · exact ud rfl
  · have hread := readTable_violation (os32 := s.os32) hlevel hwhole
    exact ⟨refuses (op_bind_error hread), refuses (op_bind_error hread)⟩
  · exact ⟨refuses (writeTable_violation hwhole), refuses (writeTable_violation hwhole)⟩
  · exact ⟨run_readTable hlock hlevel hwhole hlo hhi, run_readTable hlock hlevel hwhole hlo hhi⟩
  · exact ⟨run_unlocked hlock (writeTable_ok hwhole hlo hhi), run_unlocked hlock (writeTable_ok hwhole hlo hhi)⟩

end Sys2Proof.Machine
end

section
namespace Sys2Proof

/-! # Reading the parts of an instruction's encoding -/

/-! ## Fields of a byte, bytes of a word -/

theorem Reg.ofNum_num (r : Reg) : Reg.ofNum r.num = r := by cases r <;> rfl

theorem Base16.ofNum_num (b : Base16) : Base16.ofNum b.num = b := by cases b <;> rfl

theorem SregField.ofNum_num : ∀ k : SregField, SregField.ofNum k.num = k
  | .reg s => by cases s <;> rfl
  | .reserved6 | .reserved7 => rfl

theorem Reg.num_eq_four {r : Reg} : r.num = 4 ↔ r = .esp := by cases r <;> decide

theorem Reg.num_eq_five {r : Reg} : r.num = 5 ↔ r = .ebp := by cases r <;> decide

theorem Base16.num_eq_six {b : Base16} : b.num = 6 ↔ b = .bp := by cases b <;> decide

theorem Disp16.mod_eq_zero {d : Disp16} : d.mod = 0 ↔ d = .none := by cases d <;> simp [Disp16.mod]

theorem Disp32.mod_eq_zero {d : Disp32} : d.mod = 0 ↔ d = .none := by cases d <;> simp [Disp32.mod]

theorem Disp16.mod_ne_three (d : Disp16) : d.mod ≠ 3 := by cases d <;> simp [Disp16.mod]

theorem Disp32.mod_ne_three (d : Disp32) : d.mod ≠ 3 := by cases d <;> simp [Disp32.mod]

/-- The fields of a ModR/M or SIB byte are those it is made of (30_encoding.md R268). -/
theorem ModRM.ofByte_byte (mod : BitVec 2) (reg rm : BitVec 3) :
    ModRM.ofByte (ModRM.byte mod reg rm) = ⟨mod, reg, rm⟩ := by
  have hmod : (mod ++ reg ++ rm).extractLsb' 6 2 = mod := by
    rw [BitVec.extractLsb'_append_eq_of_le (by decide), BitVec.extractLsb'_append_eq_left]
  have hreg : (mod ++ reg ++ rm).extractLsb' 3 3 = reg := by
    rw [BitVec.extractLsb'_append_eq_of_le (by decide)]
    exact BitVec.extractLsb'_append_eq_right
  have hrm : (mod ++ reg ++ rm).extractLsb' 0 3 = rm := BitVec.extractLsb'_append_eq_right
  exact ModRM.mk.injEq .. ▸ ⟨hmod, hreg, hrm⟩

theorem word_of_bytes (v : BitVec 16) : v.extractLsb' 8 8 ++ v.extractLsb' 0 8 = v :=
  BitVec.extractLsb'_append_extractLsb' (w := 8) (len := 8)

theorem dword_of_words (v : BitVec 32) : v.extractLsb' 16 16 ++ v.extractLsb' 0 16 = v :=
  BitVec.extractLsb'_append_extractLsb' (w := 16) (len := 16)

/-- A doubleword's bytes are those of its words. -/
theorem le32_eq (v : BitVec 32) : le32 v = le16 (v.extractLsb' 0 16) ++ le16 (v.extractLsb' 16 16) := by
  have high (start : Nat) (h : start + 8 ≤ 16) :
      v.extractLsb' (16 + start) 8 = (v.extractLsb' 16 16).extractLsb' start 8 := by
    ext i hi
    simp [show start + i < 16 by omega, Nat.add_assoc]
  simp only [le32, high 0 (by decide), high 8 (by decide)]
  simp [le16, BitVec.extractLsb'_extractLsb'_of_le, ← high]

/-! ## Parsers that read a given encoding -/

/-- The parser reads just these bytes, as this value, whatever bytes follow. -/
def Reads {α : Type} (p : Parse α) (e : List Byte) (a : α) : Prop := ∀ rest, p (e ++ rest) = some (a, rest)

theorem Parse.byte_bind {α : Type} (f : Byte → Parse α) (b : Byte) (l : List Byte) :
    (Parse.byte >>= f) (b :: l) = f b l := rfl

theorem Parse.modrm_bind {α : Type} (f : ModRM → Parse α) (b : Byte) (l : List Byte) :
    (Parse.modrm >>= f) (b :: l) = f (ModRM.ofByte b) l := rfl

namespace Reads
variable {α β : Type} {p : Parse α} {f : α → Parse β} {e e' : List Byte} {a : α} {b : β} {z : Sizes} {rm : RM}

theorem pure (a : α) : Reads (Pure.pure a) [] a := fun _ => rfl

theorem bind (hp : Reads p e a) (hf : Reads (f a) e' b) : Reads (p >>= f) (e ++ e') b := fun rest => by
  rw [List.append_assoc]
  exact Option.bind_eq_some_iff.2 ⟨_, hp _, hf _⟩

/-- The value read last, and what is made of it. -/
theorem last (g : α → β) (hp : Reads p e a) : Reads (p >>= fun x => Pure.pure (g x)) e (g a) := fun rest =>
  Option.bind_eq_some_iff.2 ⟨_, hp rest, rfl⟩

theorem byte (b : Byte) : Reads Parse.byte [b] b := fun _ => rfl

theorem word (v : BitVec 16) : Reads Parse.word (le16 v) v := fun rest => by
  show some (v.extractLsb' 8 8 ++ v.extractLsb' 0 8, rest) = _
  rw [word_of_bytes]

theorem dword (v : BitVec 32) : Reads Parse.dword (le32 v) v := by
  rw [le32_eq]
  have high := (word (v.extractLsb' 16 16)).last fun w => w ++ v.extractLsb' 0 16
  rw [dword_of_words] at high
  exact (word (v.extractLsb' 0 16)).bind (f := fun w0 => do let w1 ← Parse.word; return w1 ++ w0) high

/-- An immediate of the size the sizes select (R280). -/
theorem imm {is32 : Bool} {i : Imm} (hi : i.wf is32 = true) : Reads (Parse.imm is32) i.enc i := by
  cases i with
  | w v =>
    obtain rfl : is32 = false := by simpa [Imm.wf] using hi
    exact (word v).last Imm.w
  | d v =>
    obtain rfl : is32 = true := hi
    exact (dword v).last Imm.d

theorem disp16 (d : Disp16) : Reads (Parse.disp16 d.mod) d.enc d :=
  match d with
  | .none => pure _
  | .d8 v => (byte v).last Disp16.d8
  | .d16 v => (word v).last Disp16.d16

theorem disp32 (d : Disp32) : Reads (Parse.disp32 d.mod) d.enc d :=
  match d with
  | .none => pure _
  | .d8 v => (byte v).last Disp32.d8
  | .d32 v => (dword v).last Disp32.d32

/-- The SIB byte and displacement behind a ModR/M byte with r/m 100 (R273). -/
theorem sib (sc : BitVec 2) (i : Reg) {b : Reg} {d : Disp32} (h : ¬(b = .ebp ∧ d = .none)) :
    Reads (Parse.sib d.mod) (ModRM.byte sc i.num b.num :: d.enc) (.sib sc i b d) := fun rest => by
  have hbase : ¬(b.num = 5 ∧ d.mod = 0) := by rwa [Reg.num_eq_five, Disp32.mod_eq_zero]
  have hd := (disp32 d).last (MemOp.sib sc (Reg.ofNum i.num) (Reg.ofNum b.num)) rest
  rw [Reg.ofNum_num, Reg.ofNum_num] at hd
  rw [List.cons_append, Parse.sib, Parse.byte_bind, ModRM.ofByte_byte, if_neg hbase, Reg.ofNum_num, Reg.ofNum_num]
  exact hd

theorem sibAbs (sc : BitVec 2) (i : Reg) (v : BitVec 32) :
    Reads (Parse.sib 0) (ModRM.byte sc i.num 5 :: le32 v) (.sibAbs sc i v) := fun rest => by
  rw [List.cons_append, Parse.sib, Parse.byte_bind, ModRM.ofByte_byte, if_pos ⟨rfl, rfl⟩, Reg.ofNum_num]
  exact (dword v).last (MemOp.sibAbs sc i) rest

/-- A memory operand behind its ModR/M byte, whose REG field is not the operand's (R268, R271 to R273). -/
theorem mem {as32 : Bool} : ∀ {m : MemOp}, m.wf as32 = true → ∃ mod low tail, ∀ reg,
    m.enc reg = ModRM.byte mod reg low :: tail ∧ Reads (Parse.rm as32 ⟨mod, reg, low⟩) tail (.mem m)
  | .abs16 d, h => ⟨0, 6, le16 d, fun reg => ⟨rfl, by
    obtain rfl : as32 = false := by simpa [MemOp.wf] using h
    exact (word d).last fun v => RM.mem (.abs16 v)⟩⟩
  | .base16 b d, h => ⟨d.mod, b.num, d.enc, fun reg => ⟨rfl, by
    obtain ⟨rfl, hb⟩ : as32 = false ∧ ¬(b = .bp ∧ d = .none) := by simpa [MemOp.wf, imp_iff_not_or] using h
    have hbase : ¬(b.num = 6 ∧ d.mod = 0) := by rwa [Base16.num_eq_six, Disp16.mod_eq_zero]
    have hd := (disp16 d).last fun x => RM.mem (.base16 (Base16.ofNum b.num) x)
    rw [Parse.rm, if_neg d.mod_ne_three, if_neg Bool.false_ne_true, if_neg hbase]
    rwa [Base16.ofNum_num] at hd ⊢⟩⟩
  | .abs32 d, h => ⟨0, 5, le32 d, fun reg => ⟨rfl, by
    obtain rfl : as32 = true := h
    exact (dword d).last fun v => RM.mem (.abs32 v)⟩⟩
  | .base32 b d, h => ⟨d.mod, b.num, d.enc, fun reg => ⟨rfl, by
    obtain ⟨⟨rfl, hesp⟩, hb⟩ : (as32 = true ∧ b ≠ .esp) ∧ ¬(b = .ebp ∧ d = .none) := by
      simpa [MemOp.wf, imp_iff_not_or] using h
    have hbase : ¬(b.num = 5 ∧ d.mod = 0) := by rwa [Reg.num_eq_five, Disp32.mod_eq_zero]
    have hd := (disp32 d).last fun x => RM.mem (.base32 (Reg.ofNum b.num) x)
    rw [Parse.rm, if_neg d.mod_ne_three, if_pos rfl, if_neg (mt Reg.num_eq_four.1 hesp), if_neg hbase]
    rwa [Reg.ofNum_num] at hd ⊢⟩⟩
  | .sib sc i b d, h => ⟨d.mod, 4, ModRM.byte sc i.num b.num :: d.enc, fun reg => ⟨rfl, by
    obtain ⟨rfl, hb⟩ : as32 = true ∧ ¬(b = .ebp ∧ d = .none) := by simpa [MemOp.wf, imp_iff_not_or] using h
    rw [Parse.rm, if_neg d.mod_ne_three, if_pos rfl, if_pos rfl]
    exact (sib sc i hb).last RM.mem⟩⟩
  | .sibAbs sc i d, h => ⟨0, 4, ModRM.byte sc i.num 5 :: le32 d, fun reg => ⟨rfl, by
    obtain rfl : as32 = true := h
    exact (sibAbs sc i d).last RM.mem⟩⟩

/-- An E operand behind its ModR/M byte (R268). -/
theorem operand {as32 : Bool} (h : rm.wf as32 = true) : ∃ mod low tail, ∀ reg,
    rm.enc reg = ModRM.byte mod reg low :: tail ∧ Reads (Parse.rm as32 ⟨mod, reg, low⟩) tail rm := by
  cases rm with
  | mem m => exact mem h
  | reg r =>
    refine ⟨3, r.num, [], fun reg => ⟨rfl, ?_⟩⟩
    rw [Parse.rm, if_pos rfl, Reg.ofNum_num]
    exact pure _

theorem regRm (h : rm.wf z.as32 = true) (r : Reg) : Reads (Parse.regRm z) (rm.enc r.num) (r, rm) := fun rest => by
  obtain ⟨mod, low, tail, hrm⟩ := operand h
  obtain ⟨henc, hrm⟩ := hrm r.num
  have hr := hrm.last (fun x => (Reg.ofNum r.num, x)) rest
  rw [henc, List.cons_append, Parse.regRm, Parse.modrm_bind, ModRM.ofByte_byte]
  rwa [Reg.ofNum_num] at hr ⊢

/-! ## Opcodes and the operands behind them -/

/-- One value behind the opcode bytes. -/
theorem value (pre : List Byte) {q : Parse α} (c : α → Instr) (hq : Reads q e a)
    (hd : ∀ l, Parse.item z (pre ++ l) = (q >>= fun x => Pure.pure (c x)) l) :
    Reads (Parse.item z) (pre ++ e) (c a) := fun rest => by
  rw [List.append_assoc, hd]
  exact hq.last c rest

/-- Two values behind the opcode bytes. -/
theorem values (pre : List Byte) {q : Parse α} {q' : Parse β} (c : α → β → Instr) (hq : Reads q e a)
    (hq' : Reads q' e' b) (hd : ∀ l, Parse.item z (pre ++ l) = (q >>= fun x => q' >>= fun y => Pure.pure (c x y)) l) :
    Reads (Parse.item z) (pre ++ (e ++ e')) (c a b) := fun rest => by
  rw [List.append_assoc, hd]
  exact hq.bind (f := fun x => q' >>= fun y => Pure.pure (c x y)) (hq'.last (c a)) rest

/-- A value behind a one-byte opcode. -/
theorem value1 {op : Byte} {q : Parse α} (c : α → Instr) (hq : Reads q e a)
    (hd : ∀ l, Parse.item z (op :: l) = (q >>= fun x => Pure.pure (c x)) l) :
    Reads (Parse.item z) (op :: e) (c a) := value [op] c hq hd

/-- A register and an E operand behind a one-byte opcode (R268). -/
theorem regRm1 {op : Byte} {r : Reg} (c : Reg → RM → Instr) (h : rm.wf z.as32 = true)
    (hd : ∀ l, Parse.item z (op :: l) = (Parse.regRm z >>= fun x => Pure.pure (c x.1 x.2)) l) :
    Reads (Parse.item z) (op :: rm.enc r.num) (c r rm) := value [op] (fun x => c x.1 x.2) (regRm h r) hd

/-- A register and an E operand behind a two-byte opcode (R268). -/
theorem regRm2 {op : Byte} {r : Reg} (c : Reg → RM → Instr) (h : rm.wf z.as32 = true)
    (hd : ∀ l, Parse.item z (0x0F :: op :: l) = (Parse.regRm z >>= fun x => Pure.pure (c x.1 x.2)) l) :
    Reads (Parse.item z) (0x0F :: op :: rm.enc r.num) (c r rm) :=
  value [0x0F, op] (fun x => c x.1 x.2) (regRm h r) hd

/-- A register, an E operand and an immediate behind the opcode. -/
theorem regRmThen (pre : List Byte) {q : Parse α} {r : Reg} (c : Reg → RM → α → Instr) (h : rm.wf z.as32 = true)
    (hq : Reads q e a)
    (hd : ∀ l, Parse.item z (pre ++ l) = (Parse.regRm z >>= fun x => q >>= fun y => Pure.pure (c x.1 x.2 y)) l) :
    Reads (Parse.item z) (pre ++ (rm.enc r.num ++ e)) (c r rm a) := values pre (fun x => c x.1 x.2) (regRm h r) hq hd

/-- Behind a ModR/M byte whose REG field is reg, the group p reads an E operand and goes on with q. -/
def Slot (z : Sizes) (p : Parse Instr) (reg : BitVec 3) (q : RM → Parse Instr) : Prop :=
  ∀ mod low l, p (ModRM.byte mod reg low :: l) = (Parse.rm z.as32 ⟨mod, reg, low⟩ >>= q) l

/-- A group's E operand behind the opcode. -/
theorem slot (pre : List Byte) (p : Parse Instr) {reg : BitVec 3} (c : RM → Instr) (h : rm.wf z.as32 = true)
    (hd : ∀ l, Parse.item z (pre ++ l) = p l) (hp : Slot z p reg fun x => Pure.pure (c x)) :
    Reads (Parse.item z) (pre ++ rm.enc reg) (c rm) := fun rest => by
  obtain ⟨mod, low, tail, hrm⟩ := operand h
  obtain ⟨henc, hrm⟩ := hrm reg
  rw [List.append_assoc, hd, henc, List.cons_append, hp]
  exact hrm.last c rest

/-- A group's E operand and an immediate behind the opcode. -/
theorem slotThen (pre : List Byte) (p : Parse Instr) {reg : BitVec 3} {q : Parse α} (c : RM → α → Instr)
    (h : rm.wf z.as32 = true) (hq : Reads q e a) (hd : ∀ l, Parse.item z (pre ++ l) = p l)
    (hp : Slot z p reg fun x => q >>= fun y => Pure.pure (c x y)) :
    Reads (Parse.item z) (pre ++ (rm.enc reg ++ e)) (c rm a) := fun rest => by
  obtain ⟨mod, low, tail, hrm⟩ := operand h
  obtain ⟨henc, hrm⟩ := hrm reg
  rw [List.append_assoc, hd, henc, List.cons_append, List.cons_append, hp]
  exact hrm.bind (f := fun x => q >>= fun y => Pure.pure (c x y)) (hq.last (c rm)) rest

end Reads
end Sys2Proof
end

section
namespace Sys2Proof

/-! # What an instruction's encoding decodes to -/

/-- The eight values of a REG field. -/
theorem octal_cases (k : BitVec 3) : k = 0 ∨ k = 1 ∨ k = 2 ∨ k = 3 ∨ k = 4 ∨ k = 5 ∨ k = 6 ∨ k = 7 := by
  decide +revert

theorem toNat_append_div (hi lo : BitVec 4) : (hi ++ lo : Byte).toNat / 16 = hi.toNat := by decide +revert

theorem toNat_append_mod (hi lo : BitVec 4) : (hi ++ lo : Byte).toNat % 16 = lo.toNat := by decide +revert

/-- The wide form of an arithmetic opcode is the next one (R262). -/
theorem opw_rmReg : ∀ k : BitVec 3, opw (0#2 ++ k ++ 0#3) true = 0#2 ++ k ++ 1#3 := by decide

theorem opw_regRm : ∀ k : BitVec 3, opw (0#2 ++ k ++ 2#3) true = 0#2 ++ k ++ 3#3 := by decide

namespace Reads
variable {z : Sizes} {rm : RM}

/-! ## Families of instructions -/

/-- The low six opcodes of each half row of 00 to 3F (R285). -/
theorem item_alu (k : BitVec 3) {lo : BitVec 3} (hlo : lo.toNat < 6) (l : List Byte) :
    Parse.item z ((0#2 ++ k ++ lo : Byte) :: l) =
      (Parse.aluForm z lo.toNat >>= fun f => Pure.pure (aluInstr k.toNat f)) l := by
  rcases octal_cases lo with rfl | rfl | rfl | rfl | rfl | rfl | rfl | rfl
  case inr.inr.inr.inr.inr.inr.inl | inr.inr.inr.inr.inr.inr.inr => exact absurd hlo (by decide)
  all_goals rcases octal_cases k with rfl | rfl | rfl | rfl | rfl | rfl | rfl | rfl <;> rfl

/-- An operand and an immediate of GRP1. -/
theorem grp1 {α : Type} {lo : Nat} {k : BitVec 3} {q : Parse α} (c : RM → α → AluForm)
    (hp : Parse.grp1 z lo = Parse.modrm >>= fun m => Parse.rm z.as32 m >>= fun x => q >>= fun y =>
      Pure.pure (aluInstr m.reg.toNat (c x y))) :
    Slot z (Parse.grp1 z lo) k fun x => q >>= fun y => Pure.pure (aluInstr k.toNat (c x y)) := fun _ _ _ => by
  rw [hp, Parse.modrm_bind, ModRM.ofByte_byte]

/-- The eight two-operand instructions (R285, R287). -/
theorem alu (k : BitVec 3) {f : AluForm} (h : f.wf z = true) :
    Reads (Parse.item z) (f.enc k) (aluInstr k.toNat f) := by
  have low {lo : BitVec 3} {e : List Byte} (hlo : lo.toNat < 6) (hf : Reads (Parse.aluForm z lo.toNat) e f) :
      Reads (Parse.item z) ((0#2 ++ k ++ lo : Byte) :: e) (aluInstr k.toNat f) :=
    value1 (aluInstr k.toNat) hf (item_alu k hlo)
  cases f with
  | rmReg wide rm r =>
    have hf := (regRm h r).last fun x => AluForm.rmReg wide x.2 x.1
    cases wide with
    | false => exact low (lo := 0) (by decide) hf
    | true => rw [AluForm.enc, opw_rmReg]; exact low (by decide) hf
  | regRm wide r rm =>
    have hf := (regRm h r).last fun x => AluForm.regRm wide x.1 x.2
    cases wide with
    | false => exact low (lo := 2) (by decide) hf
    | true => rw [AluForm.enc, opw_regRm]; exact low (by decide) hf
  | alImm i => exact low (lo := 4) (by decide) ((byte i).last AluForm.alImm)
  | axImm i => exact low (lo := 5) (by decide) ((imm h).last AluForm.axImm)
  | rmImm8 rm i => exact slotThen [0x80#8] (Parse.grp1 z 0) _ h (byte i) (fun _ => rfl) (grp1 .rmImm8 rfl)
  | rmImm8Alias rm i => exact slotThen [0x82#8] (Parse.grp1 z 2) _ h (byte i) (fun _ => rfl) (grp1 .rmImm8Alias rfl)
  | rmImm rm i =>
    obtain ⟨hrm, hi⟩ := Bool.and_eq_true_iff.1 h
    exact slotThen [0x81#8] (Parse.grp1 z 1) _ hrm (imm hi) (fun _ => rfl) (grp1 .rmImm rfl)
  | rmSext rm i => exact slotThen [0x83#8] (Parse.grp1 z 3) _ h (byte i) (fun _ => rfl) (grp1 .rmSext rfl)

/-- Shifts and rotates (GRP2). -/
theorem shift (k : BitVec 3) {wide : Bool} (h : rm.wf z.as32 = true) (c : ShiftCount) :
    Reads (Parse.item z) (encShift k wide rm c) (shiftInstr k.toNat wide rm c) := by
  cases c with
  | imm i =>
    refine slotThen [opw 0xC0 wide] (Parse.grp2Imm z wide) (fun rm i => shiftInstr k.toNat wide rm (.imm i)) h
      (byte i) (fun _ => by cases wide <;> rfl) fun _ _ _ => ?_
    rw [Parse.grp2Imm, Parse.modrm_bind, ModRM.ofByte_byte]
  | one =>
    refine slot [opw 0xD0#8 wide] (Parse.grp2 z wide .one) (fun rm => shiftInstr k.toNat wide rm .one) h
      (fun _ => by cases wide <;> rfl) fun _ _ _ => ?_
    rw [Parse.grp2, Parse.modrm_bind, ModRM.ofByte_byte]
  | cl =>
    refine slot [opw 0xD2#8 wide] (Parse.grp2 z wide .cl) (fun rm => shiftInstr k.toNat wide rm .cl) h
      (fun _ => by cases wide <;> rfl) fun _ _ _ => ?_
    rw [Parse.grp2, Parse.modrm_bind, ModRM.ofByte_byte]

/-- The conditional jumps (R285, R286). -/
theorem jcc (k : BitVec 4) {f : JccForm} (h : f.wf z = true) :
    Reads (Parse.item z) (f.enc k) (jccInstr k.toNat f) := by
  cases f with
  | short r =>
    refine value1 (fun r => jccInstr k.toNat (.short r)) (byte r) fun _ => ?_
    rw [Parse.item, Parse.byte_bind, toNat_append_div, toNat_append_mod]
    rfl
  | near r =>
    refine value [0x0F, 8#4 ++ k] (fun r => jccInstr k.toNat (.near r)) (imm h) fun l => ?_
    show Parse.twoByte z ((8#4 ++ k) :: l) = _
    rw [Parse.twoByte, Parse.byte_bind, toNat_append_div, toNat_append_mod]
    rfl

/-- SETcc, with 000 in the REG field that the decoder ignores (R286, D47). -/
theorem setcc (k : BitVec 4) (h : rm.wf z.as32 = true) :
    Reads (Parse.item z) (0x0F :: (9#4 ++ k : Byte) :: rm.enc 0) (setccInstr k.toNat rm) := by
  refine regRm2 (r := .eax) (fun _ rm => setccInstr k.toNat rm) h fun l => ?_
  show Parse.twoByte z ((9#4 ++ k) :: l) = _
  rw [Parse.twoByte, Parse.byte_bind, toNat_append_div, toNat_append_mod]
  rfl

/-- INC and DEC: of a register (R285), of an E operand in GRP4 and GRP5 (R287). -/
theorem incDec {k : BitVec 1} {c : IncForm → Instr} {f : IncForm} (h : f.wf z = true)
    (hreg : ∀ r : Reg, Reads (Parse.item z) [4#4 ++ k ++ r.num] (c (.reg r)))
    (h4 : Slot z (Parse.grp4 z) (0#2 ++ k) fun rm => Pure.pure (c (.rmOp false rm)))
    (h5 : Slot z (Parse.grp5 z) (0#2 ++ k) fun rm => Pure.pure (c (.rmOp true rm))) :
    Reads (Parse.item z) (f.enc k) (c f) := by
  cases f with
  | reg r => exact hreg r
  | rmOp wide rm =>
    cases wide with
    | false => exact slot [0xFE] (Parse.grp4 z) (fun rm => c (.rmOp false rm)) h (fun _ => rfl) h4
    | true => exact slot [0xFF] (Parse.grp5 z) (fun rm => c (.rmOp true rm)) h (fun _ => rfl) h5

/-- A bit test: its own opcode, and GRP8 (R286, R287). -/
theorem bitTest {op : Byte} {k : BitVec 3} {c : BitForm → Instr} {f : BitForm} (h : f.wf z = true)
    (hd : ∀ l, Parse.item z (0x0F :: op :: l) = (Parse.regRm z >>= fun x => Pure.pure (c (.rmReg x.2 x.1))) l)
    (h8 : Slot z (Parse.grp8 z) k fun rm => Parse.byte >>= fun i => Pure.pure (c (.rmImm rm i))) :
    Reads (Parse.item z) (f.enc op k) (c f) := by
  cases f with
  | rmReg rm r => exact regRm2 (fun r rm => c (.rmReg rm r)) h hd
  | rmImm rm i =>
    exact slotThen [0x0F, 0xBA] (Parse.grp8 z) (fun rm i => c (.rmImm rm i)) h (byte i) (fun _ => rfl) h8

/-- An E operand of GRP3 (R287). -/
theorem grp3 {wide : Bool} {k : BitVec 3} {c : RM → Instr} (h : rm.wf z.as32 = true)
    (hp : Slot z (Parse.grp3 z wide) k fun rm => Pure.pure (c rm)) :
    Reads (Parse.item z) (opw 0xF6 wide :: rm.enc k) (c rm) :=
  slot [opw 0xF6 wide] (Parse.grp3 z wide) c h (fun _ => by cases wide <;> rfl) hp

/-- REG 000 of 8F, C6 and C7 (R301). -/
theorem slot0 (op : Byte) (q : RM → Parse Instr) : Slot z (Parse.slot0 z op q) 0 q := fun _ _ _ => by
  rw [Parse.slot0, Parse.byte_bind, ModRM.ofByte_byte]
  rfl

/-- A move of a special register: MOD is any, and nothing follows (R275). -/
theorem special {op : Byte} {mod : BitVec 2} {n : BitVec 3} {r : Reg} {c : BitVec 2 → BitVec 3 → Reg → Instr}
    (hd : ∀ l, Parse.item z (0x0F :: op :: l) = Parse.special c l) :
    Reads (Parse.item z) [0x0F, op, ModRM.byte mod n r.num] (c mod n r) := fun rest => by
  refine (hd (ModRM.byte mod n r.num :: rest)).trans ?_
  rw [Parse.special, Parse.modrm_bind, ModRM.ofByte_byte, Reg.ofNum_num]
  rfl

/-- SHLD and SHRD (R286). -/
theorem double {op : Byte} {r : Reg} {c : RM → Reg → DoubleCount → Instr} (h : rm.wf z.as32 = true) (n : DoubleCount)
    (himm : ∀ l, Parse.item z (0x0F :: op :: l) =
      (Parse.regRm z >>= fun x => Parse.byte >>= fun i => Pure.pure (c x.2 x.1 (.imm i))) l)
    (hcl : ∀ l, Parse.item z (0x0F :: (op + 1) :: l) = (Parse.regRm z >>= fun x => Pure.pure (c x.2 x.1 .cl)) l) :
    Reads (Parse.item z) (encDouble op rm r n) (c rm r n) := by
  cases n with
  | imm i => exact regRmThen [0x0F, op] (fun r rm i => c rm r (.imm i)) h (byte i) himm
  | cl => exact regRm2 (fun r rm => c rm r .cl) h hcl

/-- TEST (R285, R287). -/
theorem test {f : TestForm} (h : f.wf z = true) : Reads (Parse.item z) f.enc (.test f) := by
  cases f with
  | rmReg wide rm r => exact regRm1 (fun r rm => .test (.rmReg wide rm r)) h fun _ => by cases wide <;> rfl
  | alImm i => exact fun _ => rfl
  | axImm i => exact value1 (fun i => .test (.axImm i)) (imm h) fun _ => rfl
  | rmImm8 al rm i =>
    refine slotThen [0xF6] (Parse.grp3 z false) (fun rm i => .test (.rmImm8 al rm i)) h (byte i) (fun _ => rfl)
      fun _ _ _ => ?_
    rw [Parse.grp3, Parse.modrm_bind, ModRM.ofByte_byte]
    cases al <;> rfl
  | rmImm al rm i =>
    obtain ⟨hrm, hi⟩ := Bool.and_eq_true_iff.1 h
    refine slotThen [0xF7] (Parse.grp3 z true) (fun rm i => .test (.rmImm al rm i)) hrm (imm hi) (fun _ => rfl)
      fun _ _ _ => ?_
    rw [Parse.grp3, Parse.modrm_bind, ModRM.ofByte_byte]
    cases al <;> rfl

/-- The general MOV (R285). -/
theorem mov {f : MovForm} (h : f.wf z = true) : Reads (Parse.item z) f.enc (.mov f) := by
  cases f with
  | rmReg wide rm r => exact regRm1 (fun r rm => .mov (.rmReg wide rm r)) h fun _ => by cases wide <;> rfl
  | regRm wide r rm => exact regRm1 (fun r rm => .mov (.regRm wide r rm)) h fun _ => by cases wide <;> rfl
  | accMoff wide o => exact value1 (fun o => .mov (.accMoff wide o)) (imm h) fun _ => by cases wide <;> rfl
  | moffAcc wide o => exact value1 (fun o => .mov (.moffAcc wide o)) (imm h) fun _ => by cases wide <;> rfl
  | regImm8 r i => exact fun _ => by cases r <;> rfl
  | regImm r i => exact value1 (fun i => .mov (.regImm r i)) (imm h) fun _ => by cases r <;> rfl
  | rmImm8 rm i =>
    exact slotThen [0xC6] (Parse.slot0 z 0xC6 _) (fun rm i => .mov (.rmImm8 rm i)) h (byte i) (fun _ => rfl) (slot0 _ _)
  | rmImm rm i =>
    obtain ⟨hrm, hi⟩ := Bool.and_eq_true_iff.1 h
    exact slotThen [0xC7] (Parse.slot0 z 0xC7 _) (fun rm i => .mov (.rmImm rm i)) hrm (imm hi) (fun _ => rfl)
      (slot0 _ _)

theorem imul {f : ImulForm} (h : f.wf z = true) : Reads (Parse.item z) f.enc (.imul f) := by
  cases f with
  | one wide rm =>
    exact grp3 (c := fun rm => .imul (.one wide rm)) h fun _ _ _ => by
      rw [Parse.grp3, Parse.modrm_bind, ModRM.ofByte_byte]
      rfl
  | two r rm => exact regRm2 (fun r rm => .imul (.two r rm)) h fun _ => rfl
  | three r rm i =>
    obtain ⟨hrm, hi⟩ := Bool.and_eq_true_iff.1 h
    exact regRmThen [0x69] (fun r rm i => .imul (.three r rm i)) hrm (imm hi) fun _ => rfl
  | threeSext r rm i => exact regRmThen [0x6B] (fun r rm i => .imul (.threeSext r rm i)) h (byte i) fun _ => rfl

/-- An E operand of GRP5 (R287). -/
theorem grp5 {k : BitVec 3} {c : RM → Instr} (h : rm.wf z.as32 = true)
    (hp : Slot z (Parse.grp5 z) k fun rm => Pure.pure (c rm)) : Reads (Parse.item z) (0xFF :: rm.enc k) (c rm) :=
  slot [0xFF] (Parse.grp5 z) c h (fun _ => rfl) hp

theorem push {f : PushForm} (h : f.wf z = true) : Reads (Parse.item z) f.enc (.push f) := by
  cases f with
  | reg r => exact fun _ => by cases r <;> rfl
  | imm i => exact value1 (fun i => .push (.imm i)) (imm h) fun _ => rfl
  | imm8 i => exact fun _ => rfl
  | rmOp rm =>
    refine grp5 (c := fun rm => .push (.rmOp rm)) h fun _ _ _ => ?_
    rw [Parse.grp5, Parse.byte_bind, ModRM.ofByte_byte]
    rfl

theorem pop {f : PopForm} (h : f.wf z = true) : Reads (Parse.item z) f.enc (.pop f) := by
  cases f with
  | reg r => exact fun _ => by cases r <;> rfl
  | rmOp rm => exact slot [0x8F] (Parse.slot0 z 0x8F _) (fun rm => .pop (.rmOp rm)) h (fun _ => rfl) (slot0 _ _)

theorem xchg {f : XchgForm} (h : f.wf z = true) : Reads (Parse.item z) f.enc (.xchg f) := by
  cases f with
  | rmReg wide rm r => exact regRm1 (fun r rm => .xchg (.rmReg wide rm r)) h fun _ => by cases wide <;> rfl
  | acc r =>
    cases r with
    | eax => exact nomatch h
    | ecx | edx | ebx | esp | ebp | esi | edi => exact fun _ => rfl

theorem jmpNear {f : JmpForm} (h : f.wf z = true) : Reads (Parse.item z) f.enc (.jmpNear f) := by
  cases f with
  | short r => exact fun _ => rfl
  | near r => exact value1 (fun r => .jmpNear (.near r)) (imm h) fun _ => rfl
  | rmOp rm =>
    refine grp5 (c := fun rm => .jmpNear (.rmOp rm)) h fun _ _ _ => ?_
    rw [Parse.grp5, Parse.byte_bind, ModRM.ofByte_byte]
    rfl

theorem callNear {f : CallForm} (h : f.wf z = true) : Reads (Parse.item z) f.enc (.callNear f) := by
  cases f with
  | rel r => exact value1 (fun r => .callNear (.rel r)) (imm h) fun _ => rfl
  | rmOp rm =>
    refine grp5 (c := fun rm => .callNear (.rmOp rm)) h fun _ _ _ => ?_
    rw [Parse.grp5, Parse.byte_bind, ModRM.ofByte_byte]
    rfl

/-- A far JMP or CALL (R285, R287). -/
theorem far {op : Byte} {k : BitVec 3} {c : FarForm → Instr} {f : FarForm} (h : f.wf z = true)
    (hd : ∀ l, Parse.item z (op :: l) =
      (Parse.imm z.os32 >>= fun o => Parse.word >>= fun s => Pure.pure (c (.ptr o s))) l)
    (h5 : Slot z (Parse.grp5 z) k fun rm => Pure.pure (c (.rmOp rm))) :
    Reads (Parse.item z) (f.enc op k) (c f) := by
  cases f with
  | ptr o s => exact values [op] (fun o s => c (.ptr o s)) (imm h) (word s) hd
  | rmOp rm => exact grp5 h h5

theorem ports {op : Byte} {c : PortForm → Instr} (f : PortForm)
    (himm : ∀ wide p l, Parse.item z (opw op wide :: p :: l) = some (c (.imm wide p), l))
    (hdx : ∀ wide l, Parse.item z (opw (op + 8) wide :: l) = some (c (.dx wide), l)) :
    Reads (Parse.item z) (f.enc op) (c f) := by
  cases f with
  | imm wide p => exact himm wide p
  | dx wide => exact hdx wide

/-! ## Byte patterns that are no instruction -/

section
variable {b : Byte}

/-- Where the blank two-byte opcodes lie. -/
theorem undef0F_rows (h : undef0F b = true) :
    b.toNat < 0x10 ∨ (0x17 < b.toNat ∧ b.toNat < 0x80) ∨ (0xA0 ≤ b.toNat ∧ b.toNat < 0xF0) := by
  simp only [undef0F, Bool.or_eq_true, Bool.and_eq_true, beq_iff_eq, decide_eq_true_eq] at h
  repeat' rcases h with h | h
  all_goals omega

theorem low0F_blank (h : undef0F b = true) (hb : b.toNat < 0x30) :
    Parse.low0F z b.toNat b = Pure.pure (.undefined (.op0F b)) := by
  unfold Parse.low0F
  split
  case h_13 =>
    have hmid : ¬(0x10 ≤ b.toNat ∧ b.toNat ≤ 0x17) := by have := undef0F_rows h; omega
    rw [if_neg hmid]
  all_goals simp [undef0F, *] at h

theorem rowA0F_blank (h : undef0F b = true) (hb : b.toNat / 16 = 0xA) :
    Parse.rowA0F z (b.toNat % 16) b = Pure.pure (.undefined (.op0F b)) := by
  unfold Parse.rowA0F
  split
  case h_12 => rfl
  all_goals
    have hn : b.toNat = 16 * (b.toNat / 16) + b.toNat % 16 := by omega
    rw [undef0F, hn, hb, ‹b.toNat % 16 = _›] at h
    cases h

theorem rowB0F_blank (h : undef0F b = true) (hb : b.toNat / 16 = 0xB) :
    Parse.rowB0F z (b.toNat % 16) b = Pure.pure (.undefined (.op0F b)) := by
  unfold Parse.rowB0F
  split
  case h_13 => rfl
  all_goals
    have hn : b.toNat = 16 * (b.toNat / 16) + b.toNat % 16 := by omega
    rw [undef0F, hn, hb, ‹b.toNat % 16 = _›] at h
    cases h

/-- Two-byte opcodes that the map leaves blank (R300). -/
theorem blank0F (h : undef0F b = true) : Reads (Parse.item z) [0x0F, b] (.undefined (.op0F b)) := fun l => by
  have hrows := undef0F_rows h
  show (Parse.twoByte z) (b :: l) = _
  rw [Parse.twoByte, Parse.byte_bind]
  refine congrFun (?_ : _ = (Pure.pure (Instr.undefined (.op0F b)) : Parse Instr)) l
  dsimp only
  split
  · exact low0F_blank h (by omega)
  · exact low0F_blank h (by omega)
  · exact low0F_blank h (by omega)
  · omega
  · omega
  · exact rowA0F_blank h (by assumption)
  · exact rowB0F_blank h (by assumption)
  · omega
  · rfl

end

/-- REG 010 to 111 of FE (R287). -/
theorem grp4_blank {m : Byte} (h : 2 ≤ (ModRM.ofByte m).reg.toNat) (l : List Byte) :
    Parse.grp4 z (m :: l) = some (.undefined (.grp 0xFE m), l) := by
  rw [Parse.grp4, Parse.byte_bind]
  refine congrFun (?_ : _ = (Pure.pure (Instr.undefined (.grp 0xFE m)) : Parse Instr)) l
  split
  · omega
  · omega
  · rfl

theorem grp5_blank {m : Byte} (h : (ModRM.ofByte m).reg = 7) (l : List Byte) :
    Parse.grp5 z (m :: l) = some (.undefined (.grp 0xFF m), l) := by
  rw [Parse.grp5, Parse.byte_bind, if_pos h]
  rfl

theorem slot0_blank {op m : Byte} {q : RM → Parse Instr} (h : (ModRM.ofByte m).reg ≠ 0) (l : List Byte) :
    Parse.slot0 z op q (m :: l) = some (.undefined (.grp op m), l) := by
  rw [Parse.slot0, Parse.byte_bind, if_neg h]
  rfl

theorem grp6_blank {m : Byte} (h : 6 ≤ (ModRM.ofByte m).reg.toNat) (l : List Byte) :
    Parse.grp6 z (m :: l) = some (.undefined (.grp0F 0x00 m), l) := by
  rw [Parse.grp6, Parse.byte_bind]
  refine congrFun (?_ : _ = (Pure.pure (Instr.undefined (.grp0F 0x00 m)) : Parse Instr)) l
  split
  case h_7 => rfl
  all_goals omega

theorem grp7_blank {m : Byte} (h : (ModRM.ofByte m).reg = 5 ∨ (ModRM.ofByte m).reg = 7) (l : List Byte) :
    Parse.grp7 z (m :: l) = some (.undefined (.grp0F 0x01 m), l) := by
  rw [Parse.grp7, Parse.byte_bind]
  rcases h with h | h <;> rw [h] <;> rfl

theorem grp8_blank {m : Byte} (h : (ModRM.ofByte m).reg.toNat < 4) (l : List Byte) :
    Parse.grp8 z (m :: l) = some (.undefined (.grp0F 0xBA m), l) := by
  rw [Parse.grp8, Parse.byte_bind, if_pos h]
  rfl

/-- What the decoder gives no meaning to (R300, R301). -/
theorem undefined {u : Undef} (h : u.wf = true) : Reads (Parse.item z) u.enc (.undefined u) := by
  cases u with
  | op b =>
    have hb : b = 0xD6 ∨ b = 0xF1 := by simpa [Undef.wf] using h
    rcases hb with rfl | rfl
    · exact fun _ => rfl
    · exact fun _ => rfl
  | op0F b => exact blank0F h
  | grp b m =>
    simp only [Undef.wf, undefGrp, Bool.or_eq_true, Bool.and_eq_true, beq_iff_eq, decide_eq_true_eq, bne_iff_ne] at h
    rcases h with (⟨rfl, h⟩ | ⟨rfl, h⟩) | ⟨(rfl | rfl) | rfl, h⟩
    · exact grp4_blank h
    · exact grp5_blank h
    · exact slot0_blank h
    · exact slot0_blank h
    · exact slot0_blank h
  | grp0F b m =>
    simp only [Undef.wf, undefGrp0F, Bool.or_eq_true, Bool.and_eq_true, beq_iff_eq, decide_eq_true_eq] at h
    rcases h with (⟨rfl, h⟩ | ⟨rfl, h⟩) | ⟨rfl, h⟩
    · exact grp6_blank h
    · exact grp7_blank h
    · exact grp8_blank h

/-! ## Every instruction -/

/-- The decoder reads every well-formed instruction's encoding as that instruction. -/
theorem item (i : Instr) (h : i.wf z = true) : Reads (Parse.item z) (encode i) i := by
  cases i with
  | segEs | segCs | segSs | segDs | segFs | segGs | opsize | adrsize | lock | repne | rep | nop | pusha | popa
  | daa | das | aaa | aas | insb | insv | outsb | outsv | movsb | movsv | cmpsb | cmpsv | stosb | stosv | lodsb | lodsv
  | scasb | scasv | int3 | into | iret | leave | wait | pushf | popf | sahf | lahf | xlatb | hlt | cmc | clc | stc | cli
  | sti | cld | std | clts => exact fun _ => rfl
  | aam i | aad i | int i | loopne r | loope r | loop r | jcxz r => exact fun _ => rfl
  | cbw | cwd =>
    obtain ⟨os32, as32⟩ := z
    obtain rfl : os32 = false := by simpa [Instr.wf] using h
    exact fun _ => rfl
  | cwde | cdq =>
    obtain ⟨os32, as32⟩ := z
    obtain rfl : os32 = true := h
    exact fun _ => rfl
  | add f => exact alu 0 h
  | or_ f => exact alu 1 h
  | adc f => exact alu 2 h
  | sbb f => exact alu 3 h
  | and_ f => exact alu 4 h
  | sub f => exact alu 5 h
  | xor_ f => exact alu 6 h
  | cmp f => exact alu 7 h
  | test f => exact test h
  | mov f => exact mov h
  | movFromSreg rm k =>
    refine slot [0x8C] (Parse.row8 z 12) (fun rm => .movFromSreg rm k) h (fun _ => rfl) fun _ _ _ => ?_
    rw [Parse.row8, Parse.modrm_bind, ModRM.ofByte_byte, SregField.ofNum_num]
  | movToSreg k rm =>
    refine slot [0x8E] (Parse.row8 z 14) (fun rm => .movToSreg k rm) h (fun _ => rfl) fun _ _ _ => ?_
    rw [Parse.row8, Parse.modrm_bind, ModRM.ofByte_byte, SregField.ofNum_num]
  | movFromCr mod n r | movToCr mod n r | movFromDr mod n r | movToDr mod n r | movFromTr mod n r | movToTr mod n r =>
    exact special fun _ => rfl
  | push f => exact push h
  | pushSreg k => cases k <;> exact fun _ => rfl
  | pop f => exact pop h
  | popSreg k =>
    cases k with
    | cs => exact nomatch h
    | es | ss | ds | fs | gs => exact fun _ => rfl
  | xchg f => exact xchg h
  | movzx wide r rm | movsx wide r rm => exact regRm2 _ h fun _ => by cases wide <;> rfl
  | lea r rm | les r rm | lds r rm | bound r rm => exact regRm1 _ h fun _ => rfl
  | arpl rm r => exact regRm1 (fun r rm => .arpl rm r) h fun _ => rfl
  | lss r rm | lfs r rm | lgs r rm | bsf r rm | bsr r rm | lar r rm | lsl r rm | scall r rm =>
    exact regRm2 _ h fun _ => rfl
  | rol wide rm c => exact shift 0 h c
  | ror wide rm c => exact shift 1 h c
  | rcl wide rm c => exact shift 2 h c
  | rcr wide rm c => exact shift 3 h c
  | shl al wide rm c =>
    cases al with
    | false => exact shift 4 h c
    | true => exact shift 6 h c
  | shr wide rm c => exact shift 5 h c
  | sar wide rm c => exact shift 7 h c
  | shld rm r n | shrd rm r n => exact double h n (fun _ => rfl) fun _ => rfl
  | bt f | bts f | btr f | btc f =>
    refine bitTest h (fun _ => rfl) fun _ _ _ => ?_
    rw [Parse.grp8, Parse.byte_bind, ModRM.ofByte_byte]
    rfl
  | imul f => exact imul h
  | mul wide rm | div wide rm | idiv wide rm | not_ wide rm | neg wide rm =>
    refine grp3 h fun _ _ _ => ?_
    rw [Parse.grp3, Parse.modrm_bind, ModRM.ofByte_byte]
    rfl
  | inc f | dec f =>
    refine incDec h (fun r _ => by cases r <;> rfl) (fun _ _ _ => ?_) fun _ _ _ => ?_
    · rw [Parse.grp4, Parse.byte_bind, ModRM.ofByte_byte]
      rfl
    · rw [Parse.grp5, Parse.byte_bind, ModRM.ofByte_byte]
      rfl
  | in_ f | out f => exact ports f (fun wide _ _ => by cases wide <;> rfl) fun wide _ => by cases wide <;> rfl
  | jo f => exact jcc 0 h
  | jno f => exact jcc 1 h
  | jb f => exact jcc 2 h
  | jnb f => exact jcc 3 h
  | jz f => exact jcc 4 h
  | jnz f => exact jcc 5 h
  | jbe f => exact jcc 6 h
  | jnbe f => exact jcc 7 h
  | js f => exact jcc 8 h
  | jns f => exact jcc 9 h
  | jp f => exact jcc 10 h
  | jnp f => exact jcc 11 h
  | jl f => exact jcc 12 h
  | jnl f => exact jcc 13 h
  | jle f => exact jcc 14 h
  | jnle f => exact jcc 15 h
  | seto rm => exact setcc 0 h
  | setno rm => exact setcc 1 h
  | setb rm => exact setcc 2 h
  | setnb rm => exact setcc 3 h
  | setz rm => exact setcc 4 h
  | setnz rm => exact setcc 5 h
  | setbe rm => exact setcc 6 h
  | setnbe rm => exact setcc 7 h
  | sets rm => exact setcc 8 h
  | setns rm => exact setcc 9 h
  | setp rm => exact setcc 10 h
  | setnp rm => exact setcc 11 h
  | setl rm => exact setcc 12 h
  | setnl rm => exact setcc 13 h
  | setle rm => exact setcc 14 h
  | setnle rm => exact setcc 15 h
  | jmpNear f => exact jmpNear h
  | jmpFar f | callFar f =>
    refine far h (fun _ => rfl) fun _ _ _ => ?_
    rw [Parse.grp5, Parse.byte_bind, ModRM.ofByte_byte]
    rfl
  | callNear f => exact callNear h
  | retNear n =>
    cases n with
    | none => exact fun _ => rfl
    | some n => exact value1 (fun n => .retNear (some n)) (word n) fun _ => rfl
  | retFar n =>
    cases n with
    | none => exact fun _ => rfl
    | some n => exact value1 (fun n => .retFar (some n)) (word n) fun _ => rfl
  | enter n l => exact values [0xC8] .enter (word n) (byte l) fun _ => rfl
  | esc op ext rm =>
    refine slot [0x1B#5 ++ op] (do let m ← Parse.modrm; let rm ← Parse.rm z.as32 m; return .esc op m.reg rm)
      (fun rm => .esc op ext rm) h (fun _ => ?_) fun _ _ _ => ?_
    · rcases octal_cases op with rfl | rfl | rfl | rfl | rfl | rfl | rfl | rfl <;> rfl
    · rw [Parse.modrm_bind, ModRM.ofByte_byte]
  | sldt rm | str rm | lldt rm | ltr rm | verr rm | verw rm =>
    refine slot [0x0F, 0x00] (Parse.grp6 z) _ h (fun _ => rfl) fun _ _ _ => ?_
    rw [Parse.grp6, Parse.byte_bind, ModRM.ofByte_byte]
    rfl
  | sgdt rm | sidt rm | lgdt rm | lidt rm | smsw rm | lmsw rm =>
    refine slot [0x0F, 0x01] (Parse.grp7 z) _ h (fun _ => rfl) fun _ _ _ => ?_
    rw [Parse.grp7, Parse.byte_bind, ModRM.ofByte_byte]
    rfl
  | ssvLow n =>
    rcases octal_cases n with rfl | rfl | rfl | rfl | rfl | rfl | rfl | rfl <;> exact fun _ => rfl
  | ssvHigh n =>
    intro rest
    show Parse.twoByte z ((15#4 ++ n) :: rest) = _
    rw [Parse.twoByte, Parse.byte_bind, toNat_append_div]
    show some (Instr.ssvHigh ((15#4 ++ n : Byte).extractLsb' 0 4), rest) = _
    rw [BitVec.extractLsb'_append_eq_right]
  | undefined u => exact undefined h

end Reads

/-- Settles O6: by cases on the instruction, the opcode bytes select the parser that reads its operands back. -/
theorem decodeEncode : Obligations.DecodeEncode := fun _ i rest h => Reads.item i h rest

end Sys2Proof
end

section
namespace Sys2Proof

/-! # What decodes is the encoding of what it decodes to -/

/-! ## Numbers and bytes -/

/-- A row of eight REG numbers. -/
theorem forall_octal {P : BitVec 3 → Prop} (h : P 0 ∧ P 1 ∧ P 2 ∧ P 3 ∧ P 4 ∧ P 5 ∧ P 6 ∧ P 7)
    (k : BitVec 3) : P k := by
  obtain ⟨h0, h1, h2, h3, h4, h5, h6, h7⟩ := h
  rcases octal_cases k with rfl | rfl | rfl | rfl | rfl | rfl | rfl | rfl <;> assumption

/-- A row of sixteen opcodes. -/
theorem forall_nibble {P : BitVec 4 → Prop}
    (h : P 0 ∧ P 1 ∧ P 2 ∧ P 3 ∧ P 4 ∧ P 5 ∧ P 6 ∧ P 7 ∧ P 8 ∧ P 9 ∧ P 10 ∧ P 11 ∧ P 12 ∧ P 13 ∧ P 14 ∧ P 15)
    (k : BitVec 4) : P k := by
  have hk : ∀ k : BitVec 4, k = 0 ∨ k = 1 ∨ k = 2 ∨ k = 3 ∨ k = 4 ∨ k = 5 ∨ k = 6 ∨ k = 7 ∨ k = 8 ∨ k = 9 ∨ k = 10 ∨
      k = 11 ∨ k = 12 ∨ k = 13 ∨ k = 14 ∨ k = 15 := by decide
  obtain ⟨h0, h1, h2, h3, h4, h5, h6, h7, h8, h9, h10, h11, h12, h13, h14, h15⟩ := h
  rcases hk k with rfl | rfl | rfl | rfl | rfl | rfl | rfl | rfl | rfl | rfl | rfl | rfl | rfl | rfl | rfl | rfl <;>
    assumption

theorem Reg.num_ofNum : ∀ n : BitVec 3, (Reg.ofNum n).num = n := by decide

theorem Base16.num_ofNum : ∀ n : BitVec 3, (Base16.ofNum n).num = n := by decide

theorem SregField.num_ofNum : ∀ n : BitVec 3, (SregField.ofNum n).num = n := by decide

theorem Reg.ofNum_eq_esp : ∀ {n : BitVec 3}, Reg.ofNum n = .esp ↔ n = 4 := by decide

theorem Reg.ofNum_eq_ebp : ∀ {n : BitVec 3}, Reg.ofNum n = .ebp ↔ n = 5 := by decide

theorem Base16.ofNum_eq_bp : ∀ {n : BitVec 3}, Base16.ofNum n = .bp ↔ n = 6 := by decide

/-- A byte is its three fields (30_encoding.md R268). -/
theorem ModRM.byte_ofByte (b : Byte) :
    ModRM.byte (ModRM.ofByte b).mod (ModRM.ofByte b).reg (ModRM.ofByte b).rm = b := by
  have hhigh : b.extractLsb' 6 2 ++ b.extractLsb' 3 3 = b.extractLsb' 3 5 :=
    BitVec.extractLsb'_append_extractLsb'_eq_extractLsb' rfl
  show b.extractLsb' 6 2 ++ b.extractLsb' 3 3 ++ b.extractLsb' 0 3 = b
  rw [hhigh]
  exact BitVec.extractLsb'_append_extractLsb' (w := 5) (len := 3)

theorem forall_modrm {P : Byte → Prop} (h : ∀ mod reg low, P (ModRM.byte mod reg low)) (b : Byte) : P b :=
  ModRM.byte_ofByte b ▸ h _ _ _

theorem forall_halves {P : Byte → Prop} (h : ∀ hi lo : BitVec 4, P (hi ++ lo)) (b : Byte) : P b := by
  have hb : b.extractLsb' 4 4 ++ b.extractLsb' 0 4 = b := BitVec.extractLsb'_append_extractLsb' (w := 4) (len := 4)
  exact hb ▸ h _ _

theorem le16_append (b1 b0 : Byte) : le16 (b1 ++ b0) = [b0, b1] := by
  have h0 : (b1 ++ b0).extractLsb' 0 8 = b0 := BitVec.extractLsb'_append_eq_right
  have h1 : (b1 ++ b0).extractLsb' 8 8 = b1 := BitVec.extractLsb'_append_eq_left
  exact congr_arg₂ (fun x y => [x, y]) h0 h1

theorem le32_append (w1 w0 : BitVec 16) : le32 (w1 ++ w0) = le16 w0 ++ le16 w1 := by
  have h0 : (w1 ++ w0).extractLsb' 0 16 = w0 := BitVec.extractLsb'_append_eq_right
  have h1 : (w1 ++ w0).extractLsb' 16 16 = w1 := BitVec.extractLsb'_append_eq_left
  rw [le32_eq]
  exact congr_arg₂ (fun x y => le16 x ++ le16 y) h0 h1

/-! ## What a parser has taken -/

/-- The bytes pre are taken before the parser; P holds of what it answers and of all the bytes then taken. -/
def Takes {α : Type} (pre : List Byte) (p : Parse α) (P : α → List Byte → Prop) : Prop :=
  ∀ l a rest, p l = some (a, rest) → ∃ e, pre ++ l = e ++ rest ∧ P a e

/-- The instruction is well formed, and the bytes are its encoding unless it is SETcc, whose REG field is not kept
(D47). -/
def Coded (z : Sizes) (i : Instr) (e : List Byte) : Prop :=
  i.wf z = true ∧ ((∀ k rm, i ≠ setccInstr k rm) → e = encode i)

namespace Takes
variable {α β : Type} {p : Parse α} {f : α → Parse β} {pre : List Byte} {P : β → List Byte → Prop}
  {Q : α → List Byte → Prop} {mod : BitVec 2} {reg low : BitVec 3}

theorem pure {b : β} (h : P b pre) : Takes pre (Pure.pure b) P := fun l c rest hc => by
  cases hc
  exact ⟨pre, rfl, h⟩

theorem bind (hp : Takes pre p Q) (hf : ∀ a e, Q a e → Takes e (f a) P) : Takes pre (p >>= f) P :=
  fun l b rest h => by
    obtain ⟨⟨a, l'⟩, hpl, hfl⟩ := Option.bind_eq_some_iff.1 h
    obtain ⟨e, he, hQ⟩ := hp l a l' hpl
    obtain ⟨e', he', hP⟩ := hf a e hQ l' b rest hfl
    exact ⟨e', he.trans he', hP⟩

/-! ## The parts of an instruction -/

theorem byte : Takes pre Parse.byte fun b e => e = pre ++ [b] := by
  intro l b rest hl
  cases l with
  | nil => cases hl
  | cons c l =>
    cases hl
    exact ⟨pre ++ [b], by rw [List.append_assoc, List.singleton_append], rfl⟩

theorem byteThen {f : Byte → Parse β} (h : ∀ b, Takes (pre ++ [b]) (f b) P) : Takes pre (Parse.byte >>= f) P :=
  byte.bind fun b _ he => he ▸ h b

theorem word : Takes pre Parse.word fun v e => e = pre ++ le16 v :=
  byteThen fun b0 => byteThen fun b1 => pure (by rw [le16_append, List.append_assoc, List.singleton_append])

theorem wordThen {f : BitVec 16 → Parse β} (h : ∀ v, Takes (pre ++ le16 v) (f v) P) : Takes pre (Parse.word >>= f) P :=
  word.bind fun v _ he => he ▸ h v

theorem dword : Takes pre Parse.dword fun v e => e = pre ++ le32 v :=
  wordThen fun w0 => wordThen fun w1 => pure (by rw [le32_append, List.append_assoc])

theorem imm {is32 : Bool} : Takes pre (Parse.imm is32) fun i e => i.wf is32 = true ∧ e = pre ++ i.enc := by
  cases is32 with
  | false => exact word.bind fun v _ he => pure ⟨rfl, he⟩
  | true => exact dword.bind fun v _ he => pure ⟨rfl, he⟩

theorem immThen {is32 : Bool} {f : Imm → Parse β} (h : ∀ i, i.wf is32 = true → Takes (pre ++ i.enc) (f i) P) :
    Takes pre (Parse.imm is32 >>= f) P := imm.bind fun i _ ⟨hi, he⟩ => he ▸ h i hi

/-- MOD is not that of a register (R271, R272). -/
theorem memory_mod : ∀ {mod : BitVec 2}, mod ≠ 3 → mod = 0 ∨ mod = 1 ∨ mod = 2 := by decide

theorem disp16 (hmod : mod ≠ 3) : Takes pre (Parse.disp16 mod) fun d e => d.mod = mod ∧ e = pre ++ d.enc := by
  rcases memory_mod hmod with rfl | rfl | rfl
  · exact pure ⟨rfl, (List.append_nil pre).symm⟩
  · exact byte.bind fun v _ he => pure ⟨rfl, he⟩
  · exact word.bind fun v _ he => pure ⟨rfl, he⟩

theorem disp32 (hmod : mod ≠ 3) : Takes pre (Parse.disp32 mod) fun d e => d.mod = mod ∧ e = pre ++ d.enc := by
  rcases memory_mod hmod with rfl | rfl | rfl
  · exact pure ⟨rfl, (List.append_nil pre).symm⟩
  · exact byte.bind fun v _ he => pure ⟨rfl, he⟩
  · exact dword.bind fun v _ he => pure ⟨rfl, he⟩

/-- A SIB byte and displacement (R273). -/
theorem sib (hmod : mod ≠ 3) : Takes (pre ++ [ModRM.byte mod reg 4]) (Parse.sib mod)
    fun m e => m.wf true = true ∧ e = pre ++ m.enc reg := by
  refine byteThen (forall_modrm fun sc i b => ?_)
  rw [ModRM.ofByte_byte]
  dsimp only
  split
  · obtain ⟨rfl, rfl⟩ := ‹b = 5 ∧ mod = 0›
    exact dword.bind fun v e he => pure ⟨rfl, by rw [he, MemOp.enc, Reg.num_ofNum]; simp⟩
  · refine (disp32 hmod).bind fun d e ⟨hd, he⟩ => pure ⟨?_, ?_⟩
    · simp_all [MemOp.wf, Reg.ofNum_eq_ebp, ← Disp32.mod_eq_zero, imp_iff_not_or]
    · rw [he, MemOp.enc, Reg.num_ofNum, Reg.num_ofNum, hd]
      simp

/-- The ModR/M byte just taken, an E operand (R268, R271 to R274). -/
theorem operand {as32 : Bool} : Takes (pre ++ [ModRM.byte mod reg low]) (Parse.rm as32 ⟨mod, reg, low⟩)
    fun rm e => rm.wf as32 = true ∧ e = pre ++ rm.enc reg := by
  unfold Parse.rm
  dsimp only
  by_cases hmod : mod = 3
  · subst hmod
    rw [if_pos rfl]
    exact pure ⟨rfl, by rw [RM.enc, Reg.num_ofNum]⟩
  rw [if_neg hmod]
  cases as32 with
  | true =>
    rw [if_pos rfl]
    split
    · obtain rfl : low = 4 := ‹_›
      exact (sib hmod).bind fun m e hm => pure hm
    split
    · obtain ⟨rfl, rfl⟩ : low = 5 ∧ mod = 0 := ‹_›
      exact dword.bind fun v e he => pure ⟨rfl, by rw [he, RM.enc, MemOp.enc]; simp⟩
    · refine (disp32 hmod).bind fun d e ⟨hd, he⟩ => pure ⟨?_, ?_⟩
      · simp_all [RM.wf, MemOp.wf, Reg.ofNum_eq_esp, Reg.ofNum_eq_ebp, ← Disp32.mod_eq_zero, imp_iff_not_or]
      · rw [he, RM.enc, MemOp.enc, Reg.num_ofNum, hd]
        simp
  | false =>
    rw [if_neg Bool.false_ne_true]
    split
    · obtain ⟨rfl, rfl⟩ : low = 6 ∧ mod = 0 := ‹_›
      exact word.bind fun v e he => pure ⟨rfl, by rw [he, RM.enc, MemOp.enc]; simp⟩
    · refine (disp16 hmod).bind fun d e ⟨hd, he⟩ => pure ⟨?_, ?_⟩
      · simp_all [RM.wf, MemOp.wf, Base16.ofNum_eq_bp, ← Disp16.mod_eq_zero, imp_iff_not_or]
      · rw [he, RM.enc, MemOp.enc, Base16.num_ofNum, hd]
        simp

end Takes
end Sys2Proof
end

section
namespace Sys2Proof

/-! # The groups of the opcode map, decoded -/

namespace Takes
variable {β : Type} {pre : List Byte} {z : Sizes} {i : Instr} {P : β → List Byte → Prop} {mod : BitVec 2}
  {reg low : BitVec 3} {rm : RM}

/-! ## Operands, and what is then decoded -/

/-- The answer is the instruction whose encoding has been taken. -/
theorem done (hwf : i.wf z = true) (he : pre = encode i) : Takes pre (Pure.pure i) (Coded z) := pure ⟨hwf, fun _ => he⟩

theorem operandThen {as32 : Bool} {f : RM → Parse β}
    (h : ∀ rm, rm.wf as32 = true → Takes (pre ++ rm.enc reg) (f rm) P) :
    Takes (pre ++ [ModRM.byte mod reg low]) (Parse.rm as32 ⟨mod, reg, low⟩ >>= f) P :=
  operand.bind fun rm _ ⟨hrm, he⟩ => he ▸ h rm hrm

theorem modrmThen {f : ModRM → Parse β}
    (h : ∀ mod reg low, Takes (pre ++ [ModRM.byte mod reg low]) (f ⟨mod, reg, low⟩) P) :
    Takes pre (Parse.modrm >>= f) P := by
  have hmodrm : Takes pre Parse.modrm fun m e => e = pre ++ [ModRM.byte m.mod m.reg m.rm] :=
    byteThen fun b => pure (by rw [ModRM.byte_ofByte])
  exact hmodrm.bind fun m _ he => he ▸ h m.mod m.reg m.rm

/-- A ModR/M byte and the E operand of which its REG field is no part (R268). -/
theorem modrmOperand {f : ModRM → RM → Parse β}
    (h : ∀ m rm, rm.wf z.as32 = true → Takes (pre ++ rm.enc m.reg) (f m rm) P) :
    Takes pre (Parse.modrm >>= fun m => Parse.rm z.as32 m >>= f m) P :=
  modrmThen fun mod reg low => operandThen (h ⟨mod, reg, low⟩)

theorem regRm {f : Reg × RM → Parse β} (h : ∀ r rm, rm.wf z.as32 = true → Takes (pre ++ rm.enc r.num) (f (r, rm)) P) :
    Takes pre (Parse.regRm z >>= f) P := by
  have hboth : Takes pre (Parse.regRm z) fun x e => x.2.wf z.as32 = true ∧ e = pre ++ x.2.enc x.1.num :=
    modrmOperand fun m rm hrm => pure ⟨hrm, by rw [Reg.num_ofNum]⟩
  exact hboth.bind fun x _ ⟨hrm, he⟩ => he ▸ h x.1 x.2 hrm

/-- A group's ModR/M byte, before its E operand. -/
theorem slots {f : Byte → Parse β}
    (h : ∀ reg mod low, Takes (pre ++ [ModRM.byte mod reg low]) (f (ModRM.byte mod reg low)) P) :
    Takes pre (Parse.byte >>= f) P := byteThen (forall_modrm fun mod reg low => h reg mod low)

/-! ## The groups -/

theorem encode_aluInstr (f : AluForm) : ∀ k : BitVec 3, encode (aluInstr k.toNat f) = f.enc k :=
  forall_octal ⟨rfl, rfl, rfl, rfl, rfl, rfl, rfl, rfl⟩

theorem wf_aluInstr (f : AluForm) : ∀ k : BitVec 3, (aluInstr k.toNat f).wf z = f.wf z :=
  forall_octal ⟨rfl, rfl, rfl, rfl, rfl, rfl, rfl, rfl⟩

theorem encode_shiftInstr (wide : Bool) (rm : RM) (c : ShiftCount) :
    ∀ k : BitVec 3, encode (shiftInstr k.toNat wide rm c) = encShift k wide rm c :=
  forall_octal ⟨rfl, rfl, rfl, rfl, rfl, rfl, rfl, rfl⟩

theorem wf_shiftInstr (wide : Bool) (rm : RM) (c : ShiftCount) :
    ∀ k : BitVec 3, (shiftInstr k.toNat wide rm c).wf z = rm.wf z.as32 :=
  forall_octal ⟨rfl, rfl, rfl, rfl, rfl, rfl, rfl, rfl⟩

theorem encode_jccInstr (f : JccForm) : ∀ k : BitVec 4, encode (jccInstr k.toNat f) = f.enc k :=
  forall_nibble ⟨rfl, rfl, rfl, rfl, rfl, rfl, rfl, rfl, rfl, rfl, rfl, rfl, rfl, rfl, rfl, rfl⟩

theorem wf_jccInstr (f : JccForm) : ∀ k : BitVec 4, (jccInstr k.toNat f).wf z = f.wf z :=
  forall_nibble ⟨rfl, rfl, rfl, rfl, rfl, rfl, rfl, rfl, rfl, rfl, rfl, rfl, rfl, rfl, rfl, rfl⟩

theorem wf_setccInstr (rm : RM) : ∀ k : BitVec 4, (setccInstr k.toNat rm).wf z = rm.wf z.as32 :=
  forall_nibble ⟨rfl, rfl, rfl, rfl, rfl, rfl, rfl, rfl, rfl, rfl, rfl, rfl, rfl, rfl, rfl, rfl⟩

theorem alu {k : BitVec 3} {f : AluForm} (hf : f.wf z = true) (he : pre = f.enc k) :
    Takes pre (Pure.pure (aluInstr k.toNat f)) (Coded z) :=
  done ((wf_aluInstr f k).trans hf) (he.trans (encode_aluInstr f k).symm)

theorem shift {k : BitVec 3} {wide : Bool} {c : ShiftCount} (hrm : rm.wf z.as32 = true)
    (he : pre = encShift k wide rm c) : Takes pre (Pure.pure (shiftInstr k.toNat wide rm c)) (Coded z) :=
  done ((wf_shiftInstr wide rm c k).trans hrm) (he.trans (encode_shiftInstr wide rm c k).symm)

/-- GRP1: 80, 81, 82, 83 (R287). -/
theorem grp1_80 : Takes [0x80] (Parse.grp1 z 0) (Coded z) := modrmOperand fun _ _ h => byteThen fun _ => alu h rfl

theorem grp1_81 : Takes [0x81] (Parse.grp1 z 1) (Coded z) :=
  modrmOperand fun _ _ h => immThen fun _ hi => alu (Bool.and_eq_true_iff.2 ⟨h, hi⟩) rfl

theorem grp1_82 : Takes [0x82] (Parse.grp1 z 2) (Coded z) := modrmOperand fun _ _ h => byteThen fun _ => alu h rfl

theorem grp1_83 : Takes [0x83] (Parse.grp1 z 3) (Coded z) := modrmOperand fun _ _ h => byteThen fun _ => alu h rfl

theorem grp2Imm (wide : Bool) : Takes [opw 0xC0 wide] (Parse.grp2Imm z wide) (Coded z) :=
  modrmOperand fun _ _ h => byteThen fun _ => shift h rfl

theorem grp2_one (wide : Bool) : Takes [opw 0xD0 wide] (Parse.grp2 z wide .one) (Coded z) :=
  modrmOperand fun _ _ h => shift h rfl

theorem grp2_cl (wide : Bool) : Takes [opw 0xD2 wide] (Parse.grp2 z wide .cl) (Coded z) :=
  modrmOperand fun _ _ h => shift h rfl

/-- TEST in GRP3, under REG 000 or 001 (R287). -/
theorem grp3_test {wide : Bool} (al : Bool) (h : rm.wf z.as32 = true) :
    Takes ([opw 0xF6 wide] ++ rm.enc (if al then 1 else 0))
      (if wide then do let i ← Parse.imm z.os32; return .test (.rmImm al rm i)
        else do let i ← Parse.byte; return .test (.rmImm8 al rm i)) (Coded z) := by
  cases wide with
  | false => exact byteThen fun _ => done h rfl
  | true => exact immThen fun _ hi => done (Bool.and_eq_true_iff.2 ⟨h, hi⟩) rfl

theorem grp3 (wide : Bool) : Takes [opw 0xF6 wide] (Parse.grp3 z wide) (Coded z) := by
  refine modrmThen fun _ reg _ => operandThen fun rm h => ?_
  revert reg
  exact forall_octal ⟨grp3_test false h, grp3_test true h, done h rfl, done h rfl, done h rfl, done h rfl, done h rfl,
    done h rfl⟩

/-- A blank slot of a one-byte group (R300, R301). -/
theorem blankSlot {op : Byte} (h : undefGrp op reg = true) :
    Takes [op, ModRM.byte mod reg low] (Pure.pure (.undefined (.grp op (ModRM.byte mod reg low)))) (Coded z) := by
  have hreg : (ModRM.byte mod reg low).extractLsb' 3 3 = reg := congrArg ModRM.reg (ModRM.ofByte_byte mod reg low)
  exact done ((congrArg (undefGrp op) hreg).trans h) rfl

/-- A blank slot of a two-byte group (R300). -/
theorem blankSlot0F {op : Byte} (h : undefGrp0F op reg = true) :
    Takes [0x0F, op, ModRM.byte mod reg low] (Pure.pure (.undefined (.grp0F op (ModRM.byte mod reg low))))
      (Coded z) := by
  have hreg : (ModRM.byte mod reg low).extractLsb' 3 3 = reg := congrArg ModRM.reg (ModRM.ofByte_byte mod reg low)
  exact done ((congrArg (undefGrp0F op) hreg).trans h) rfl

theorem grp4 : Takes [0xFE] (Parse.grp4 z) (Coded z) := by
  refine slots fun reg mod low => ?_
  rw [ModRM.ofByte_byte]
  revert reg
  exact forall_octal ⟨operandThen fun _ h => done h rfl, operandThen fun _ h => done h rfl, blankSlot rfl,
    blankSlot rfl, blankSlot rfl, blankSlot rfl, blankSlot rfl, blankSlot rfl⟩

theorem grp5 : Takes [0xFF] (Parse.grp5 z) (Coded z) := by
  refine slots fun reg mod low => ?_
  rw [ModRM.ofByte_byte]
  revert reg
  exact forall_octal ⟨operandThen fun _ h => done h rfl, operandThen fun _ h => done h rfl,
    operandThen fun _ h => done h rfl, operandThen fun _ h => done h rfl, operandThen fun _ h => done h rfl,
    operandThen fun _ h => done h rfl, operandThen fun _ h => done h rfl, blankSlot rfl⟩

/-- 8F, C6 and C7 (R301). -/
theorem slot0 {op : Byte} {q : RM → Parse Instr} (hop : op = 0x8F ∨ op = 0xC6 ∨ op = 0xC7)
    (hq : ∀ rm, rm.wf z.as32 = true → Takes ([op] ++ rm.enc 0) (q rm) (Coded z)) :
    Takes [op] (Parse.slot0 z op q) (Coded z) := by
  refine slots fun reg mod low => ?_
  rw [ModRM.ofByte_byte]
  dsimp only
  split
  · obtain rfl : reg = 0 := ‹_›
    exact operandThen hq
  · have hreg : ¬reg = 0#3 := ‹_›
    refine blankSlot ?_
    rcases hop with rfl | rfl | rfl <;> simp [undefGrp, hreg]

theorem grp6 : Takes [0x0F, 0x00] (Parse.grp6 z) (Coded z) := by
  refine slots fun reg mod low => ?_
  rw [ModRM.ofByte_byte]
  revert reg
  exact forall_octal ⟨operandThen fun _ h => done h rfl, operandThen fun _ h => done h rfl,
    operandThen fun _ h => done h rfl, operandThen fun _ h => done h rfl, operandThen fun _ h => done h rfl,
    operandThen fun _ h => done h rfl, blankSlot0F rfl, blankSlot0F rfl⟩

theorem grp7 : Takes [0x0F, 0x01] (Parse.grp7 z) (Coded z) := by
  refine slots fun reg mod low => ?_
  rw [ModRM.ofByte_byte]
  revert reg
  exact forall_octal ⟨operandThen fun _ h => done h rfl, operandThen fun _ h => done h rfl,
    operandThen fun _ h => done h rfl, operandThen fun _ h => done h rfl, operandThen fun _ h => done h rfl,
    blankSlot0F rfl, operandThen fun _ h => done h rfl, blankSlot0F rfl⟩

theorem grp8 : Takes [0x0F, 0xBA] (Parse.grp8 z) (Coded z) := by
  refine slots fun reg mod low => ?_
  rw [ModRM.ofByte_byte]
  revert reg
  exact forall_octal ⟨blankSlot0F rfl, blankSlot0F rfl, blankSlot0F rfl, blankSlot0F rfl,
    operandThen fun _ h => byteThen fun _ => done h rfl, operandThen fun _ h => byteThen fun _ => done h rfl,
    operandThen fun _ h => byteThen fun _ => done h rfl, operandThen fun _ h => byteThen fun _ => done h rfl⟩

/-- A move of a special register: its ModR/M byte holds all its operands (R275). -/
theorem special {c : BitVec 2 → BitVec 3 → Reg → Instr} (hwf : ∀ mod n r, (c mod n r).wf z = true)
    (he : ∀ mod n r, pre ++ [ModRM.byte mod n r.num] = encode (c mod n r)) :
    Takes pre (Parse.special c) (Coded z) :=
  modrmThen fun mod n low => done (hwf _ _ _) (by rw [← he, Reg.num_ofNum])

end Takes
end Sys2Proof
end

section
namespace Sys2Proof

/-! # The opcode maps, decoded

A row lists, opcode by opcode, what is taken behind the opcode before the answer is made: nothing, a byte, a word, an
immediate, a register and an E operand, or a group. -/

namespace Takes
variable {z : Sizes}

theorem aluForm (k : BitVec 3) : ∀ lo : BitVec 3, lo.toNat < 6 →
    Takes [0#2 ++ k ++ lo] (Parse.aluForm z lo.toNat) fun f e => f.wf z = true ∧ e = f.enc k :=
  forall_octal ⟨fun _ => regRm fun _ _ h => pure ⟨h, rfl⟩,
    fun _ => regRm fun _ _ h => pure ⟨h, congrArg (fun b => b :: _) (opw_rmReg k).symm⟩,
    fun _ => regRm fun _ _ h => pure ⟨h, rfl⟩,
    fun _ => regRm fun _ _ h => pure ⟨h, congrArg (fun b => b :: _) (opw_regRm k).symm⟩,
    fun _ => byteThen fun _ => pure ⟨rfl, rfl⟩, fun _ => immThen fun _ hi => pure ⟨hi, rfl⟩,
    fun h => absurd h (by decide), fun h => absurd h (by decide)⟩

/-- The low six opcodes of each half row of 00 to 3F (R285). -/
theorem aluOp (k lo : BitVec 3) (hlo : lo.toNat < 6 := by decide) : Takes [0#2 ++ k ++ lo]
    (Parse.aluForm z lo.toNat >>= fun f => Pure.pure (aluInstr k.toNat f)) (Coded z) :=
  (aluForm k lo hlo).bind fun _ _ ⟨hf, he⟩ => alu hf he

/-! ## Two-byte opcodes -/

theorem low0 : ∀ lo : BitVec 4,
    Takes [0x0F, 0#4 ++ lo] (Parse.low0F z (0#4 ++ lo : Byte).toNat (0#4 ++ lo)) (Coded z) :=
  forall_nibble ⟨grp6, grp7, regRm fun _ _ h => done h rfl, regRm fun _ _ h => done h rfl,
    done rfl rfl, done rfl rfl, done rfl rfl, done rfl rfl,
    done rfl rfl, done rfl rfl, done rfl rfl, done rfl rfl, done rfl rfl, done rfl rfl, done rfl rfl, done rfl rfl⟩

theorem low1 : ∀ lo : BitVec 4,
    Takes [0x0F, 1#4 ++ lo] (Parse.low0F z (1#4 ++ lo : Byte).toNat (1#4 ++ lo)) (Coded z) :=
  forall_nibble ⟨done rfl rfl, done rfl rfl, done rfl rfl, done rfl rfl,
    done rfl rfl, done rfl rfl, done rfl rfl, done rfl rfl, regRm fun _ _ h => done h rfl,
    done rfl rfl, done rfl rfl, done rfl rfl, done rfl rfl, done rfl rfl, done rfl rfl, done rfl rfl⟩

theorem low2 : ∀ lo : BitVec 4,
    Takes [0x0F, 2#4 ++ lo] (Parse.low0F z (2#4 ++ lo : Byte).toNat (2#4 ++ lo)) (Coded z) :=
  have move {op : Byte} {c : BitVec 2 → BitVec 3 → Reg → Instr} (hwf : ∀ mod n r, (c mod n r).wf z = true)
      (he : ∀ mod n r, [0x0F, op, ModRM.byte mod n r.num] = encode (c mod n r)) :
      Takes [0x0F, op] (Parse.special c) (Coded z) := special hwf he
  forall_nibble ⟨move (fun _ _ _ => rfl) fun _ _ _ => rfl, move (fun _ _ _ => rfl) fun _ _ _ => rfl,
    move (fun _ _ _ => rfl) fun _ _ _ => rfl, move (fun _ _ _ => rfl) fun _ _ _ => rfl,
    move (fun _ _ _ => rfl) fun _ _ _ => rfl, done rfl rfl, move (fun _ _ _ => rfl) fun _ _ _ => rfl, done rfl rfl,
    done rfl rfl, done rfl rfl, done rfl rfl, done rfl rfl, done rfl rfl, done rfl rfl, done rfl rfl, done rfl rfl⟩

theorem rowA0F : ∀ lo : BitVec 4, Takes [0x0F, 0xA#4 ++ lo] (Parse.rowA0F z lo.toNat (0xA#4 ++ lo)) (Coded z) :=
  forall_nibble ⟨done rfl rfl, done rfl rfl, done rfl rfl, regRm fun _ _ h => done h rfl,
    regRm fun _ _ h => byteThen fun _ => done h rfl, regRm fun _ _ h => done h rfl, done rfl rfl, done rfl rfl,
    done rfl rfl, done rfl rfl, done rfl rfl, regRm fun _ _ h => done h rfl,
    regRm fun _ _ h => byteThen fun _ => done h rfl, regRm fun _ _ h => done h rfl, done rfl rfl,
    regRm fun _ _ h => done h rfl⟩

theorem rowB0F : ∀ lo : BitVec 4, Takes [0x0F, 0xB#4 ++ lo] (Parse.rowB0F z lo.toNat (0xB#4 ++ lo)) (Coded z) :=
  forall_nibble ⟨done rfl rfl, done rfl rfl, regRm fun _ _ h => done h rfl, regRm fun _ _ h => done h rfl,
    regRm fun _ _ h => done h rfl, regRm fun _ _ h => done h rfl, regRm fun _ _ h => done h rfl,
    regRm fun _ _ h => done h rfl, done rfl rfl, done rfl rfl, grp8, regRm fun _ _ h => done h rfl,
    regRm fun _ _ h => done h rfl, regRm fun _ _ h => done h rfl, regRm fun _ _ h => done h rfl,
    regRm fun _ _ h => done h rfl⟩

theorem jccNear (lo : BitVec 4) : Takes [0x0F, 8#4 ++ lo]
    (Parse.imm z.os32 >>= fun r => Pure.pure (jccInstr lo.toNat (.near r))) (Coded z) :=
  immThen fun r hr => done ((wf_jccInstr (.near r) lo).trans hr) (encode_jccInstr (.near r) lo).symm

/-- SETcc: the REG field is lost (D47). -/
theorem setcc (lo : BitVec 4) : Takes [0x0F, 9#4 ++ lo]
    (Parse.regRm z >>= fun x => Pure.pure (setccInstr lo.toNat x.2)) (Coded z) :=
  regRm fun _ rm h => pure ⟨(wf_setccInstr rm lo).trans h, fun hne => absurd rfl (hne _ rm)⟩

theorem blankRow {hi : BitVec 4} (h : ∀ lo : BitVec 4, undef0F (hi ++ lo) = true) (lo : BitVec 4) :
    Takes [0x0F, hi ++ lo] (Pure.pure (.undefined (.op0F (hi ++ lo)))) (Coded z) := done (h lo) rfl

theorem ssvHigh (lo : BitVec 4) : Takes [0x0F, 15#4 ++ lo]
    (Pure.pure (.ssvHigh ((15#4 ++ lo : Byte).extractLsb' 0 4))) (Coded z) := by
  have hlo : (15#4 ++ lo : Byte).extractLsb' 0 4 = lo := BitVec.extractLsb'_append_eq_right
  rw [hlo]
  exact done rfl rfl

theorem twoByte : Takes [0x0F] (Parse.twoByte z) (Coded z) := by
  refine byteThen (forall_halves fun hi lo => ?_)
  rw [toNat_append_div, toNat_append_mod]
  revert hi lo
  exact forall_nibble ⟨low0, low1, low2, blankRow (by decide), blankRow (by decide), blankRow (by decide),
    blankRow (by decide), blankRow (by decide),
    jccNear, setcc, rowA0F, rowB0F,
    blankRow (by decide), blankRow (by decide), blankRow (by decide), ssvHigh⟩

/-! ## One-byte opcodes -/

theorem row0 : ∀ lo : BitVec 4,
    Takes [0#4 ++ lo] (if lo.toNat = 15 then Parse.twoByte z else Parse.rowsAlu z 0 lo.toNat) (Coded z) :=
  forall_nibble ⟨aluOp 0 0, aluOp 0 1, aluOp 0 2, aluOp 0 3, aluOp 0 4, aluOp 0 5, done rfl rfl, done rfl rfl,
    aluOp 1 0, aluOp 1 1, aluOp 1 2, aluOp 1 3, aluOp 1 4, aluOp 1 5, done rfl rfl, twoByte⟩

theorem row1 : ∀ lo : BitVec 4, Takes [1#4 ++ lo] (Parse.rowsAlu z 1 lo.toNat) (Coded z) :=
  forall_nibble ⟨aluOp 2 0, aluOp 2 1, aluOp 2 2, aluOp 2 3, aluOp 2 4, aluOp 2 5, done rfl rfl, done rfl rfl,
    aluOp 3 0, aluOp 3 1, aluOp 3 2, aluOp 3 3, aluOp 3 4, aluOp 3 5, done rfl rfl, done rfl rfl⟩

theorem row2 : ∀ lo : BitVec 4, Takes [2#4 ++ lo] (Parse.rowsAlu z 2 lo.toNat) (Coded z) :=
  forall_nibble ⟨aluOp 4 0, aluOp 4 1, aluOp 4 2, aluOp 4 3, aluOp 4 4, aluOp 4 5, done rfl rfl, done rfl rfl,
    aluOp 5 0, aluOp 5 1, aluOp 5 2, aluOp 5 3, aluOp 5 4, aluOp 5 5, done rfl rfl, done rfl rfl⟩

theorem row3 : ∀ lo : BitVec 4, Takes [3#4 ++ lo] (Parse.rowsAlu z 3 lo.toNat) (Coded z) :=
  forall_nibble ⟨aluOp 6 0, aluOp 6 1, aluOp 6 2, aluOp 6 3, aluOp 6 4, aluOp 6 5, done rfl rfl, done rfl rfl,
    aluOp 7 0, aluOp 7 1, aluOp 7 2, aluOp 7 3, aluOp 7 4, aluOp 7 5, done rfl rfl, done rfl rfl⟩

theorem row4 : ∀ lo : BitVec 4, Takes [4#4 ++ lo]
    (if lo.toNat < 8 then Pure.pure (.inc (.reg (Reg.ofNum ((4#4 ++ lo : Byte).extractLsb' 0 3))))
      else Pure.pure (.dec (.reg (Reg.ofNum ((4#4 ++ lo : Byte).extractLsb' 0 3))))) (Coded z) :=
  forall_nibble (by and_intros <;> exact done rfl rfl)

theorem row5 : ∀ lo : BitVec 4, Takes [5#4 ++ lo]
    (if lo.toNat < 8 then Pure.pure (.push (.reg (Reg.ofNum ((5#4 ++ lo : Byte).extractLsb' 0 3))))
      else Pure.pure (.pop (.reg (Reg.ofNum ((5#4 ++ lo : Byte).extractLsb' 0 3))))) (Coded z) :=
  forall_nibble (by and_intros <;> exact done rfl rfl)

theorem row6 : ∀ lo : BitVec 4, Takes [6#4 ++ lo] (Parse.row6 z lo.toNat) (Coded z) :=
  forall_nibble ⟨done rfl rfl, done rfl rfl, regRm fun _ _ h => done h rfl, regRm fun _ _ h => done h rfl,
    done rfl rfl, done rfl rfl, done rfl rfl, done rfl rfl, immThen fun _ hi => done hi rfl,
    regRm fun _ _ h => immThen fun _ hi => done (Bool.and_eq_true_iff.2 ⟨h, hi⟩) rfl, byteThen fun _ => done rfl rfl,
    regRm fun _ _ h => byteThen fun _ => done h rfl, done rfl rfl, done rfl rfl, done rfl rfl, done rfl rfl⟩

theorem row7 (lo : BitVec 4) :
    Takes [7#4 ++ lo] (Parse.byte >>= fun r => Pure.pure (jccInstr lo.toNat (.short r))) (Coded z) :=
  byteThen fun r => done (wf_jccInstr (.short r) lo) (encode_jccInstr (.short r) lo).symm

theorem row8 : ∀ lo : BitVec 4, Takes [8#4 ++ lo] (Parse.row8 z lo.toNat) (Coded z) :=
  forall_nibble ⟨grp1_80, grp1_81, grp1_82, grp1_83, regRm fun _ _ h => done h rfl, regRm fun _ _ h => done h rfl,
    regRm fun _ _ h => done h rfl, regRm fun _ _ h => done h rfl, regRm fun _ _ h => done h rfl,
    regRm fun _ _ h => done h rfl, regRm fun _ _ h => done h rfl, regRm fun _ _ h => done h rfl,
    modrmOperand fun _ _ h => done h (by rw [encode, SregField.num_ofNum]; rfl), regRm fun _ _ h => done h rfl,
    modrmOperand fun _ _ h => done h (by rw [encode, SregField.num_ofNum]; rfl),
    slot0 (by decide) fun _ h => done h rfl⟩

theorem row9 : ∀ lo : BitVec 4, Takes [9#4 ++ lo] (Parse.row9 z lo.toNat) (Coded z) := by
  obtain ⟨os32, as32⟩ := z
  exact forall_nibble ⟨done rfl rfl, done rfl rfl, done rfl rfl, done rfl rfl, done rfl rfl, done rfl rfl, done rfl rfl,
    done rfl rfl, by cases os32 <;> exact done rfl rfl, by cases os32 <;> exact done rfl rfl,
    immThen fun _ hi => wordThen fun _ => done hi rfl, done rfl rfl, done rfl rfl, done rfl rfl, done rfl rfl,
    done rfl rfl⟩

theorem rowA : ∀ lo : BitVec 4, Takes [0xA#4 ++ lo] (Parse.rowA z lo.toNat) (Coded z) :=
  forall_nibble ⟨immThen fun _ hi => done hi rfl, immThen fun _ hi => done hi rfl, immThen fun _ hi => done hi rfl,
    immThen fun _ hi => done hi rfl, done rfl rfl, done rfl rfl, done rfl rfl, done rfl rfl,
    byteThen fun _ => done rfl rfl, immThen fun _ hi => done hi rfl, done rfl rfl, done rfl rfl, done rfl rfl,
    done rfl rfl, done rfl rfl, done rfl rfl⟩

theorem rowB : ∀ lo : BitVec 4, Takes [0xB#4 ++ lo]
    (if lo.toNat < 8 then Parse.byte >>= fun i =>
        Pure.pure (.mov (.regImm8 (Reg.ofNum ((0xB#4 ++ lo : Byte).extractLsb' 0 3)) i))
      else Parse.imm z.os32 >>= fun i =>
        Pure.pure (.mov (.regImm (Reg.ofNum ((0xB#4 ++ lo : Byte).extractLsb' 0 3)) i))) (Coded z) :=
  forall_nibble ⟨byteThen fun _ => done rfl rfl, byteThen fun _ => done rfl rfl, byteThen fun _ => done rfl rfl,
    byteThen fun _ => done rfl rfl, byteThen fun _ => done rfl rfl, byteThen fun _ => done rfl rfl,
    byteThen fun _ => done rfl rfl, byteThen fun _ => done rfl rfl, immThen fun _ hi => done hi rfl,
    immThen fun _ hi => done hi rfl, immThen fun _ hi => done hi rfl, immThen fun _ hi => done hi rfl,
    immThen fun _ hi => done hi rfl, immThen fun _ hi => done hi rfl, immThen fun _ hi => done hi rfl,
    immThen fun _ hi => done hi rfl⟩

theorem rowC : ∀ lo : BitVec 4, Takes [0xC#4 ++ lo] (Parse.rowC z lo.toNat) (Coded z) :=
  forall_nibble ⟨grp2Imm false, grp2Imm true, wordThen fun _ => done rfl rfl, done rfl rfl,
    regRm fun _ _ h => done h rfl, regRm fun _ _ h => done h rfl,
    slot0 (by decide) fun _ h => byteThen fun _ => done h rfl,
    slot0 (by decide) fun _ h => immThen fun _ hi => done (Bool.and_eq_true_iff.2 ⟨h, hi⟩) rfl,
    wordThen fun _ => byteThen fun _ => done rfl rfl, done rfl rfl, wordThen fun _ => done rfl rfl, done rfl rfl,
    done rfl rfl, byteThen fun _ => done rfl rfl, done rfl rfl, done rfl rfl⟩

theorem rowD : ∀ lo : BitVec 4, Takes [0xD#4 ++ lo] (Parse.rowD z lo.toNat) (Coded z) :=
  forall_nibble ⟨grp2_one false, grp2_one true, grp2_cl false, grp2_cl true, byteThen fun _ => done rfl rfl,
    byteThen fun _ => done rfl rfl, done rfl rfl, done rfl rfl, modrmOperand fun _ _ h => done h rfl,
    modrmOperand fun _ _ h => done h rfl, modrmOperand fun _ _ h => done h rfl, modrmOperand fun _ _ h => done h rfl,
    modrmOperand fun _ _ h => done h rfl, modrmOperand fun _ _ h => done h rfl, modrmOperand fun _ _ h => done h rfl,
    modrmOperand fun _ _ h => done h rfl⟩

theorem rowE : ∀ lo : BitVec 4, Takes [0xE#4 ++ lo] (Parse.rowE z lo.toNat) (Coded z) :=
  forall_nibble ⟨byteThen fun _ => done rfl rfl, byteThen fun _ => done rfl rfl, byteThen fun _ => done rfl rfl,
    byteThen fun _ => done rfl rfl, byteThen fun _ => done rfl rfl, byteThen fun _ => done rfl rfl,
    byteThen fun _ => done rfl rfl, byteThen fun _ => done rfl rfl, immThen fun _ hi => done hi rfl,
    immThen fun _ hi => done hi rfl, immThen fun _ hi => wordThen fun _ => done hi rfl, byteThen fun _ => done rfl rfl,
    done rfl rfl, done rfl rfl, done rfl rfl, done rfl rfl⟩

theorem rowF : ∀ lo : BitVec 4, Takes [0xF#4 ++ lo] (Parse.rowF z lo.toNat) (Coded z) :=
  forall_nibble ⟨done rfl rfl, done rfl rfl, done rfl rfl, done rfl rfl, done rfl rfl, done rfl rfl, grp3 false,
    grp3 true, done rfl rfl, done rfl rfl, done rfl rfl, done rfl rfl, done rfl rfl, done rfl rfl, grp4, grp5⟩

/-- What the decoder answers is well formed, and it took that instruction's bytes. -/
theorem item : Takes [] (Parse.item z) (Coded z) := by
  refine byteThen (forall_halves fun hi lo => ?_)
  rw [toNat_append_div, toNat_append_mod]
  revert hi lo
  exact forall_nibble ⟨row0, row1, row2, row3, row4, row5, row6, row7, row8, row9, rowA, rowB, rowC, rowD, rowE, rowF⟩

end Takes

/-- Settles O7: each row of the opcode maps takes the bytes that `encode` gives for what it answers. -/
theorem decodeSound : Obligations.DecodeSound := fun _ i bytes rest h => by
  obtain ⟨e, he, hwf, henc⟩ := Takes.item bytes i rest h
  refine ⟨hwf, fun hne => ?_⟩
  rw [← henc hne, ← he, List.nil_append]

end Sys2Proof
end
